-- ==== Sys2Proof/Word.lean ====
section
/-! DEFINITION. The word types of the GX-7480: scalar words, bytes and 512-byte rows (spec R3, R56). -/

namespace Sys2Proof

/-- A byte of memory. -/
abbrev Byte := BitVec 8
/-- A scalar operand (R244: every scalar operand is 64 bits). -/
abbrev W64 := BitVec 64
/-- A 32-bit lane or flag. -/
abbrev W32 := BitVec 32
/-- The 512 data bytes of an accumulator row (R56); byte 0 is bits [7:0] (R3). -/
abbrev Row := BitVec 4096
/-- A logical core number (R17). -/
abbrev CoreId := Fin 64
/-- A copy engine: 0 to 63 the core engines, 64 to 71 the system engines (R137, BIND). -/
abbrev EngineId := Fin 72

/-- A row with its poison tag (R16, R56). -/
structure RowT where
  data : Row
  tag : Byte
  deriving DecidableEq, Repr, Inhabited

/-- The value a move delivers (R203): a 64-bit value or a row with its tag. -/
inductive Val where
  | w (v : W64)
  | r (v : RowT)
  deriving DecidableEq, Repr, Inhabited

/-- Sparse data by key: pairs in rising key order, none equal to what an absent key reads as. -/
abbrev SMap (β : Type) := List (Nat × β)

/-- Memory: (address, byte) pairs in the canonical form of `SMap`. -/
abbrev Memory := List (Nat × Byte)

/-- Zero row with a clear tag. -/
def RowT.zero : RowT := ⟨0, 0⟩

end Sys2Proof
end

