-- ==== Sys2Proof/Syntax.lean ====
section
/-! DEFINITION. Syntax: the sources and destinations of a move (spec R210, R211, R229, R236 to R243), the header of a
bundle (R207), and `Instr`, one constructor for each of the 330 rows of spec/opcode_table.json: bundle triggers,
CIM micro-operations (R347) and the events of spec/95_what_each_step_holds.md. -/

namespace Sys2Proof

/-- The assigned source ports `0x100` to `0x157` of R229. -/
inductive Port where
  | sa (u : Fin 2) | ctl | pr | sys | sysLr
  | va (u : Fin 3) | sf | tt
  | lsR (u : Fin 2) | lsV (u : Fin 2) | lsG (u : Fin 2) | lsGv (u : Fin 2)
  | sy | cf | cim
  | yqPop | aqSt | nmPop (u : Fin 4) | nmSt (u : Fin 4)
  deriving DecidableEq, Repr, Inhabited

/-- A source code (R210). -/
inductive Src where
  | x (i : BitVec 6)        -- `0x000` + i
  | p (i : Fin 96)          -- `0x040` + i
  | tok (k : BitVec 5)      -- `0x0A0` + k
  | v (i : BitVec 6)        -- `0x0C0` + i
  | port (q : Port)
  | limmS | limmZ | limmHi | limmPc   -- `0x6FC` to `0x6FF`
  | imm (b : BitVec 8)      -- `0x700` + b
  deriving DecidableEq, Repr, Inhabited

/-- The operand, mode, type, wait and produce latches, by block (R236 to R243). -/
inductive Latch where
  | saA (u : Fin 2) | saC (u : Fin 2) | saM (u : Fin 2)
  | ctlA | ctlC | prA | sysA | sysC | sysW | sysK
  | vaA (u : Fin 3) | vaC (u : Fin 3) | vaM (u : Fin 3) | vaTy (u : Fin 3)
  | sfA | sfM | ttA | ttTy
  | lsA (u : Fin 2) | lsC (u : Fin 2)
  | syA | syC | ceA | ceW | ceK
  | mp (i : Fin 8) | cimA | cimW | cimK
  | coA | coC | coW | coK | nmK
  deriving DecidableEq, Repr, Inhabited

/-- A destination that holds a value (R211): a register, a latch or Null. Trigger ports are constructors of `Instr`;
`trigger` stands for one as the destination of a pop (R230). -/
inductive Dst where
  | x (i : BitVec 6) | p (i : Fin 96) | v (i : BitVec 6)
  | latch (l : Latch)
  | trigger (code : BitVec 11)
  | null
  deriving DecidableEq, Repr, Inhabited

/-- The guard select and the source of a trigger's move (R209). -/
structure Mv where
  gs : BitVec 2
  src : Src
  deriving DecidableEq, Repr, Inhabited

/-- The header of a bundle (R207); the fields that must be zero are checked by the decoder. -/
structure Header where
  c : Bool
  l : Bool
  g1 : BitVec 8
  g2 : BitVec 8
  g3 : BitVec 8
  limm : BitVec 32
  deriving DecidableEq, Repr, Inhabited

/-- What a host request through a window does (R43, R139): a read, a write, or a fetch-add AtomicOp. -/
inductive AccessKind where
  | read (n : Nat)
  | write (bytes : List Byte)
  | fetchAdd (n : Nat) (v : W64)
  deriving DecidableEq, Repr, Inhabited

/-- A host access to `W1` at an offset (R43). -/
structure HostAccess where
  off : Nat
  kind : AccessKind
  deriving DecidableEq, Repr, Inhabited

/-- An inbound peer request: a 52-bit address and what it does (R43, R423). -/
structure PeerAccess where
  addr : BitVec 52
  kind : AccessKind
  deriving DecidableEq, Repr, Inhabited

/-- The steps of the machine: one constructor per row of spec/opcode_table.json. A trigger carries its unit and its
move; a micro-operation its fields (R347); an event
reads the agent that takes it, and the choices the spec leaves open, from the `Stim` that accompanies it in `State.cur`. -/
inductive Instr where
  /-- ADD (R247). -/
  | add (u : Fin 2) (m : Mv)
  /-- SUB (R247). -/
  | sub (u : Fin 2) (m : Mv)
  /-- ADDW (R247). -/
  | addw (u : Fin 2) (m : Mv)
  /-- SUBW (R247). -/
  | subw (u : Fin 2) (m : Mv)
  /-- MUL (R247). -/
  | mul (u : Fin 2) (m : Mv)
  /-- MULH (R247). -/
  | mulh (u : Fin 2) (m : Mv)
  /-- MULHZ (R247). -/
  | mulhz (u : Fin 2) (m : Mv)
  /-- DIV (R248). -/
  | div (u : Fin 2) (m : Mv)
  /-- DIVZ (R248). -/
  | divz (u : Fin 2) (m : Mv)
  /-- REM (R248). -/
  | rem (u : Fin 2) (m : Mv)
  /-- REMZ (R248). -/
  | remz (u : Fin 2) (m : Mv)
  /-- AND (R247). -/
  | and (u : Fin 2) (m : Mv)
  /-- OR (R247). -/
  | or (u : Fin 2) (m : Mv)
  /-- XOR (R247). -/
  | xor (u : Fin 2) (m : Mv)
  /-- ANDN (R247). -/
  | andn (u : Fin 2) (m : Mv)
  /-- ORN (R247). -/
  | orn (u : Fin 2) (m : Mv)
  /-- LUT3 (R249). -/
  | lut3 (u : Fin 2) (m : Mv)
  /-- SHL (R247). -/
  | shl (u : Fin 2) (m : Mv)
  /-- SHR (R247). -/
  | shr (u : Fin 2) (m : Mv)
  /-- SRA (R247). -/
  | sra (u : Fin 2) (m : Mv)
  /-- ROTL (R247). -/
  | rotl (u : Fin 2) (m : Mv)
  /-- CLZ (R247). -/
  | clz (u : Fin 2) (m : Mv)
  /-- CTZ (R247). -/
  | ctz (u : Fin 2) (m : Mv)
  /-- POPC (R247). -/
  | popc (u : Fin 2) (m : Mv)
  /-- BREV (R247). -/
  | brev (u : Fin 2) (m : Mv)
  /-- BSWAP (R247). -/
  | bswap (u : Fin 2) (m : Mv)
  /-- MIN (R247). -/
  | min (u : Fin 2) (m : Mv)
  /-- MAX (R247). -/
  | max (u : Fin 2) (m : Mv)
  /-- MINZ (R247). -/
  | minz (u : Fin 2) (m : Mv)
  /-- MAXZ (R247). -/
  | maxz (u : Fin 2) (m : Mv)
  /-- EQ (R247). -/
  | eq (u : Fin 2) (m : Mv)
  /-- NE (R247). -/
  | ne (u : Fin 2) (m : Mv)
  /-- LT (R247). -/
  | lt (u : Fin 2) (m : Mv)
  /-- LE (R247). -/
  | le (u : Fin 2) (m : Mv)
  /-- LTZ (R247). -/
  | ltz (u : Fin 2) (m : Mv)
  /-- LEZ (R247). -/
  | lez (u : Fin 2) (m : Mv)
  /-- BFX (R250). -/
  | bfx (u : Fin 2) (m : Mv)
  /-- BFI (R250). -/
  | bfi (u : Fin 2) (m : Mv)
  /-- SEXT (R247). -/
  | sext (u : Fin 2) (m : Mv)
  /-- ZEXT (R247). -/
  | zext (u : Fin 2) (m : Mv)
  /-- CMUL16 (R251). -/
  | cmul16 (u : Fin 2) (m : Mv)
  /-- PAND (R252). -/
  | pand (m : Mv)
  /-- POR (R252). -/
  | por (m : Mv)
  /-- PXOR (R252). -/
  | pxor (m : Mv)
  /-- PNOT (R252). -/
  | pnot (m : Mv)
  /-- PANY (R252). -/
  | pany (m : Mv)
  /-- PALL (R252). -/
  | pall (m : Mv)
  /-- JUMP (R254). -/
  | jump (m : Mv)
  /-- JLINK (R254). -/
  | jlink (m : Mv)
  /-- LOOPSET (R255). -/
  | loopset (m : Mv)
  /-- LOOPEND (R255). -/
  | loopend (m : Mv)
  /-- END (R256). -/
  | endTask (m : Mv)
  /-- KWAIT (R257). -/
  | kwait (m : Mv)
  /-- KPOLL (R257). -/
  | kpoll (m : Mv)
  /-- KFREE (R257). -/
  | kfree (m : Mv)
  /-- RDCYC (R258). -/
  | rdcyc (m : Mv)
  /-- SWTRAP (R258). -/
  | swtrap (m : Mv)
  /-- CSRR (R259). -/
  | csrr (m : Mv)
  /-- CSRW (R259). -/
  | csrw (m : Mv)
  /-- LAUNCH (R262). -/
  | launch (m : Mv)
  /-- ERET (R263). -/
  | eret (m : Mv)
  /-- BKPT (R264). -/
  | bkpt (m : Mv)
  /-- IDLE (R265). -/
  | idle (m : Mv)
  /-- TLBINV (R266). -/
  | tlbinv (m : Mv)
  /-- L1INV (R267). -/
  | l1inv (m : Mv)
  /-- MPLOAD (R268). -/
  | mpload (m : Mv)
  /-- VADD (R274). -/
  | vadd (u : Fin 3) (m : Mv)
  /-- VSUB (R274). -/
  | vsub (u : Fin 3) (m : Mv)
  /-- VMUL (R274). -/
  | vmul (u : Fin 3) (m : Mv)
  /-- VMULH (R274). -/
  | vmulh (u : Fin 3) (m : Mv)
  /-- VFMA (R274). -/
  | vfma (u : Fin 3) (m : Mv)
  /-- VABS (R274). -/
  | vabs (u : Fin 3) (m : Mv)
  /-- VNEG (R274). -/
  | vneg (u : Fin 3) (m : Mv)
  /-- VMIN (R274). -/
  | vmin (u : Fin 3) (m : Mv)
  /-- VMAX (R274). -/
  | vmax (u : Fin 3) (m : Mv)
  /-- VCLAMP (R274). -/
  | vclamp (u : Fin 3) (m : Mv)
  /-- VAND (R274). -/
  | vand (u : Fin 3) (m : Mv)
  /-- VOR (R274). -/
  | vor (u : Fin 3) (m : Mv)
  /-- VXOR (R274). -/
  | vxor (u : Fin 3) (m : Mv)
  /-- VLUT3 (R274). -/
  | vlut3 (u : Fin 3) (m : Mv)
  /-- VSHL (R274). -/
  | vshl (u : Fin 3) (m : Mv)
  /-- VSHR (R274). -/
  | vshr (u : Fin 3) (m : Mv)
  /-- VSRA (R274). -/
  | vsra (u : Fin 3) (m : Mv)
  /-- VCLZ (R274). -/
  | vclz (u : Fin 3) (m : Mv)
  /-- VPOPC (R274). -/
  | vpopc (u : Fin 3) (m : Mv)
  /-- VCMPEQ (R274). -/
  | vcmpeq (u : Fin 3) (m : Mv)
  /-- VCMPNE (R274). -/
  | vcmpne (u : Fin 3) (m : Mv)
  /-- VCMPLT (R274). -/
  | vcmplt (u : Fin 3) (m : Mv)
  /-- VCMPLE (R274). -/
  | vcmple (u : Fin 3) (m : Mv)
  /-- VSEL (R274). -/
  | vsel (u : Fin 3) (m : Mv)
  /-- VCVT (R276). -/
  | vcvt (u : Fin 3) (m : Mv)
  /-- VSATQ (R277). -/
  | vsatq (u : Fin 3) (m : Mv)
  /-- VSCALE (R278). -/
  | vscale (u : Fin 3) (m : Mv)
  /-- VDOT2 (R279). -/
  | vdot2 (u : Fin 3) (m : Mv)
  /-- VDOT4 (R279). -/
  | vdot4 (u : Fin 3) (m : Mv)
  /-- VSUM (R280). -/
  | vsum (u : Fin 3) (m : Mv)
  /-- VRMAX (R280). -/
  | vrmax (u : Fin 3) (m : Mv)
  /-- VRMIN (R280). -/
  | vrmin (u : Fin 3) (m : Mv)
  /-- VSCAN (R280). -/
  | vscan (u : Fin 3) (m : Mv)
  /-- VMIN2 (R281). -/
  | vmin2 (u : Fin 3) (m : Mv)
  /-- VCMUL (R282). -/
  | vcmul (u : Fin 3) (m : Mv)
  /-- VCMAC (R282). -/
  | vcmac (u : Fin 3) (m : Mv)
  /-- VCONJ (R282). -/
  | vconj (u : Fin 3) (m : Mv)
  /-- VCABS2 (R282). -/
  | vcabs2 (u : Fin 3) (m : Mv)
  /-- VPERM (R283). -/
  | vperm (u : Fin 3) (m : Mv)
  /-- VBPERM (R285). -/
  | vbperm (u : Fin 3) (m : Mv)
  /-- VBMAT8 (R286). -/
  | vbmat8 (u : Fin 3) (m : Mv)
  /-- VSHUF (R284). -/
  | vshuf (u : Fin 3) (m : Mv)
  /-- VROT (R284). -/
  | vrot (u : Fin 3) (m : Mv)
  /-- VSORT2 (R287). -/
  | vsort2 (u : Fin 3) (m : Mv)
  /-- VBCAST (R284). -/
  | vbcast (u : Fin 3) (m : Mv)
  /-- VEXT (R288). -/
  | vext (u : Fin 3) (m : Mv)
  /-- VINS (R288). -/
  | vins (u : Fin 3) (m : Mv)
  /-- VPTEST (R289). -/
  | vptest (u : Fin 3) (m : Mv)
  /-- VPSET (R289). -/
  | vpset (u : Fin 3) (m : Mv)
  /-- VPCLR (R289). -/
  | vpclr (u : Fin 3) (m : Mv)
  /-- RCP (R292). -/
  | rcp (m : Mv)
  /-- RSQ (R292). -/
  | rsq (m : Mv)
  /-- RCPSTEP (R293). -/
  | rcpstep (m : Mv)
  /-- RSQSTEP (R293). -/
  | rsqstep (m : Mv)
  /-- SQRT (R294). -/
  | sqrt (m : Mv)
  /-- EXP2 (R294). -/
  | exp2 (m : Mv)
  /-- LOG2 (R294). -/
  | log2 (m : Mv)
  /-- SINP (R294). -/
  | sinp (m : Mv)
  /-- COSP (R294). -/
  | cosp (m : Mv)
  /-- TANH (R294). -/
  | tanh (m : Mv)
  /-- SIGM (R294). -/
  | sigm (m : Mv)
  /-- TTW (R295). -/
  | ttw (m : Mv)
  /-- TTR (R295). -/
  | ttr (m : Mv)
  /-- TTCLR (R295). -/
  | ttclr (m : Mv)
  /-- TTCVT (R296). -/
  | ttcvt (m : Mv)
  /-- LDS8 (R299). -/
  | lds8 (u : Fin 2) (m : Mv)
  /-- LDZ8 (R299). -/
  | ldz8 (u : Fin 2) (m : Mv)
  /-- LDS16 (R299). -/
  | lds16 (u : Fin 2) (m : Mv)
  /-- LDZ16 (R299). -/
  | ldz16 (u : Fin 2) (m : Mv)
  /-- LDS32 (R299). -/
  | lds32 (u : Fin 2) (m : Mv)
  /-- LDZ32 (R299). -/
  | ldz32 (u : Fin 2) (m : Mv)
  /-- LD64 (R299). -/
  | ld64 (u : Fin 2) (m : Mv)
  /-- ST8 (R299). -/
  | st8 (u : Fin 2) (m : Mv)
  /-- ST16 (R299). -/
  | st16 (u : Fin 2) (m : Mv)
  /-- ST32 (R299). -/
  | st32 (u : Fin 2) (m : Mv)
  /-- ST64 (R299). -/
  | st64 (u : Fin 2) (m : Mv)
  /-- VLD (R299). -/
  | vld (u : Fin 2) (m : Mv)
  /-- VST (R299). -/
  | vst (u : Fin 2) (m : Mv)
  /-- VLDG (R301). -/
  | vldg (u : Fin 2) (m : Mv)
  /-- VSTS (R301). -/
  | vsts (u : Fin 2) (m : Mv)
  /-- GLD (R302). -/
  | gld (u : Fin 2) (m : Mv)
  /-- GST (R302). -/
  | gst (u : Fin 2) (m : Mv)
  /-- GVLD (R299). -/
  | gvld (u : Fin 2) (m : Mv)
  /-- GVST (R299). -/
  | gvst (u : Fin 2) (m : Mv)
  /-- XLD (R299). -/
  | xld (u : Fin 2) (m : Mv)
  /-- XST (R299). -/
  | xst (u : Fin 2) (m : Mv)
  /-- XVLD (R299). -/
  | xvld (u : Fin 2) (m : Mv)
  /-- PREF (R303). -/
  | pref (u : Fin 2) (m : Mv)
  /-- AMOADD (R304). -/
  | amoadd (u : Fin 2) (m : Mv)
  /-- AMOMIN (R304). -/
  | amomin (u : Fin 2) (m : Mv)
  /-- AMOMAX (R304). -/
  | amomax (u : Fin 2) (m : Mv)
  /-- AMOAND (R304). -/
  | amoand (u : Fin 2) (m : Mv)
  /-- AMOOR (R304). -/
  | amoor (u : Fin 2) (m : Mv)
  /-- AMOXOR (R304). -/
  | amoxor (u : Fin 2) (m : Mv)
  /-- AMOSWP (R304). -/
  | amoswp (u : Fin 2) (m : Mv)
  /-- AMOCAS (R304). -/
  | amocas (u : Fin 2) (m : Mv)
  /-- AMOFADD (R305). -/
  | amofadd (u : Fin 2) (m : Mv)
  /-- GAMOADD (R304). -/
  | gamoadd (u : Fin 2) (m : Mv)
  /-- GAMOMIN (R304). -/
  | gamomin (u : Fin 2) (m : Mv)
  /-- GAMOMAX (R304). -/
  | gamomax (u : Fin 2) (m : Mv)
  /-- GAMOSWP (R304). -/
  | gamoswp (u : Fin 2) (m : Mv)
  /-- GAMOCAS (R304). -/
  | gamocas (u : Fin 2) (m : Mv)
  /-- GAMOFADD (R305). -/
  | gamofadd (u : Fin 2) (m : Mv)
  /-- AMOADDN (R304). -/
  | amoaddn (u : Fin 2) (m : Mv)
  /-- AMOMINN (R304). -/
  | amominn (u : Fin 2) (m : Mv)
  /-- AMOMAXN (R304). -/
  | amomaxn (u : Fin 2) (m : Mv)
  /-- AMOANDN (R304). -/
  | amoandn (u : Fin 2) (m : Mv)
  /-- AMOORN (R304). -/
  | amoorn (u : Fin 2) (m : Mv)
  /-- AMOXORN (R304). -/
  | amoxorn (u : Fin 2) (m : Mv)
  /-- AMOSWPN (R304). -/
  | amoswpn (u : Fin 2) (m : Mv)
  /-- AMOCASN (R304). -/
  | amocasn (u : Fin 2) (m : Mv)
  /-- AMOFADDN (R305). -/
  | amofaddn (u : Fin 2) (m : Mv)
  /-- GAMOADDN (R304). -/
  | gamoaddn (u : Fin 2) (m : Mv)
  /-- GAMOMINN (R304). -/
  | gamominn (u : Fin 2) (m : Mv)
  /-- GAMOMAXN (R304). -/
  | gamomaxn (u : Fin 2) (m : Mv)
  /-- GAMOSWPN (R304). -/
  | gamoswpn (u : Fin 2) (m : Mv)
  /-- GAMOCASN (R304). -/
  | gamocasn (u : Fin 2) (m : Mv)
  /-- GAMOFADDN (R305). -/
  | gamofaddn (u : Fin 2) (m : Mv)
  /-- DRAIN (R307). -/
  | drain (m : Mv)
  /-- REL (R307). -/
  | rel (m : Mv)
  /-- ACQ (R119). -/
  | acq (m : Mv)
  /-- FADD (R309). -/
  | fadd (m : Mv)
  /-- FSET (R309). -/
  | fset (m : Mv)
  /-- FWAIT (R309). -/
  | fwait (m : Mv)
  /-- JOIN (R310). -/
  | join (m : Mv)
  /-- LEAVE (R310). -/
  | leave (m : Mv)
  /-- GMASK (R310). -/
  | gmask (m : Mv)
  /-- HMAKE (R311). -/
  | hmake (m : Mv)
  /-- HGIVE (R311). -/
  | hgive (m : Mv)
  /-- HLEND (R311). -/
  | hlend (m : Mv)
  /-- HPOOL (R311). -/
  | hpool (m : Mv)
  /-- HRECLAIM (R311). -/
  | hreclaim (m : Mv)
  /-- HFREE (R311). -/
  | hfree (m : Mv)
  /-- CE_CPY (R312). -/
  | ceCpy (m : Mv)
  /-- CE_CINIT (R313). -/
  | ceCinit (m : Mv)
  /-- CF_AWAIT (R314). -/
  | cfAwait (m : Mv)
  /-- CF_RELEASE (R314). -/
  | cfRelease (m : Mv)
  /-- CF_STAT (R314). -/
  | cfStat (m : Mv)
  /-- AQ_PUSH (R334). -/
  | aqPush (m : Mv)
  /-- YQ_POP (R230). -/
  | yqPop (gs : BitVec 2) (dst : Dst)
  /-- NM_IRED (R165). -/
  | nmIred (u : Fin 4) (m : Mv)
  /-- NM_FADD (R168). -/
  | nmFadd (u : Fin 4) (m : Mv)
  /-- NM_IADD (R168). -/
  | nmIadd (u : Fin 4) (m : Mv)
  /-- NM_POP (R159). -/
  | nmPop (u : Fin 4) (gs : BitVec 2) (dst : Dst)
  /-- NFENCE (R127). -/
  | nfence (m : Mv)
  /-- ALLRED (R317). -/
  | allred (m : Mv)
  /-- BCAST (R317). -/
  | bcast (m : Mv)
  /-- RGATHER (R317). -/
  | rgather (m : Mv)
  /-- CIM_CALL (R340). -/
  | cimCall (m : Mv)
  /-- CIM_STEP (R341). -/
  | cimStep (m : Mv)
  /-- CIM_STAT (R342). -/
  | cimStat (m : Mv)
  /-- CIM_MPSW (R343). -/
  | cimMpsw (m : Mv)
  /-- MJMP (R348). -/
  | mjmp (cnd : BitVec 2) (r : BitVec 3) (tgt : BitVec 12)
  /-- MLPI (R348). -/
  | mlpi (l : BitVec 2) (src : BitVec 1) (r : BitVec 3) (cnt : BitVec 24)
  /-- MLPE (R348). -/
  | mlpe (l : BitVec 2)
  /-- MSET (R348). -/
  | mset (d : BitVec 3) (src : BitVec 1) (p : BitVec 3) (hi : BitVec 1) (imm : BitVec 32)
  /-- MADD (R348). -/
  | madd (d : BitVec 3) (sreg : BitVec 3) (imm : BitVec 32)
  /-- MMOD (R349). -/
  | mmod (mf : BitVec 7) (mnm1 : BitVec 7) (mode : BitVec 1)
  /-- MPRC (R349). -/
  | mprc (cfg : BitVec 34)
  /-- MSCL (R349). -/
  | mscl (sel : BitVec 2) (r : BitVec 3) (imm : BitVec 32)
  /-- MSEL (R349). -/
  | msel (mf : BitVec 7) (mnm1 : BitVec 7) (pat : BitVec 3)
  /-- MLD (R333). -/
  | mld (mf : BitVec 7) (mnm1 : BitVec 7) (r : BitVec 3)
  /-- MSWP (R333). -/
  | mswp (mf : BitVec 7) (mnm1 : BitVec 7)
  /-- MBC (R324). -/
  | mbc (mf : BitVec 7) (mnm1 : BitVec 7) (g : BitVec 3) (lane0 : BitVec 10) (src : BitVec 2) (r : BitVec 3)
  /-- MPRM (R330). -/
  | mprm (mf : BitVec 7) (mnm1 : BitVec 7) (stk : BitVec 1) (r : BitVec 3) (lo : BitVec 7) (of_ : BitVec 8) (onm1 : BitVec 8)
  /-- MCLR (R349). -/
  | mclr (mf : BitVec 7) (mnm1 : BitVec 7) (rows : BitVec 1) (r : BitVec 3) (nrm1 : BitVec 7)
  /-- MCHK (R332). -/
  | mchk (mf : BitVec 7) (mnm1 : BitVec 7)
  /-- MOUT (R349). -/
  | mout (r : BitVec 3) (nrm1 : BitVec 7)
  /-- MPOI (R349). -/
  | mpoi (r : BitVec 3) (nrm1 : BitVec 7) (clr : BitVec 1) (bits : BitVec 6)
  /-- MWTQ (R349). -/
  | mwtq (q : BitVec 1) (n : BitVec 5)
  /-- MTOK (R349). -/
  | mtok (tok : BitVec 5)
  /-- MTKW (R349). -/
  | mtkw (tok : BitVec 5)
  /-- DISPATCH (R380). -/
  | dispatch (picks : List CoreId)
  /-- SCHEDULER_MEMORY_WRITE (R370). -/
  | schedulerMemoryWrite (off : Nat) (bytes : List (BitVec 8))
  /-- REGISTER_WRITE (R5). -/
  | registerWrite (off : Nat) (v : BitVec 64)
  /-- HOST_W1_ACCESS (R43). -/
  | hostW1Access (a : HostAccess)
  /-- HOST_W2_READ (R43). -/
  | hostW2Read (off n : Nat) (write : Bool)
  /-- INBOUND_PEER_REQUEST (R43). -/
  | inboundPeerRequest (port : Fin 12) (a : PeerAccess)
  /-- BUNDLE_ISSUE (R202). -/
  | bundleIssue
  /-- RESULT_LANDING (R213). -/
  | resultLanding
  /-- VARIABLE_RESULT_LANDING (R215). -/
  | variableResultLanding
  /-- TRANSLATION_WALK (R38). -/
  | translationWalk
  /-- CHECKPOINT_RELEASE (R112). -/
  | checkpointRelease
  /-- SIGNAL_PERFORM (R113). -/
  | signalPerform
  /-- DRAIN_COMPLETE (R115). -/
  | drainComplete
  /-- REL_COMPLETE (R118). -/
  | relComplete
  /-- L1_WRITEBACK (R117). -/
  | l1Writeback
  /-- CANOPY_FILL (R83). -/
  | canopyFill
  /-- REMOTE_ACCESS_ARRIVAL (R74). -/
  | remoteAccessArrival
  /-- DEFERRED_REFUSAL_ARRIVAL (R77). -/
  | deferredRefusalArrival
  /-- HANDLE_OPERATION_CHECK (R76). -/
  | handleOperationCheck
  /-- HANDLE_OPERATION_PERFORM (R76). -/
  | handleOperationPerform
  /-- TRAP_ENTRY (R398). -/
  | trapEntry
  /-- MPLOAD_COMPLETE (R268). -/
  | mploadComplete
  /-- ATOMIC_PERFORM (R120). -/
  | atomicPerform
  /-- COPY_PACKET_ACCEPT (R140). -/
  | copyPacketAccept
  /-- CARAFE_SLOT_ASSIGN (R155). -/
  | carafeSlotAssign
  /-- COPY_COMPLETE (R146). -/
  | copyComplete
  /-- IRED_RESULT (R164). -/
  | iredResult
  /-- NEAR_ADD_APPLY (R168). -/
  | nearAddApply
  /-- NFENCE_COMPLETE (R171). -/
  | nfenceComplete
  /-- COLLECTIVE_START (R318). -/
  | collectiveStart
  /-- COLLECTIVE_COMPLETE (R318). -/
  | collectiveComplete
  /-- CIM_ROUTINE_START (R338). -/
  | cimRoutineStart
  /-- MNOP (R347). -/
  | mnop
  /-- MEND (R344). -/
  | mend
  /-- GRINDER_FILL (R355). -/
  | grinderFill
  /-- ENGINE_TOKEN_DONE (R123). -/
  | engineTokenDone
  /-- TASK_END (R129). -/
  | taskEnd
  /-- LAUNCH_ACCEPT (R378). -/
  | launchAccept
  /-- AGE_PROMOTION (R381). -/
  | agePromotion
  /-- DISCARD (R391). -/
  | discard
  /-- STANDBY_PREPARE (R384). -/
  | standbyPrepare
  /-- INSTANCE_COMPLETE (R379). -/
  | instanceComplete
  /-- BUDGET_EXPIRY (R388). -/
  | budgetExpiry
  /-- BUDGET_GRACE_EXPIRY (R388). -/
  | budgetGraceExpiry
  /-- ENVELOPE_CHANGE (R24). -/
  | envelopeChange
  /-- LOCKSTEP_PAIRING (R27). -/
  | lockstepPairing
  /-- POWER_CLOCK_STEP (R422). -/
  | powerClockStep
  /-- CAP_ENFORCE (R422). -/
  | capEnforce
  /-- ERROR_RECORD_PLACE (R408). -/
  | errorRecordPlace
  /-- PATROL_SCRUB (R96). -/
  | patrolScrub
  /-- REFRESH (R96). -/
  | refresh
  /-- BACKGROUND_ZEROING (R419). -/
  | backgroundZeroing
  /-- DEVICE_RESET (R419). -/
  | deviceReset
  /-- LAUNCH_WRITE (R375). -/
  | launchWrite
  /-- LSTAT_READ (R376). -/
  | lstatRead
  /-- MBSTAT_READ (R414). -/
  | mbstatRead
  /-- ENVELOPE_WRITE (R420). -/
  | envelopeWrite
  /-- PROTMODE_WRITE (R421). -/
  | protmodeWrite
  /-- PCAP_WRITE (R422). -/
  | pcapWrite
  /-- PINLIM_WRITE (R87). -/
  | pinlimWrite
  /-- AGE_WRITE (R381). -/
  | ageWrite
  /-- ERROR_BANK_CLEAR (R406). -/
  | errorBankClear
  /-- LINK_TRAINING (R424). -/
  | linkTraining
  /-- LINK_DOWN (R424). -/
  | linkDown
  /-- FLIT_RETRY (R423). -/
  | flitRetry
  /-- GLALLOC (R90). -/
  | glalloc
  /-- GLFREE (R91). -/
  | glfree
  /-- CWRET (R103). -/
  | cwret
  /-- DBGCTL (R409). -/
  | dbgctl
  /-- DBGGO (R409). -/
  | dbggo
  /-- DBGRD (R409). -/
  | dbgrd
  /-- DEBUG_HALT (R409). -/
  | debugHalt
  /-- STEP_STOP (R409). -/
  | stepStop
  /-- ATTEST (R426). -/
  | attest
  /-- MPWRITE (R415). -/
  | mpwrite
  /-- HOST_TLBINV (R415). -/
  | hostTlbinv
  /-- CORESWAP (R415). -/
  | coreswap
  /-- SPARE_SWAP (R18). -/
  | spareSwap
  /-- MACRET (R415). -/
  | macret
  /-- MACRO_RETIREMENT (R425). -/
  | macroRetirement
  /-- HBMSVC (R425). -/
  | hbmsvc
  /-- LANERT (R424). -/
  | lanert
  /-- FWSTAGE (R418). -/
  | fwstage
  /-- FWSWITCH (R425). -/
  | fwswitch
  /-- SCHEDULER_IMAGE_SWITCH (R425). -/
  | schedulerImageSwitch
  /-- KEYLOAD (R416). -/
  | keyload
  /-- KEYUNLD (R416). -/
  | keyunld
  /-- GLOBAL_STORE_ARRIVAL (R104). -/
  | globalStoreArrival
  /-- CORE_RESET_AND_TEST (R405). -/
  | coreResetAndTest
  /-- HBM_CHANNEL_RESUME (R425). -/
  | hbmChannelResume
  /-- HOST_LINK_DOWN (R39). -/
  | hostLinkDown
  /-- LANE_LOSS (R424). -/
  | laneLoss
  deriving DecidableEq, Repr, Inhabited

/-- What accompanies an event: the core (or grove, port, engine) that takes it, and the values of the choices the spec leaves
open in it or of the word a host access carries. Each event's meaning says which fields it reads. -/
structure Stim where
  core : CoreId := 0
  slot : Nat := 0
  k : Nat := 0
  k2 : Nat := 0
  flag : Bool := false
  v : W64 := 0
  deriving DecidableEq, Repr, Inhabited

/-- Who moves next when no bundle is in progress: an event, or the micro-sequencer of a core (R344). -/
inductive Turn where
  | event (a : Stim) (i : Instr)
  | micro (c : CoreId)
  deriving DecidableEq, Repr, Inhabited

end Sys2Proof
end

