-- ==== Sys2Proof/Config.lean ====
section
/-! DEFINITION. Config: what the manual leaves free (spec R12) and what one part fixes. Every `opaque` constant is a free value:
nothing constrains it, so a claim holds whatever it is. A free value is applied to the counter `State.freeCtr`, which the
step that uses it advances, or to the operands it depends on (notes/assumptions/8.md). -/

namespace Sys2Proof.Config

/-- DESIGN CHOICE (log 1): which step the device takes next where `State.agenda` names none. -/
opaque choice : Nat → Turn

/-- Which member of a stated set of outcomes occurs (R12): the member with this index, modulo the set's size. -/
opaque pick : Nat → Nat

/-- A word the manual leaves open: syndromes (R407), signatures (R404), power readings (R422). -/
opaque word : Nat → W64

/-- The syndrome of an error code over the unit's data (R407): the codes themselves are not given in full. -/
opaque syndrome : (unit addr : Nat) → W64

/-- The 16-bit integrity code of a class 5 block (R100), a keyed code over the plaintext and the address. -/
opaque integrity : (key block : Nat) → List Byte → BitVec 16

/-- Whether a peer refuses an address presented to it (R34, homes 1 to 12), and which of the eight translation causes its fault response
carries (R43, R49). -/
opaque peerFault : (home pa : Nat) → Option (Fin 8)

/-- Whether the host's fabric reports a completion error for an address (R34, home 13). -/
opaque hostFault : (pa : Nat) → Bool

/-- The plaintext of a `KEYLOAD` block (R416), `none` when it does not decrypt. -/
opaque decryptKeyBlock : List Byte → Option (List Byte)

/-- Whether a staged image carries the signatures R418 asks for; the flag is PQREQ. -/
opaque signatureOk : Bool → List Byte → Bool

/-- The length of the image at a staging address: images carry it themselves in a form the manual does not give (R418). -/
opaque imageLength : (target va : Nat) → Nat

/-- The code range of the trap page that a housekeeping image carries besides the base handler (R397). -/
opaque handlerExtra : (image offset : Nat) → Byte

/-- The pairs listed in a section of a configuration record (R418), whose layout the manual does not give: 0 the retired macros of the
cores, 1 the retired ways by set, 2 the retired macros of the spares. -/
opaque recordPairs : (sect : Nat) → List Byte → List (Nat × Nat)

/-- The SHA-256 digests in a quote (R426) of what the manual gives no bytes of: 0 the identity key (R417), 1 to 3 the images and the record as
delivered. -/
opaque digest : (item : Nat) → List Byte

/-- A signature byte of the quote (R426). -/
opaque quoteSignature : (scheme index : Nat) → List Byte → Byte

/-- The sizes of the envelope's package power in watts (R21, R422). -/
def envelopeWatts (e : Nat) : Nat := if e = 0 then 1000 else if e = 1 then 650 else 320

/-- The envelope's clock in units of 10 MHz (R21, R422). -/
def envelopeClock (e : Nat) : Nat := if e = 0 then 125 else if e = 1 then 110 else 90

/-- The latency profile of an envelope (R21, R25): `true` for B. -/
def envelopeProfile (e : Nat) : Bool := e = 2

/-- R22: the cores that are parked in the Fin envelope: ROW = 1 and COL = 2 or 3. -/
def parkedIn (e : Nat) (c : Nat) : Bool := e = 2 ∧ c % 8 ≥ 6

/-- The trap page (R46). -/
def trapPage : Nat := 0xFF_FFFF_FFFF_0000

/-- R87: the reset value of `PINLIM.LIMIT`. -/
def pinLimit : Nat := 12

end Sys2Proof.Config
end

