-- ==== Sys2Proof/WellFormed.lean ====
section
/-! DEFINITION. WellFormed: the field values an encoding admits that the manual does not reserve (spec R346 to R349, R230). -/

namespace Sys2Proof

/-- The macro range MF to MF + MNM1 lies within the 128 logical macros (R346). -/
def rangeOk (mf mnm1 : BitVec 7) : Bool := mf.toNat + mnm1.toNat ≤ 127

/-- The blocks of trigger ports: first destination code and number (R236 to R243). -/
def triggerBlocks : List (Nat × Nat) :=
  [(0x208, 41), (0x248, 41), (0x288, 10), (0x2C8, 6), (0x308, 50), (0x348, 50), (0x388, 50), (0x3C8, 11), (0x408, 4), (0x448, 53), (0x488, 53),
   (0x4C8, 15), (0x508, 2), (0x510, 3), (0x550, 4), (0x580, 1), (0x598, 3), (0x5C8, 4), (0x5D0, 1), (0x608, 9)]

/-- R211: a destination that is no reserved code: a trigger is an assigned one. -/
def Dst.wellFormed : Dst → Bool
  | .trigger c => triggerBlocks.any fun b => b.1 ≤ c.toNat && c.toNat < b.1 + b.2
  | _ => true

/-- R347: the fields of a micro-operation hold no reserved code; other instructions have none of their own. -/
def Instr.wellFormed : Instr → Bool
  | .mjmp cnd _ _ => cnd ≠ 3
  | .mscl sel _ imm => sel ≠ 3 && (sel ≠ 2 || imm.extractLsb' 1 31 = 0)
  | .msel mf mnm1 pat => rangeOk mf mnm1 && pat.toNat < 6
  | .mmod mf mnm1 _ => rangeOk mf mnm1
  | .mld mf mnm1 _ => rangeOk mf mnm1
  | .mswp mf mnm1 => rangeOk mf mnm1
  | .mbc mf mnm1 _ _ src _ => rangeOk mf mnm1 && src ≠ 3
  | .mprm mf mnm1 _ _ _ _ _ => rangeOk mf mnm1
  | .mclr mf mnm1 _ _ _ => rangeOk mf mnm1
  | .mchk mf mnm1 => rangeOk mf mnm1
  | .mwtq _ n => n.toNat ≤ 16
  | .yqPop _ d => d.wellFormed
  | .nmPop _ _ d => d.wellFormed
  | _ => true

end Sys2Proof
end

