-- ==== Sys2Proof/Decode.lean ====
section
/-! DEFINITION. Decode and encode: slots (spec R209 to R211, R236 to R243), headers (R207, R208) and micro-words (R346, R347).
`decodeSlot` gives the `Instr` of a slot that triggers an operation or pops a queue; a plain move has no row of the opcode
table and is made by the bundle itself. The encoder follows the decoder, written from the same tables. -/

namespace Sys2Proof


/-- R236: the triggers of `sa0` and `sa1`, from offset `0x08`. -/
def saOps : List (Fin 2 → Mv → Instr) :=
  [Instr.add, Instr.sub, Instr.addw, Instr.subw, Instr.mul, Instr.mulh, Instr.mulhz, Instr.div, Instr.divz, Instr.rem, Instr.remz, Instr.and,
   Instr.or, Instr.xor, Instr.andn, Instr.orn, Instr.lut3, Instr.shl, Instr.shr, Instr.sra, Instr.rotl, Instr.clz, Instr.ctz, Instr.popc,
   Instr.brev, Instr.bswap, Instr.min, Instr.max, Instr.minz, Instr.maxz, Instr.eq, Instr.ne, Instr.lt, Instr.le, Instr.ltz, Instr.lez,
   Instr.bfx, Instr.bfi, Instr.sext, Instr.zext, Instr.cmul16]

/-- R237: the triggers of `ctl`, from offset `0x08`. -/
def ctlOps : List (Mv → Instr) :=
  [Instr.jump, Instr.jlink, Instr.loopset, Instr.loopend, Instr.endTask, Instr.kwait, Instr.kpoll, Instr.kfree, Instr.rdcyc, Instr.swtrap]

/-- R237: the triggers of `pr`, from offset `0x08`. -/
def prOps : List (Mv → Instr) :=
  [Instr.pand, Instr.por, Instr.pxor, Instr.pnot, Instr.pany, Instr.pall]

/-- R237: the triggers of `sys`, from offset `0x08`. -/
def sysOps : List (Mv → Instr) :=
  [Instr.csrr, Instr.csrw, Instr.launch, Instr.eret, Instr.bkpt, Instr.idle, Instr.tlbinv, Instr.l1inv, Instr.mpload]

/-- R238: the triggers of `va0` to `va2`, from offset `0x08`. -/
def vaOps : List (Fin 3 → Mv → Instr) :=
  [Instr.vadd, Instr.vsub, Instr.vmul, Instr.vmulh, Instr.vfma, Instr.vabs, Instr.vneg, Instr.vmin, Instr.vmax, Instr.vclamp, Instr.vand, Instr.vor,
   Instr.vxor, Instr.vlut3, Instr.vshl, Instr.vshr, Instr.vsra, Instr.vclz, Instr.vpopc, Instr.vcmpeq, Instr.vcmpne, Instr.vcmplt, Instr.vcmple, Instr.vsel,
   Instr.vcvt, Instr.vsatq, Instr.vscale, Instr.vdot2, Instr.vdot4, Instr.vsum, Instr.vrmax, Instr.vrmin, Instr.vscan, Instr.vmin2, Instr.vcmul, Instr.vcmac,
   Instr.vconj, Instr.vcabs2, Instr.vperm, Instr.vbperm, Instr.vbmat8, Instr.vshuf, Instr.vrot, Instr.vsort2, Instr.vbcast, Instr.vext, Instr.vins, Instr.vptest,
   Instr.vpset, Instr.vpclr]

/-- R239: the triggers of `sf`, from offset `0x08`. -/
def sfOps : List (Mv → Instr) :=
  [Instr.rcp, Instr.rsq, Instr.rcpstep, Instr.rsqstep, Instr.sqrt, Instr.exp2, Instr.log2, Instr.sinp, Instr.cosp, Instr.tanh, Instr.sigm]

/-- R239: the triggers of `tt`, from offset `0x08`. -/
def ttOps : List (Mv → Instr) :=
  [Instr.ttw, Instr.ttr, Instr.ttclr, Instr.ttcvt]

/-- R240: the triggers of `ls0` and `ls1`, from offset `0x08`. -/
def lsOps : List (Fin 2 → Mv → Instr) :=
  [Instr.lds8, Instr.ldz8, Instr.lds16, Instr.ldz16, Instr.lds32, Instr.ldz32, Instr.ld64, Instr.st8, Instr.st16, Instr.st32, Instr.st64, Instr.vld,
   Instr.vst, Instr.vldg, Instr.vsts, Instr.gld, Instr.gst, Instr.gvld, Instr.gvst, Instr.xld, Instr.xst, Instr.xvld, Instr.pref, Instr.amoadd,
   Instr.amomin, Instr.amomax, Instr.amoand, Instr.amoor, Instr.amoxor, Instr.amoswp, Instr.amocas, Instr.amofadd, Instr.gamoadd, Instr.gamomin, Instr.gamomax, Instr.gamoswp,
   Instr.gamocas, Instr.gamofadd, Instr.amoaddn, Instr.amominn, Instr.amomaxn, Instr.amoandn, Instr.amoorn, Instr.amoxorn, Instr.amoswpn, Instr.amocasn, Instr.amofaddn, Instr.gamoaddn,
   Instr.gamominn, Instr.gamomaxn, Instr.gamoswpn, Instr.gamocasn, Instr.gamofaddn]

/-- R241: the triggers of `sy`, from offset `0x08`. -/
def syOps : List (Mv → Instr) :=
  [Instr.drain, Instr.rel, Instr.acq, Instr.fadd, Instr.fset, Instr.fwait, Instr.join, Instr.leave, Instr.gmask, Instr.hmake, Instr.hgive, Instr.hlend,
   Instr.hpool, Instr.hreclaim, Instr.hfree]

/-- The command of a near-memory stream by OP, bits [63:56] of its command row (R161); a reserved OP is refused by the
check of R163, which the meaning of `NM_IRED` makes. -/
def nmOp (op : Nat) (u : Fin 4) (m : Mv) : Instr :=
  if op = 2 then .nmFadd u m else if op = 3 then .nmIadd u m else .nmIred u m

/-- The trigger port with destination code `d` (R236 to R243). `op` is the OP of the command row, used by `nmS.cmd`. -/
def trigOf (op : Nat) (d : Nat) (m : Mv) : Option Instr :=
  if d < 0x200 then none
  else if d < 0x280 then (saOps[d % 64 - 8]?).bind fun f => if d % 64 < 8 then none else some (f (if d < 0x240 then 0 else 1) m)
  else if d < 0x2C0 then (ctlOps[d % 64 - 8]?).bind fun f => if d % 64 < 8 then none else some (f m)
  else if d < 0x300 then (prOps[d % 64 - 8]?).bind fun f => if d % 64 < 8 then none else some (f m)
  else if d < 0x3C0 then (vaOps[d % 64 - 8]?).bind fun f => if d % 64 < 8 then none else
    some (f (if d < 0x340 then 0 else if d < 0x380 then 1 else 2) m)
  else if d < 0x400 then (sfOps[d % 64 - 8]?).bind fun f => if d % 64 < 8 then none else some (f m)
  else if d < 0x440 then (ttOps[d % 64 - 8]?).bind fun f => if d % 64 < 8 then none else some (f m)
  else if d < 0x4C0 then (lsOps[d % 64 - 8]?).bind fun f => if d % 64 < 8 then none else some (f (if d < 0x480 then 0 else 1) m)
  else if d < 0x500 then (syOps[d % 64 - 8]?).bind fun f => if d % 64 < 8 then none else some (f m)
  else if d = 0x508 then some (.ceCpy m) else if d = 0x509 then some (.ceCinit m)
  else if d = 0x510 then some (.cfAwait m) else if d = 0x511 then some (.cfRelease m) else if d = 0x512 then some (.cfStat m)
  else if d = 0x550 then some (.cimCall m) else if d = 0x551 then some (.cimStep m)
  else if d = 0x552 then some (.cimStat m) else if d = 0x553 then some (.cimMpsw m)
  else if d = 0x580 then some (.aqPush m)
  else if d = 0x598 then some (.allred m) else if d = 0x599 then some (.bcast m) else if d = 0x59A then some (.rgather m)
  else if d = 0x5C8 then some (nmOp op 0 m) else if d = 0x5C9 then some (nmOp op 1 m)
  else if d = 0x5CA then some (nmOp op 2 m) else if d = 0x5CB then some (nmOp op 3 m)
  else if d = 0x5D0 then some (.nfence m)
  else if d < 0x600 then none
  else if d < 0x640 then (sysOps[d % 64 - 8]?).bind fun f => if d % 64 < 8 then none else some (f m)
  else none

/-- Every latch with its destination code (R236 to R243). -/
def latchTable : List (Nat × Latch) :=
  [(0x200, .saA 0), (0x201, .saC 0), (0x202, .saM 0), (0x240, .saA 1), (0x241, .saC 1), (0x242, .saM 1), (0x280, .ctlA), (0x281, .ctlC),
   (0x2C0, .prA), (0x600, .sysA), (0x601, .sysC), (0x604, .sysW), (0x605, .sysK), (0x300, .vaA 0), (0x301, .vaC 0), (0x302, .vaM 0),
   (0x303, .vaTy 0), (0x340, .vaA 1), (0x341, .vaC 1), (0x342, .vaM 1), (0x343, .vaTy 1), (0x380, .vaA 2), (0x381, .vaC 2), (0x382, .vaM 2),
   (0x383, .vaTy 2), (0x3C0, .sfA), (0x3C2, .sfM), (0x400, .ttA), (0x403, .ttTy), (0x440, .lsA 0), (0x441, .lsC 0), (0x480, .lsA 1),
   (0x481, .lsC 1), (0x4C0, .syA), (0x4C1, .syC), (0x500, .ceA), (0x504, .ceW), (0x505, .ceK), (0x540, .mp 0), (0x541, .mp 1),
   (0x542, .mp 2), (0x543, .mp 3), (0x544, .mp 4), (0x545, .mp 5), (0x546, .mp 6), (0x547, .mp 7), (0x548, .cimA), (0x54C, .cimW),
   (0x54D, .cimK), (0x590, .coA), (0x591, .coC), (0x594, .coW), (0x595, .coK), (0x5C0, .nmK)]

/-- The destination code of a latch (R236 to R243). -/
def Latch.code : Latch → Nat
  | .saA u => 0x200 + 64 * u.val
  | .saC u => 0x201 + 64 * u.val
  | .saM u => 0x202 + 64 * u.val
  | .ctlA => 0x280
  | .ctlC => 0x281
  | .prA => 0x2C0
  | .sysA => 0x600
  | .sysC => 0x601
  | .sysW => 0x604
  | .sysK => 0x605
  | .vaA u => 0x300 + 64 * u.val
  | .vaC u => 0x301 + 64 * u.val
  | .vaM u => 0x302 + 64 * u.val
  | .vaTy u => 0x303 + 64 * u.val
  | .sfA => 0x3C0
  | .sfM => 0x3C2
  | .ttA => 0x400
  | .ttTy => 0x403
  | .lsA u => 0x440 + 64 * u.val
  | .lsC u => 0x441 + 64 * u.val
  | .syA => 0x4C0
  | .syC => 0x4C1
  | .ceA => 0x500
  | .ceW => 0x504
  | .ceK => 0x505
  | .mp u => 0x540 + 1 * u.val
  | .cimA => 0x548
  | .cimW => 0x54C
  | .cimK => 0x54D
  | .coA => 0x590
  | .coC => 0x591
  | .coW => 0x594
  | .coK => 0x595
  | .nmK => 0x5C0

/-- The latch with a destination code. -/
def latchOf (d : Nat) : Option Latch := latchTable.lookup d

/-- The result, status and pop ports with their source codes (R229). -/
def portTable : List (Nat × Port) :=
  [(0x100, .sa 0), (0x101, .sa 1), (0x102, .ctl), (0x103, .pr), (0x104, .sys), (0x105, .sysLr),
   (0x110, .va 0), (0x111, .va 1), (0x112, .va 2), (0x113, .sf), (0x114, .tt),
   (0x120, .lsR 0), (0x121, .lsV 0), (0x122, .lsG 0), (0x123, .lsGv 0), (0x124, .lsR 1), (0x125, .lsV 1), (0x126, .lsG 1), (0x127, .lsGv 1),
   (0x130, .sy), (0x138, .cf), (0x140, .cim), (0x148, .yqPop), (0x149, .aqSt),
   (0x150, .nmPop 0), (0x151, .nmPop 1), (0x152, .nmPop 2), (0x153, .nmPop 3), (0x154, .nmSt 0), (0x155, .nmSt 1), (0x156, .nmSt 2), (0x157, .nmSt 3)]

/-- The source code of a port (R229). -/
def Port.code : Port → Nat
  | sa u => 0x100 + u.val
  | ctl => 0x102
  | pr => 0x103
  | sys => 0x104
  | sysLr => 0x105
  | va u => 0x110 + u.val
  | sf => 0x113
  | tt => 0x114
  | lsR u => 0x120 + 4 * u.val
  | lsV u => 0x121 + 4 * u.val
  | lsG u => 0x122 + 4 * u.val
  | lsGv u => 0x123 + 4 * u.val
  | sy => 0x130
  | cf => 0x138
  | cim => 0x140
  | yqPop => 0x148
  | aqSt => 0x149
  | nmPop u => 0x150 + u.val
  | nmSt u => 0x154 + u.val

/-- The source named by a code (R210); `none` for a reserved code. -/
def srcOf (n : Nat) : Option Src :=
  if n < 0x40 then some (.x (BitVec.ofNat 6 n))
  else if h : n < 0xA0 ∧ 0x40 ≤ n then some (.p ⟨n - 0x40, by omega⟩)
  else if n < 0xC0 then some (.tok (BitVec.ofNat 5 (n - 0xA0)))
  else if n < 0x100 then some (.v (BitVec.ofNat 6 (n - 0xC0)))
  else if n < 0x200 then (portTable.lookup n).map .port
  else if n < 0x6FC then none
  else if n = 0x6FC then some .limmS
  else if n = 0x6FD then some .limmZ
  else if n = 0x6FE then some .limmHi
  else if n = 0x6FF then some .limmPc
  else if n < 0x800 then some (.imm (BitVec.ofNat 8 (n - 0x700)))
  else none

/-- The code of a source (R210). -/
def Src.code : Src → Nat
  | x i => i.toNat
  | p i => 0x40 + i.val
  | tok k => 0xA0 + k.toNat
  | v i => 0xC0 + i.toNat
  | port q => q.code
  | limmS => 0x6FC
  | limmZ => 0x6FD
  | limmHi => 0x6FE
  | limmPc => 0x6FF
  | imm b => 0x700 + b.toNat

/-- The destination named by a code (R211); `none` for a reserved code. -/
def dstOf (n : Nat) : Option Dst :=
  if n < 0x40 then some (.x (BitVec.ofNat 6 n))
  else if h : n < 0xA0 ∧ 0x40 ≤ n then some (.p ⟨n - 0x40, by omega⟩)
  else if n < 0xC0 then none
  else if n < 0x100 then some (.v (BitVec.ofNat 6 (n - 0xC0)))
  else if n = 0x7FF then some .null
  else match latchOf n with
    | some l => some (.latch l)
    | none => if (trigOf 1 n ⟨0, .imm 0⟩).isSome then some (.trigger (BitVec.ofNat 11 n)) else none

/-- The code of a destination (R211). -/
def Dst.code : Dst → Nat
  | x i => i.toNat
  | p i => 0x40 + i.val
  | v i => 0xC0 + i.toNat
  | latch l => l.code
  | trigger c => c.toNat
  | null => 0x7FF

/-- A slot word (R209): GS [23:22], DST [21:11], SRC [10:0]. -/
abbrev SlotWord := BitVec 24

def SlotWord.gs (w : BitVec 24) : BitVec 2 := w.extractLsb' 22 2
def SlotWord.dst (w : BitVec 24) : Nat := (w.extractLsb' 11 11).toNat
def SlotWord.src (w : BitVec 24) : Nat := (w.extractLsb' 0 11).toNat

/-- The slot word of a guard select, a destination code and a source code (R209). -/
def slotWord (gs : BitVec 2) (dst src : Nat) : BitVec 24 :=
  gs ++ BitVec.ofNat 11 dst ++ BitVec.ofNat 11 src

/-- The unused slot of R223: Null with source `x0`. -/
def nullSlot : BitVec 24 := 0x3FF800

/-- What a slot says (R209 to R211): its guard select, destination and source. -/
structure Slot where
  gs : BitVec 2
  dst : Dst
  src : Src
  deriving DecidableEq, Repr, Inhabited

/-- R212 details `0x03` and `0x04`: the source is looked at first. -/
def decodeFields (w : BitVec 24) : Except Byte Slot :=
  match srcOf (SlotWord.src w) with
  | none => .error 0x03
  | some sr => match dstOf (SlotWord.dst w) with
    | none => .error 0x04
    | some d => .ok ⟨SlotWord.gs w, d, sr⟩

/-- The instruction of a slot word. With `pop` the pop of its source (R230), otherwise its trigger; `op` is the OP of the
command row where the destination is `nmS.cmd` (R161). A plain move gives `none`: it is part of the bundle (R203). -/
def decodeSlot (pop : Bool) (op : Nat) (w : BitVec 24) : Option Instr :=
  match decodeFields w with
  | .error _ => none
  | .ok sl =>
    if pop then
      match sl.src with
      | .port .yqPop => some (.yqPop sl.gs sl.dst)
      | .port (.nmPop u) => some (.nmPop u sl.gs sl.dst)
      | _ => none
    else match sl.dst with
      | .trigger c => trigOf op c.toNat ⟨sl.gs, sl.src⟩
      | _ => none

/-- A header word (R207). Bits [61:60] and [35:32] are reserved: detail `0x01`. -/
def decodeHeader (w : W64) : Except Byte Header :=
  if w.extractLsb' 60 2 ≠ 0 ∨ w.extractLsb' 32 4 ≠ 0 then .error 0x01
  else
    let h : Header := ⟨w.getLsbD 63, w.getLsbD 62, w.extractLsb' 52 8, w.extractLsb' 44 8, w.extractLsb' 36 8, w.extractLsb' 0 32⟩
    if (h.g1.extractLsb' 0 7).toNat ≥ 96 ∨ (h.g2.extractLsb' 0 7).toNat ≥ 96 ∨ (h.g3.extractLsb' 0 7).toNat ≥ 96 then .error 0x02
    else .ok h

/-- The word of a header (R207). -/
def Header.encode (h : Header) : W64 :=
  (BitVec.ofBool h.c) ++ (BitVec.ofBool h.l) ++ (0 : BitVec 2) ++ h.g1 ++ h.g2 ++ h.g3 ++ (0 : BitVec 4) ++ h.limm

/-- Slot i of the 192-bit field of a bundle of 32 bytes (R206), the bundle as one little-endian number. -/
def bundleSlot (b : BitVec 256) (i : Nat) : BitVec 24 := b.extractLsb' (64 + 24 * i) 24

/-- The header word of a bundle (R206). -/
def bundleHeader (b : BitVec 256) : W64 := b.extractLsb' 0 64

/-- The micro-operation of a micro-word (R346, R347): `none` for a reserved opcode or a non-zero zero bit. -/
def decodeMicro (w : W64) : Option Instr :=
  let op := (w.extractLsb' 58 6).toNat
  if op = 0x00 then (if w.extractLsb' 0 58 = 0 then some (.mnop) else none)
  else if op = 0x01 then (if w.extractLsb' 0 58 = 0 then some (.mend) else none)
  else if op = 0x02 then (if w.extractLsb' 12 41 = 0 then some (.mjmp (w.extractLsb' 56 2) (w.extractLsb' 53 3) (w.extractLsb' 0 12)) else none)
  else if op = 0x03 then (if w.extractLsb' 24 28 = 0 then some (.mlpi (w.extractLsb' 56 2) (w.extractLsb' 55 1) (w.extractLsb' 52 3) (w.extractLsb' 0 24)) else none)
  else if op = 0x04 then (if w.extractLsb' 0 56 = 0 then some (.mlpe (w.extractLsb' 56 2)) else none)
  else if op = 0x05 then (if w.extractLsb' 32 18 = 0 then some (.mset (w.extractLsb' 55 3) (w.extractLsb' 54 1) (w.extractLsb' 51 3) (w.extractLsb' 50 1) (w.extractLsb' 0 32)) else none)
  else if op = 0x06 then (if w.extractLsb' 32 20 = 0 then some (.madd (w.extractLsb' 55 3) (w.extractLsb' 52 3) (w.extractLsb' 0 32)) else none)
  else if op = 0x08 then (if w.extractLsb' 0 43 = 0 then some (.mmod (w.extractLsb' 51 7) (w.extractLsb' 44 7) (w.extractLsb' 43 1)) else none)
  else if op = 0x09 then (if w.extractLsb' 0 24 = 0 then some (.mprc (w.extractLsb' 24 34)) else none)
  else if op = 0x0A then (if w.extractLsb' 32 21 = 0 then some (.mscl (w.extractLsb' 56 2) (w.extractLsb' 53 3) (w.extractLsb' 0 32)) else none)
  else if op = 0x0B then (if w.extractLsb' 0 41 = 0 then some (.msel (w.extractLsb' 51 7) (w.extractLsb' 44 7) (w.extractLsb' 41 3)) else none)
  else if op = 0x0C then (if w.extractLsb' 0 41 = 0 then some (.mld (w.extractLsb' 51 7) (w.extractLsb' 44 7) (w.extractLsb' 41 3)) else none)
  else if op = 0x0D then (if w.extractLsb' 0 44 = 0 then some (.mswp (w.extractLsb' 51 7) (w.extractLsb' 44 7)) else none)
  else if op = 0x10 then (if w.extractLsb' 0 26 = 0 then some (.mbc (w.extractLsb' 51 7) (w.extractLsb' 44 7) (w.extractLsb' 41 3) (w.extractLsb' 31 10) (w.extractLsb' 29 2) (w.extractLsb' 26 3)) else none)
  else if op = 0x11 then (if w.extractLsb' 0 17 = 0 then some (.mprm (w.extractLsb' 51 7) (w.extractLsb' 44 7) (w.extractLsb' 43 1) (w.extractLsb' 40 3) (w.extractLsb' 33 7) (w.extractLsb' 25 8) (w.extractLsb' 17 8)) else none)
  else if op = 0x12 then (if w.extractLsb' 0 33 = 0 then some (.mclr (w.extractLsb' 51 7) (w.extractLsb' 44 7) (w.extractLsb' 43 1) (w.extractLsb' 40 3) (w.extractLsb' 33 7)) else none)
  else if op = 0x13 then (if w.extractLsb' 0 44 = 0 then some (.mchk (w.extractLsb' 51 7) (w.extractLsb' 44 7)) else none)
  else if op = 0x14 then (if w.extractLsb' 0 48 = 0 then some (.mout (w.extractLsb' 55 3) (w.extractLsb' 48 7)) else none)
  else if op = 0x15 then (if w.extractLsb' 6 41 = 0 then some (.mpoi (w.extractLsb' 55 3) (w.extractLsb' 48 7) (w.extractLsb' 47 1) (w.extractLsb' 0 6)) else none)
  else if op = 0x18 then (if w.extractLsb' 0 48 = 0 ∧ w.extractLsb' 53 4 = 0 then some (.mwtq (w.extractLsb' 57 1) (w.extractLsb' 48 5)) else none)
  else if op = 0x19 then (if w.extractLsb' 5 53 = 0 then some (.mtok (w.extractLsb' 0 5)) else none)
  else if op = 0x1A then (if w.extractLsb' 5 53 = 0 then some (.mtkw (w.extractLsb' 0 5)) else none)
  else none

/-- The word of a micro-operation (R347). -/
def encodeMicro : Instr → Option W64
  | .add _ _ => none
  | .sub _ _ => none
  | .addw _ _ => none
  | .subw _ _ => none
  | .mul _ _ => none
  | .mulh _ _ => none
  | .mulhz _ _ => none
  | .div _ _ => none
  | .divz _ _ => none
  | .rem _ _ => none
  | .remz _ _ => none
  | .and _ _ => none
  | .or _ _ => none
  | .xor _ _ => none
  | .andn _ _ => none
  | .orn _ _ => none
  | .lut3 _ _ => none
  | .shl _ _ => none
  | .shr _ _ => none
  | .sra _ _ => none
  | .rotl _ _ => none
  | .clz _ _ => none
  | .ctz _ _ => none
  | .popc _ _ => none
  | .brev _ _ => none
  | .bswap _ _ => none
  | .min _ _ => none
  | .max _ _ => none
  | .minz _ _ => none
  | .maxz _ _ => none
  | .eq _ _ => none
  | .ne _ _ => none
  | .lt _ _ => none
  | .le _ _ => none
  | .ltz _ _ => none
  | .lez _ _ => none
  | .bfx _ _ => none
  | .bfi _ _ => none
  | .sext _ _ => none
  | .zext _ _ => none
  | .cmul16 _ _ => none
  | .pand _ => none
  | .por _ => none
  | .pxor _ => none
  | .pnot _ => none
  | .pany _ => none
  | .pall _ => none
  | .jump _ => none
  | .jlink _ => none
  | .loopset _ => none
  | .loopend _ => none
  | .endTask _ => none
  | .kwait _ => none
  | .kpoll _ => none
  | .kfree _ => none
  | .rdcyc _ => none
  | .swtrap _ => none
  | .csrr _ => none
  | .csrw _ => none
  | .launch _ => none
  | .eret _ => none
  | .bkpt _ => none
  | .idle _ => none
  | .tlbinv _ => none
  | .l1inv _ => none
  | .mpload _ => none
  | .vadd _ _ => none
  | .vsub _ _ => none
  | .vmul _ _ => none
  | .vmulh _ _ => none
  | .vfma _ _ => none
  | .vabs _ _ => none
  | .vneg _ _ => none
  | .vmin _ _ => none
  | .vmax _ _ => none
  | .vclamp _ _ => none
  | .vand _ _ => none
  | .vor _ _ => none
  | .vxor _ _ => none
  | .vlut3 _ _ => none
  | .vshl _ _ => none
  | .vshr _ _ => none
  | .vsra _ _ => none
  | .vclz _ _ => none
  | .vpopc _ _ => none
  | .vcmpeq _ _ => none
  | .vcmpne _ _ => none
  | .vcmplt _ _ => none
  | .vcmple _ _ => none
  | .vsel _ _ => none
  | .vcvt _ _ => none
  | .vsatq _ _ => none
  | .vscale _ _ => none
  | .vdot2 _ _ => none
  | .vdot4 _ _ => none
  | .vsum _ _ => none
  | .vrmax _ _ => none
  | .vrmin _ _ => none
  | .vscan _ _ => none
  | .vmin2 _ _ => none
  | .vcmul _ _ => none
  | .vcmac _ _ => none
  | .vconj _ _ => none
  | .vcabs2 _ _ => none
  | .vperm _ _ => none
  | .vbperm _ _ => none
  | .vbmat8 _ _ => none
  | .vshuf _ _ => none
  | .vrot _ _ => none
  | .vsort2 _ _ => none
  | .vbcast _ _ => none
  | .vext _ _ => none
  | .vins _ _ => none
  | .vptest _ _ => none
  | .vpset _ _ => none
  | .vpclr _ _ => none
  | .rcp _ => none
  | .rsq _ => none
  | .rcpstep _ => none
  | .rsqstep _ => none
  | .sqrt _ => none
  | .exp2 _ => none
  | .log2 _ => none
  | .sinp _ => none
  | .cosp _ => none
  | .tanh _ => none
  | .sigm _ => none
  | .ttw _ => none
  | .ttr _ => none
  | .ttclr _ => none
  | .ttcvt _ => none
  | .lds8 _ _ => none
  | .ldz8 _ _ => none
  | .lds16 _ _ => none
  | .ldz16 _ _ => none
  | .lds32 _ _ => none
  | .ldz32 _ _ => none
  | .ld64 _ _ => none
  | .st8 _ _ => none
  | .st16 _ _ => none
  | .st32 _ _ => none
  | .st64 _ _ => none
  | .vld _ _ => none
  | .vst _ _ => none
  | .vldg _ _ => none
  | .vsts _ _ => none
  | .gld _ _ => none
  | .gst _ _ => none
  | .gvld _ _ => none
  | .gvst _ _ => none
  | .xld _ _ => none
  | .xst _ _ => none
  | .xvld _ _ => none
  | .pref _ _ => none
  | .amoadd _ _ => none
  | .amomin _ _ => none
  | .amomax _ _ => none
  | .amoand _ _ => none
  | .amoor _ _ => none
  | .amoxor _ _ => none
  | .amoswp _ _ => none
  | .amocas _ _ => none
  | .amofadd _ _ => none
  | .gamoadd _ _ => none
  | .gamomin _ _ => none
  | .gamomax _ _ => none
  | .gamoswp _ _ => none
  | .gamocas _ _ => none
  | .gamofadd _ _ => none
  | .amoaddn _ _ => none
  | .amominn _ _ => none
  | .amomaxn _ _ => none
  | .amoandn _ _ => none
  | .amoorn _ _ => none
  | .amoxorn _ _ => none
  | .amoswpn _ _ => none
  | .amocasn _ _ => none
  | .amofaddn _ _ => none
  | .gamoaddn _ _ => none
  | .gamominn _ _ => none
  | .gamomaxn _ _ => none
  | .gamoswpn _ _ => none
  | .gamocasn _ _ => none
  | .gamofaddn _ _ => none
  | .drain _ => none
  | .rel _ => none
  | .acq _ => none
  | .fadd _ => none
  | .fset _ => none
  | .fwait _ => none
  | .join _ => none
  | .leave _ => none
  | .gmask _ => none
  | .hmake _ => none
  | .hgive _ => none
  | .hlend _ => none
  | .hpool _ => none
  | .hreclaim _ => none
  | .hfree _ => none
  | .ceCpy _ => none
  | .ceCinit _ => none
  | .cfAwait _ => none
  | .cfRelease _ => none
  | .cfStat _ => none
  | .aqPush _ => none
  | .yqPop _ _ => none
  | .nmIred _ _ => none
  | .nmFadd _ _ => none
  | .nmIadd _ _ => none
  | .nmPop _ _ _ => none
  | .nfence _ => none
  | .allred _ => none
  | .bcast _ => none
  | .rgather _ => none
  | .cimCall _ => none
  | .cimStep _ => none
  | .cimStat _ => none
  | .cimMpsw _ => none
  | .mjmp cnd r tgt => some ((0x02 : BitVec 6) ++ cnd ++ r ++ (0 : BitVec 41) ++ tgt)
  | .mlpi l src r cnt => some ((0x03 : BitVec 6) ++ l ++ src ++ r ++ (0 : BitVec 28) ++ cnt)
  | .mlpe l => some ((0x04 : BitVec 6) ++ l ++ (0 : BitVec 56))
  | .mset d src p hi imm => some ((0x05 : BitVec 6) ++ d ++ src ++ p ++ hi ++ (0 : BitVec 18) ++ imm)
  | .madd d sreg imm => some ((0x06 : BitVec 6) ++ d ++ sreg ++ (0 : BitVec 20) ++ imm)
  | .mmod mf mnm1 mode => some ((0x08 : BitVec 6) ++ mf ++ mnm1 ++ mode ++ (0 : BitVec 43))
  | .mprc cfg => some ((0x09 : BitVec 6) ++ cfg ++ (0 : BitVec 24))
  | .mscl sel r imm => some ((0x0A : BitVec 6) ++ sel ++ r ++ (0 : BitVec 21) ++ imm)
  | .msel mf mnm1 pat => some ((0x0B : BitVec 6) ++ mf ++ mnm1 ++ pat ++ (0 : BitVec 41))
  | .mld mf mnm1 r => some ((0x0C : BitVec 6) ++ mf ++ mnm1 ++ r ++ (0 : BitVec 41))
  | .mswp mf mnm1 => some ((0x0D : BitVec 6) ++ mf ++ mnm1 ++ (0 : BitVec 44))
  | .mbc mf mnm1 g lane0 src r => some ((0x10 : BitVec 6) ++ mf ++ mnm1 ++ g ++ lane0 ++ src ++ r ++ (0 : BitVec 26))
  | .mprm mf mnm1 stk r lo of_ onm1 => some ((0x11 : BitVec 6) ++ mf ++ mnm1 ++ stk ++ r ++ lo ++ of_ ++ onm1 ++ (0 : BitVec 17))
  | .mclr mf mnm1 rows r nrm1 => some ((0x12 : BitVec 6) ++ mf ++ mnm1 ++ rows ++ r ++ nrm1 ++ (0 : BitVec 33))
  | .mchk mf mnm1 => some ((0x13 : BitVec 6) ++ mf ++ mnm1 ++ (0 : BitVec 44))
  | .mout r nrm1 => some ((0x14 : BitVec 6) ++ r ++ nrm1 ++ (0 : BitVec 48))
  | .mpoi r nrm1 clr bits => some ((0x15 : BitVec 6) ++ r ++ nrm1 ++ clr ++ (0 : BitVec 41) ++ bits)
  | .mwtq q n => some ((0x18 : BitVec 6) ++ q ++ (0 : BitVec 4) ++ n ++ (0 : BitVec 48))
  | .mtok tok => some ((0x19 : BitVec 6) ++ (0 : BitVec 53) ++ tok)
  | .mtkw tok => some ((0x1A : BitVec 6) ++ (0 : BitVec 53) ++ tok)
  | .dispatch _ => none
  | .schedulerMemoryWrite _ _ => none
  | .registerWrite _ _ => none
  | .hostW1Access _ => none
  | .hostW2Read _ _ _ => none
  | .inboundPeerRequest _ _ => none
  | .bundleIssue => none
  | .resultLanding => none
  | .variableResultLanding => none
  | .translationWalk => none
  | .checkpointRelease => none
  | .signalPerform => none
  | .drainComplete => none
  | .relComplete => none
  | .l1Writeback => none
  | .canopyFill => none
  | .remoteAccessArrival => none
  | .deferredRefusalArrival => none
  | .handleOperationCheck => none
  | .handleOperationPerform => none
  | .trapEntry => none
  | .mploadComplete => none
  | .atomicPerform => none
  | .copyPacketAccept => none
  | .carafeSlotAssign => none
  | .copyComplete => none
  | .iredResult => none
  | .nearAddApply => none
  | .nfenceComplete => none
  | .collectiveStart => none
  | .collectiveComplete => none
  | .cimRoutineStart => none
  | .mnop => some ((0x00 : BitVec 6) ++ (0 : BitVec 58))
  | .mend => some ((0x01 : BitVec 6) ++ (0 : BitVec 58))
  | .grinderFill => none
  | .engineTokenDone => none
  | .taskEnd => none
  | .launchAccept => none
  | .agePromotion => none
  | .discard => none
  | .standbyPrepare => none
  | .instanceComplete => none
  | .budgetExpiry => none
  | .budgetGraceExpiry => none
  | .envelopeChange => none
  | .lockstepPairing => none
  | .powerClockStep => none
  | .capEnforce => none
  | .errorRecordPlace => none
  | .patrolScrub => none
  | .refresh => none
  | .backgroundZeroing => none
  | .deviceReset => none
  | .launchWrite => none
  | .lstatRead => none
  | .mbstatRead => none
  | .envelopeWrite => none
  | .protmodeWrite => none
  | .pcapWrite => none
  | .pinlimWrite => none
  | .ageWrite => none
  | .errorBankClear => none
  | .linkTraining => none
  | .linkDown => none
  | .flitRetry => none
  | .glalloc => none
  | .glfree => none
  | .cwret => none
  | .dbgctl => none
  | .dbggo => none
  | .dbgrd => none
  | .debugHalt => none
  | .stepStop => none
  | .attest => none
  | .mpwrite => none
  | .hostTlbinv => none
  | .coreswap => none
  | .spareSwap => none
  | .macret => none
  | .macroRetirement => none
  | .hbmsvc => none
  | .lanert => none
  | .fwstage => none
  | .fwswitch => none
  | .schedulerImageSwitch => none
  | .keyload => none
  | .keyunld => none
  | .globalStoreArrival => none
  | .coreResetAndTest => none
  | .hbmChannelResume => none
  | .hostLinkDown => none
  | .laneLoss => none

/-- The slot word of a trigger (its destination code of R236 to R243) or of a pop (R230), R209. -/
def encodeSlot : Instr → Option (BitVec 24)
  | .add u m => some (slotWord m.gs (0x208 + 64 * u.val) m.src.code)
  | .sub u m => some (slotWord m.gs (0x209 + 64 * u.val) m.src.code)
  | .addw u m => some (slotWord m.gs (0x20A + 64 * u.val) m.src.code)
  | .subw u m => some (slotWord m.gs (0x20B + 64 * u.val) m.src.code)
  | .mul u m => some (slotWord m.gs (0x20C + 64 * u.val) m.src.code)
  | .mulh u m => some (slotWord m.gs (0x20D + 64 * u.val) m.src.code)
  | .mulhz u m => some (slotWord m.gs (0x20E + 64 * u.val) m.src.code)
  | .div u m => some (slotWord m.gs (0x20F + 64 * u.val) m.src.code)
  | .divz u m => some (slotWord m.gs (0x210 + 64 * u.val) m.src.code)
  | .rem u m => some (slotWord m.gs (0x211 + 64 * u.val) m.src.code)
  | .remz u m => some (slotWord m.gs (0x212 + 64 * u.val) m.src.code)
  | .and u m => some (slotWord m.gs (0x213 + 64 * u.val) m.src.code)
  | .or u m => some (slotWord m.gs (0x214 + 64 * u.val) m.src.code)
  | .xor u m => some (slotWord m.gs (0x215 + 64 * u.val) m.src.code)
  | .andn u m => some (slotWord m.gs (0x216 + 64 * u.val) m.src.code)
  | .orn u m => some (slotWord m.gs (0x217 + 64 * u.val) m.src.code)
  | .lut3 u m => some (slotWord m.gs (0x218 + 64 * u.val) m.src.code)
  | .shl u m => some (slotWord m.gs (0x219 + 64 * u.val) m.src.code)
  | .shr u m => some (slotWord m.gs (0x21A + 64 * u.val) m.src.code)
  | .sra u m => some (slotWord m.gs (0x21B + 64 * u.val) m.src.code)
  | .rotl u m => some (slotWord m.gs (0x21C + 64 * u.val) m.src.code)
  | .clz u m => some (slotWord m.gs (0x21D + 64 * u.val) m.src.code)
  | .ctz u m => some (slotWord m.gs (0x21E + 64 * u.val) m.src.code)
  | .popc u m => some (slotWord m.gs (0x21F + 64 * u.val) m.src.code)
  | .brev u m => some (slotWord m.gs (0x220 + 64 * u.val) m.src.code)
  | .bswap u m => some (slotWord m.gs (0x221 + 64 * u.val) m.src.code)
  | .min u m => some (slotWord m.gs (0x222 + 64 * u.val) m.src.code)
  | .max u m => some (slotWord m.gs (0x223 + 64 * u.val) m.src.code)
  | .minz u m => some (slotWord m.gs (0x224 + 64 * u.val) m.src.code)
  | .maxz u m => some (slotWord m.gs (0x225 + 64 * u.val) m.src.code)
  | .eq u m => some (slotWord m.gs (0x226 + 64 * u.val) m.src.code)
  | .ne u m => some (slotWord m.gs (0x227 + 64 * u.val) m.src.code)
  | .lt u m => some (slotWord m.gs (0x228 + 64 * u.val) m.src.code)
  | .le u m => some (slotWord m.gs (0x229 + 64 * u.val) m.src.code)
  | .ltz u m => some (slotWord m.gs (0x22A + 64 * u.val) m.src.code)
  | .lez u m => some (slotWord m.gs (0x22B + 64 * u.val) m.src.code)
  | .bfx u m => some (slotWord m.gs (0x22C + 64 * u.val) m.src.code)
  | .bfi u m => some (slotWord m.gs (0x22D + 64 * u.val) m.src.code)
  | .sext u m => some (slotWord m.gs (0x22E + 64 * u.val) m.src.code)
  | .zext u m => some (slotWord m.gs (0x22F + 64 * u.val) m.src.code)
  | .cmul16 u m => some (slotWord m.gs (0x230 + 64 * u.val) m.src.code)
  | .pand m => some (slotWord m.gs 0x2C8 m.src.code)
  | .por m => some (slotWord m.gs 0x2C9 m.src.code)
  | .pxor m => some (slotWord m.gs 0x2CA m.src.code)
  | .pnot m => some (slotWord m.gs 0x2CB m.src.code)
  | .pany m => some (slotWord m.gs 0x2CC m.src.code)
  | .pall m => some (slotWord m.gs 0x2CD m.src.code)
  | .jump m => some (slotWord m.gs 0x288 m.src.code)
  | .jlink m => some (slotWord m.gs 0x289 m.src.code)
  | .loopset m => some (slotWord m.gs 0x28A m.src.code)
  | .loopend m => some (slotWord m.gs 0x28B m.src.code)
  | .endTask m => some (slotWord m.gs 0x28C m.src.code)
  | .kwait m => some (slotWord m.gs 0x28D m.src.code)
  | .kpoll m => some (slotWord m.gs 0x28E m.src.code)
  | .kfree m => some (slotWord m.gs 0x28F m.src.code)
  | .rdcyc m => some (slotWord m.gs 0x290 m.src.code)
  | .swtrap m => some (slotWord m.gs 0x291 m.src.code)
  | .csrr m => some (slotWord m.gs 0x608 m.src.code)
  | .csrw m => some (slotWord m.gs 0x609 m.src.code)
  | .launch m => some (slotWord m.gs 0x60A m.src.code)
  | .eret m => some (slotWord m.gs 0x60B m.src.code)
  | .bkpt m => some (slotWord m.gs 0x60C m.src.code)
  | .idle m => some (slotWord m.gs 0x60D m.src.code)
  | .tlbinv m => some (slotWord m.gs 0x60E m.src.code)
  | .l1inv m => some (slotWord m.gs 0x60F m.src.code)
  | .mpload m => some (slotWord m.gs 0x610 m.src.code)
  | .vadd u m => some (slotWord m.gs (0x308 + 64 * u.val) m.src.code)
  | .vsub u m => some (slotWord m.gs (0x309 + 64 * u.val) m.src.code)
  | .vmul u m => some (slotWord m.gs (0x30A + 64 * u.val) m.src.code)
  | .vmulh u m => some (slotWord m.gs (0x30B + 64 * u.val) m.src.code)
  | .vfma u m => some (slotWord m.gs (0x30C + 64 * u.val) m.src.code)
  | .vabs u m => some (slotWord m.gs (0x30D + 64 * u.val) m.src.code)
  | .vneg u m => some (slotWord m.gs (0x30E + 64 * u.val) m.src.code)
  | .vmin u m => some (slotWord m.gs (0x30F + 64 * u.val) m.src.code)
  | .vmax u m => some (slotWord m.gs (0x310 + 64 * u.val) m.src.code)
  | .vclamp u m => some (slotWord m.gs (0x311 + 64 * u.val) m.src.code)
  | .vand u m => some (slotWord m.gs (0x312 + 64 * u.val) m.src.code)
  | .vor u m => some (slotWord m.gs (0x313 + 64 * u.val) m.src.code)
  | .vxor u m => some (slotWord m.gs (0x314 + 64 * u.val) m.src.code)
  | .vlut3 u m => some (slotWord m.gs (0x315 + 64 * u.val) m.src.code)
  | .vshl u m => some (slotWord m.gs (0x316 + 64 * u.val) m.src.code)
  | .vshr u m => some (slotWord m.gs (0x317 + 64 * u.val) m.src.code)
  | .vsra u m => some (slotWord m.gs (0x318 + 64 * u.val) m.src.code)
  | .vclz u m => some (slotWord m.gs (0x319 + 64 * u.val) m.src.code)
  | .vpopc u m => some (slotWord m.gs (0x31A + 64 * u.val) m.src.code)
  | .vcmpeq u m => some (slotWord m.gs (0x31B + 64 * u.val) m.src.code)
  | .vcmpne u m => some (slotWord m.gs (0x31C + 64 * u.val) m.src.code)
  | .vcmplt u m => some (slotWord m.gs (0x31D + 64 * u.val) m.src.code)
  | .vcmple u m => some (slotWord m.gs (0x31E + 64 * u.val) m.src.code)
  | .vsel u m => some (slotWord m.gs (0x31F + 64 * u.val) m.src.code)
  | .vcvt u m => some (slotWord m.gs (0x320 + 64 * u.val) m.src.code)
  | .vsatq u m => some (slotWord m.gs (0x321 + 64 * u.val) m.src.code)
  | .vscale u m => some (slotWord m.gs (0x322 + 64 * u.val) m.src.code)
  | .vdot2 u m => some (slotWord m.gs (0x323 + 64 * u.val) m.src.code)
  | .vdot4 u m => some (slotWord m.gs (0x324 + 64 * u.val) m.src.code)
  | .vsum u m => some (slotWord m.gs (0x325 + 64 * u.val) m.src.code)
  | .vrmax u m => some (slotWord m.gs (0x326 + 64 * u.val) m.src.code)
  | .vrmin u m => some (slotWord m.gs (0x327 + 64 * u.val) m.src.code)
  | .vscan u m => some (slotWord m.gs (0x328 + 64 * u.val) m.src.code)
  | .vmin2 u m => some (slotWord m.gs (0x329 + 64 * u.val) m.src.code)
  | .vcmul u m => some (slotWord m.gs (0x32A + 64 * u.val) m.src.code)
  | .vcmac u m => some (slotWord m.gs (0x32B + 64 * u.val) m.src.code)
  | .vconj u m => some (slotWord m.gs (0x32C + 64 * u.val) m.src.code)
  | .vcabs2 u m => some (slotWord m.gs (0x32D + 64 * u.val) m.src.code)
  | .vperm u m => some (slotWord m.gs (0x32E + 64 * u.val) m.src.code)
  | .vbperm u m => some (slotWord m.gs (0x32F + 64 * u.val) m.src.code)
  | .vbmat8 u m => some (slotWord m.gs (0x330 + 64 * u.val) m.src.code)
  | .vshuf u m => some (slotWord m.gs (0x331 + 64 * u.val) m.src.code)
  | .vrot u m => some (slotWord m.gs (0x332 + 64 * u.val) m.src.code)
  | .vsort2 u m => some (slotWord m.gs (0x333 + 64 * u.val) m.src.code)
  | .vbcast u m => some (slotWord m.gs (0x334 + 64 * u.val) m.src.code)
  | .vext u m => some (slotWord m.gs (0x335 + 64 * u.val) m.src.code)
  | .vins u m => some (slotWord m.gs (0x336 + 64 * u.val) m.src.code)
  | .vptest u m => some (slotWord m.gs (0x337 + 64 * u.val) m.src.code)
  | .vpset u m => some (slotWord m.gs (0x338 + 64 * u.val) m.src.code)
  | .vpclr u m => some (slotWord m.gs (0x339 + 64 * u.val) m.src.code)
  | .rcp m => some (slotWord m.gs 0x3C8 m.src.code)
  | .rsq m => some (slotWord m.gs 0x3C9 m.src.code)
  | .rcpstep m => some (slotWord m.gs 0x3CA m.src.code)
  | .rsqstep m => some (slotWord m.gs 0x3CB m.src.code)
  | .sqrt m => some (slotWord m.gs 0x3CC m.src.code)
  | .exp2 m => some (slotWord m.gs 0x3CD m.src.code)
  | .log2 m => some (slotWord m.gs 0x3CE m.src.code)
  | .sinp m => some (slotWord m.gs 0x3CF m.src.code)
  | .cosp m => some (slotWord m.gs 0x3D0 m.src.code)
  | .tanh m => some (slotWord m.gs 0x3D1 m.src.code)
  | .sigm m => some (slotWord m.gs 0x3D2 m.src.code)
  | .ttw m => some (slotWord m.gs 0x408 m.src.code)
  | .ttr m => some (slotWord m.gs 0x409 m.src.code)
  | .ttclr m => some (slotWord m.gs 0x40A m.src.code)
  | .ttcvt m => some (slotWord m.gs 0x40B m.src.code)
  | .lds8 u m => some (slotWord m.gs (0x448 + 64 * u.val) m.src.code)
  | .ldz8 u m => some (slotWord m.gs (0x449 + 64 * u.val) m.src.code)
  | .lds16 u m => some (slotWord m.gs (0x44A + 64 * u.val) m.src.code)
  | .ldz16 u m => some (slotWord m.gs (0x44B + 64 * u.val) m.src.code)
  | .lds32 u m => some (slotWord m.gs (0x44C + 64 * u.val) m.src.code)
  | .ldz32 u m => some (slotWord m.gs (0x44D + 64 * u.val) m.src.code)
  | .ld64 u m => some (slotWord m.gs (0x44E + 64 * u.val) m.src.code)
  | .st8 u m => some (slotWord m.gs (0x44F + 64 * u.val) m.src.code)
  | .st16 u m => some (slotWord m.gs (0x450 + 64 * u.val) m.src.code)
  | .st32 u m => some (slotWord m.gs (0x451 + 64 * u.val) m.src.code)
  | .st64 u m => some (slotWord m.gs (0x452 + 64 * u.val) m.src.code)
  | .vld u m => some (slotWord m.gs (0x453 + 64 * u.val) m.src.code)
  | .vst u m => some (slotWord m.gs (0x454 + 64 * u.val) m.src.code)
  | .vldg u m => some (slotWord m.gs (0x455 + 64 * u.val) m.src.code)
  | .vsts u m => some (slotWord m.gs (0x456 + 64 * u.val) m.src.code)
  | .gld u m => some (slotWord m.gs (0x457 + 64 * u.val) m.src.code)
  | .gst u m => some (slotWord m.gs (0x458 + 64 * u.val) m.src.code)
  | .gvld u m => some (slotWord m.gs (0x459 + 64 * u.val) m.src.code)
  | .gvst u m => some (slotWord m.gs (0x45A + 64 * u.val) m.src.code)
  | .xld u m => some (slotWord m.gs (0x45B + 64 * u.val) m.src.code)
  | .xst u m => some (slotWord m.gs (0x45C + 64 * u.val) m.src.code)
  | .xvld u m => some (slotWord m.gs (0x45D + 64 * u.val) m.src.code)
  | .pref u m => some (slotWord m.gs (0x45E + 64 * u.val) m.src.code)
  | .amoadd u m => some (slotWord m.gs (0x45F + 64 * u.val) m.src.code)
  | .amomin u m => some (slotWord m.gs (0x460 + 64 * u.val) m.src.code)
  | .amomax u m => some (slotWord m.gs (0x461 + 64 * u.val) m.src.code)
  | .amoand u m => some (slotWord m.gs (0x462 + 64 * u.val) m.src.code)
  | .amoor u m => some (slotWord m.gs (0x463 + 64 * u.val) m.src.code)
  | .amoxor u m => some (slotWord m.gs (0x464 + 64 * u.val) m.src.code)
  | .amoswp u m => some (slotWord m.gs (0x465 + 64 * u.val) m.src.code)
  | .amocas u m => some (slotWord m.gs (0x466 + 64 * u.val) m.src.code)
  | .amofadd u m => some (slotWord m.gs (0x467 + 64 * u.val) m.src.code)
  | .gamoadd u m => some (slotWord m.gs (0x468 + 64 * u.val) m.src.code)
  | .gamomin u m => some (slotWord m.gs (0x469 + 64 * u.val) m.src.code)
  | .gamomax u m => some (slotWord m.gs (0x46A + 64 * u.val) m.src.code)
  | .gamoswp u m => some (slotWord m.gs (0x46B + 64 * u.val) m.src.code)
  | .gamocas u m => some (slotWord m.gs (0x46C + 64 * u.val) m.src.code)
  | .gamofadd u m => some (slotWord m.gs (0x46D + 64 * u.val) m.src.code)
  | .amoaddn u m => some (slotWord m.gs (0x46E + 64 * u.val) m.src.code)
  | .amominn u m => some (slotWord m.gs (0x46F + 64 * u.val) m.src.code)
  | .amomaxn u m => some (slotWord m.gs (0x470 + 64 * u.val) m.src.code)
  | .amoandn u m => some (slotWord m.gs (0x471 + 64 * u.val) m.src.code)
  | .amoorn u m => some (slotWord m.gs (0x472 + 64 * u.val) m.src.code)
  | .amoxorn u m => some (slotWord m.gs (0x473 + 64 * u.val) m.src.code)
  | .amoswpn u m => some (slotWord m.gs (0x474 + 64 * u.val) m.src.code)
  | .amocasn u m => some (slotWord m.gs (0x475 + 64 * u.val) m.src.code)
  | .amofaddn u m => some (slotWord m.gs (0x476 + 64 * u.val) m.src.code)
  | .gamoaddn u m => some (slotWord m.gs (0x477 + 64 * u.val) m.src.code)
  | .gamominn u m => some (slotWord m.gs (0x478 + 64 * u.val) m.src.code)
  | .gamomaxn u m => some (slotWord m.gs (0x479 + 64 * u.val) m.src.code)
  | .gamoswpn u m => some (slotWord m.gs (0x47A + 64 * u.val) m.src.code)
  | .gamocasn u m => some (slotWord m.gs (0x47B + 64 * u.val) m.src.code)
  | .gamofaddn u m => some (slotWord m.gs (0x47C + 64 * u.val) m.src.code)
  | .drain m => some (slotWord m.gs 0x4C8 m.src.code)
  | .rel m => some (slotWord m.gs 0x4C9 m.src.code)
  | .acq m => some (slotWord m.gs 0x4CA m.src.code)
  | .fadd m => some (slotWord m.gs 0x4CB m.src.code)
  | .fset m => some (slotWord m.gs 0x4CC m.src.code)
  | .fwait m => some (slotWord m.gs 0x4CD m.src.code)
  | .join m => some (slotWord m.gs 0x4CE m.src.code)
  | .leave m => some (slotWord m.gs 0x4CF m.src.code)
  | .gmask m => some (slotWord m.gs 0x4D0 m.src.code)
  | .hmake m => some (slotWord m.gs 0x4D1 m.src.code)
  | .hgive m => some (slotWord m.gs 0x4D2 m.src.code)
  | .hlend m => some (slotWord m.gs 0x4D3 m.src.code)
  | .hpool m => some (slotWord m.gs 0x4D4 m.src.code)
  | .hreclaim m => some (slotWord m.gs 0x4D5 m.src.code)
  | .hfree m => some (slotWord m.gs 0x4D6 m.src.code)
  | .ceCpy m => some (slotWord m.gs 0x508 m.src.code)
  | .ceCinit m => some (slotWord m.gs 0x509 m.src.code)
  | .cfAwait m => some (slotWord m.gs 0x510 m.src.code)
  | .cfRelease m => some (slotWord m.gs 0x511 m.src.code)
  | .cfStat m => some (slotWord m.gs 0x512 m.src.code)
  | .aqPush m => some (slotWord m.gs 0x580 m.src.code)
  | .yqPop gs dst => some (slotWord gs dst.code 0x148)
  | .nmIred u m => some (slotWord m.gs (0x5C8 + u.val) m.src.code)
  | .nmFadd u m => some (slotWord m.gs (0x5C8 + u.val) m.src.code)
  | .nmIadd u m => some (slotWord m.gs (0x5C8 + u.val) m.src.code)
  | .nmPop u gs dst => some (slotWord gs dst.code (0x150 + u.val))
  | .nfence m => some (slotWord m.gs 0x5D0 m.src.code)
  | .allred m => some (slotWord m.gs 0x598 m.src.code)
  | .bcast m => some (slotWord m.gs 0x599 m.src.code)
  | .rgather m => some (slotWord m.gs 0x59A m.src.code)
  | .cimCall m => some (slotWord m.gs 0x550 m.src.code)
  | .cimStep m => some (slotWord m.gs 0x551 m.src.code)
  | .cimStat m => some (slotWord m.gs 0x552 m.src.code)
  | .cimMpsw m => some (slotWord m.gs 0x553 m.src.code)
  | .mjmp _ _ _ => none
  | .mlpi _ _ _ _ => none
  | .mlpe _ => none
  | .mset _ _ _ _ _ => none
  | .madd _ _ _ => none
  | .mmod _ _ _ => none
  | .mprc _ => none
  | .mscl _ _ _ => none
  | .msel _ _ _ => none
  | .mld _ _ _ => none
  | .mswp _ _ => none
  | .mbc _ _ _ _ _ _ => none
  | .mprm _ _ _ _ _ _ _ => none
  | .mclr _ _ _ _ _ => none
  | .mchk _ _ => none
  | .mout _ _ => none
  | .mpoi _ _ _ _ => none
  | .mwtq _ _ => none
  | .mtok _ => none
  | .mtkw _ => none
  | .dispatch _ => none
  | .schedulerMemoryWrite _ _ => none
  | .registerWrite _ _ => none
  | .hostW1Access _ => none
  | .hostW2Read _ _ _ => none
  | .inboundPeerRequest _ _ => none
  | .bundleIssue => none
  | .resultLanding => none
  | .variableResultLanding => none
  | .translationWalk => none
  | .checkpointRelease => none
  | .signalPerform => none
  | .drainComplete => none
  | .relComplete => none
  | .l1Writeback => none
  | .canopyFill => none
  | .remoteAccessArrival => none
  | .deferredRefusalArrival => none
  | .handleOperationCheck => none
  | .handleOperationPerform => none
  | .trapEntry => none
  | .mploadComplete => none
  | .atomicPerform => none
  | .copyPacketAccept => none
  | .carafeSlotAssign => none
  | .copyComplete => none
  | .iredResult => none
  | .nearAddApply => none
  | .nfenceComplete => none
  | .collectiveStart => none
  | .collectiveComplete => none
  | .cimRoutineStart => none
  | .mnop => none
  | .mend => none
  | .grinderFill => none
  | .engineTokenDone => none
  | .taskEnd => none
  | .launchAccept => none
  | .agePromotion => none
  | .discard => none
  | .standbyPrepare => none
  | .instanceComplete => none
  | .budgetExpiry => none
  | .budgetGraceExpiry => none
  | .envelopeChange => none
  | .lockstepPairing => none
  | .powerClockStep => none
  | .capEnforce => none
  | .errorRecordPlace => none
  | .patrolScrub => none
  | .refresh => none
  | .backgroundZeroing => none
  | .deviceReset => none
  | .launchWrite => none
  | .lstatRead => none
  | .mbstatRead => none
  | .envelopeWrite => none
  | .protmodeWrite => none
  | .pcapWrite => none
  | .pinlimWrite => none
  | .ageWrite => none
  | .errorBankClear => none
  | .linkTraining => none
  | .linkDown => none
  | .flitRetry => none
  | .glalloc => none
  | .glfree => none
  | .cwret => none
  | .dbgctl => none
  | .dbggo => none
  | .dbgrd => none
  | .debugHalt => none
  | .stepStop => none
  | .attest => none
  | .mpwrite => none
  | .hostTlbinv => none
  | .coreswap => none
  | .spareSwap => none
  | .macret => none
  | .macroRetirement => none
  | .hbmsvc => none
  | .lanert => none
  | .fwstage => none
  | .fwswitch => none
  | .schedulerImageSwitch => none
  | .keyload => none
  | .keyunld => none
  | .globalStoreArrival => none
  | .coreResetAndTest => none
  | .hbmChannelResume => none
  | .hostLinkDown => none
  | .laneLoss => none

/-- Whether a slot instruction is a pop, and the OP of its command row (R161): what `decodeSlot` needs besides the word. -/
def Instr.isPop : Instr → Bool
  | .yqPop _ _ => true
  | .nmPop _ _ _ => true
  | _ => false

def Instr.nmOpCode : Instr → Nat
  | .nmFadd _ _ => 2
  | .nmIadd _ _ => 3
  | _ => 1

/-- The words of an instruction, with their width in bits: 24 for a slot, 64 for a micro-word. Events have no encoding. -/
def encode (i : Instr) : Option (Nat × Nat) :=
  match encodeSlot i with
  | some w => some (24, w.toNat)
  | none => (encodeMicro i).map fun w => (64, w.toNat)

/-- The instruction whose bits are `w` (the reader of the table gives the rows no bits): a slot word where `nbits` is at most
24, the trigger first and otherwise the pop; a micro-word where it is at most 64. -/
def decodeTableWord (nbits w : Nat) : Option Instr :=
  if nbits ≤ 24 then
    match decodeSlot false 1 (BitVec.ofNat 24 w) with
    | some i => some i
    | none => decodeSlot true 1 (BitVec.ofNat 24 w)
  else if nbits ≤ 64 then decodeMicro (BitVec.ofNat 64 w)
  else none

/-- The bytes of a bundle (R206) from its header word and its slots, lowest address first. -/
def bundleBytes (hdr : W64) (slots : List (BitVec 24)) : List Byte :=
  (List.range 8).map (fun i => hdr.extractLsb' (8 * i) 8) ++
  slots.flatMap fun w => (List.range 3).map fun i => w.extractLsb' (8 * i) 8

/-- The header of a bundle with no guards (R207). -/
def plainHeader (limm : Option (BitVec 32)) : Header := ⟨false, limm.isSome, 0, 0, 0, limm.getD 0⟩

/-- Eight slots, the unused ones as R223 encodes them. -/
def slots8 (l : List (Nat × BitVec 24)) : List (BitVec 24) := (List.range 8).map fun i => (l.lookup i).getD nullSlot

/-- DESIGN CHOICE (log 7): a base handler that does what R397 says. It loads the handler word into `x46` and jumps to it, or where
the word is zero to its own last bundle, which performs `swtrap` with detail `0xFF`; it writes no `x`, `p` or `v` but `x46`. -/
def baseHandler : List Byte :=
  let limm8000 : BitVec 32 := 0x8000
  bundleBytes (plainHeader (some limm8000)).encode (slots8 [(6, slotWord 0 0x440 0x6FF), (7, slotWord 0 0x441 0x000)]) ++
  bundleBytes (plainHeader none).encode (slots8 [(6, slotWord 0 0x457 0x000)]) ++
  bundleBytes (plainHeader none).encode (slots8 [(0, slotWord 0 0x2E 0x122)]) ++
  bundleBytes (plainHeader none).encode (slots8 [(0, slotWord 0 0x200 0x02E), (1, slotWord 0 0x226 0x700)]) ++
  bundleBytes (plainHeader (some 0x100)).encode (slots8 [(0, slotWord 0 0x200 0x100), (1, slotWord 0 0x20C 0x6FF)]) ++
  bundleBytes (plainHeader none).encode (slots8 []) ++
  bundleBytes (plainHeader none).encode (slots8 []) ++
  bundleBytes (plainHeader none).encode (slots8 [(0, slotWord 0 0x200 0x100), (1, slotWord 0 0x214 0x02E)]) ++
  bundleBytes (plainHeader none).encode (slots8 [(0, slotWord 0 0x288 0x100)]) ++
  bundleBytes (plainHeader none).encode (slots8 []) ++
  bundleBytes (plainHeader none).encode (slots8 []) ++
  bundleBytes (plainHeader none).encode (slots8 []) ++
  bundleBytes (plainHeader (some 0)).encode (slots8 [(0, slotWord 0 0x281 0x000), (1, slotWord 0 0x291 0x7FF)])

/-! The properties of codes that R204, R212, R219 and R228 use. -/

/-- R219, R236 to R243: triggers whose effect cannot be withheld, whatever their operands. -/
def needsC (d : Nat) : Bool :=
  [0x28C, 0x28F, 0x468, 0x469, 0x46A, 0x46B, 0x46C, 0x46D, 0x4A8, 0x4A9, 0x4AA, 0x4AB, 0x4AC, 0x4AD, 0x4CB, 0x4CC, 0x4CE, 0x4CF, 0x4D1, 0x4D2, 0x4D3, 0x4D4, 0x4D5, 0x4D6, 0x508, 0x509, 0x550, 0x551, 0x553, 0x598, 0x599, 0x59A, 0x5C8, 0x5C9, 0x5CA, 0x5CB, 0x5D0, 0x60A, 0x60E, 0x60F, 0x610].contains d

/-- The unit a trigger code belongs to (R211, R241, R243): `ce` and `cf` are two units, `aq` and `co` too. -/
def trigUnit (d : Nat) : Nat :=
  if 0x510 ≤ d ∧ d < 0x540 then 0x510 else if 0x590 ≤ d ∧ d < 0x5C0 then 0x590 else d / 64 * 64

/-- R238 to R243: destinations that are a row wide. -/
def rowWide (d : Nat) : Bool :=
  if 0x300 ≤ d ∧ d < 0x3C0 then d % 64 ≠ 3
  else if 0x3C0 ≤ d ∧ d < 0x400 then true
  else if d = 0x408 then true
  else if 0x440 ≤ d ∧ d < 0x4C0 then [0x01, 0x14, 0x15, 0x16, 0x1A].contains (d % 64)
  else if 0xC0 ≤ d ∧ d < 0x100 then true
  else [0x508, 0x580, 0x5C8, 0x5C9, 0x5CA, 0x5CB].contains d

/-- R204, R228: whether the bus of a slot reaches a destination code. -/
def busReaches (slot d : Nat) : Bool :=
  if d = 0x7FF then true
  else if d < 0xA0 then true
  else if d < 0x200 then slot ≥ 2
  else if slot < 2 then
    !rowWide d && (d < 0x300 || (0x4C0 ≤ d && d < 0x580) || (0x600 ≤ d && d < 0x640))
  else if slot < 5 then (0x300 ≤ d && d < 0x3C0) || (0x400 ≤ d && d < 0x440) || (0x580 ≤ d && d < 0x600)
  else if slot = 5 then 0x3C0 ≤ d && d < 0x440
  else (0x440 ≤ d && d < 0x580) || (0x5C0 ≤ d && d < 0x600)

/-- R228: on `bs0` and `bs1` a row-wide destination is out of reach. -/
theorem busReaches_bs0_cpy : busReaches 0 0x508 = false := by decide

/-- R229: the source ports that hold or deliver a row. -/
def Src.isRow : Src → Bool
  | .v _ => true
  | .port q => match q with
    | .va _ | .sf | .tt | .lsV _ | .lsGv _ | .yqPop | .nmPop _ => true
    | _ => false
  | _ => false

/-- R210: sources that use LIMM. -/
def Src.usesLimm : Src → Bool
  | .limmS | .limmZ | .limmHi | .limmPc => true
  | _ => false

end Sys2Proof
end

