-- ==== Sys2Proof/Machine/State.lean ====
section
/-! DEFINITION. State: everything the manual gives the device, as plain data, and `State.reset` (spec R419). Each field's docstring
names its rule; INVENTORY.md lists them all with their reset values. Sparse data is an `SMap`: pairs in rising key order, none
equal to the default that an absent key reads as. -/

namespace Sys2Proof.Machine

open Sys2Proof

/-- What stops the model: only a malformed agenda entry does; the device itself never stops. -/
inductive Fault where
  /-- Raised by `step` when an event turn of the agenda names a bundle trigger or a micro-operation, which only a bundle or the
  micro-sequencer takes. Safe: the device takes no such step. -/
  | notAnEvent
  deriving DecidableEq, Repr

/-- What the model declines. -/
inductive Refusal where
  /-- Raised by `exec` for an instruction that has no meaning yet. Safe. -/
  | notModelled (mnemonic : String)
  deriving DecidableEq, Repr

/-! ### Traps, reports and error records -/

/-- What a trap writes into the trap registers (R394, R395). -/
structure Trap where
  code : Byte
  detail : Byte := 0
  isDef : Bool := false
  eng : Bool := false
  addr : W64 := 0
  pc : W64 := 0
  slot : BitVec 4 := 15
  mpc : W64 := 0
  deriving DecidableEq, Repr, Inhabited

/-- Where an effect comes from: its bundle, its slot, and the bundle's place in issue order. -/
structure Origin where
  pc : W64 := 0
  slot : Nat := 0
  seq : Nat := 0
  deriving DecidableEq, Repr, Inhabited

/-- A trap to be taken at a later bundle boundary (R396), with the age of its bundle. -/
structure Report where
  trap : Trap
  seq : Nat
  deriving DecidableEq, Repr, Inhabited

/-- An error record on its way to a bank (R406 to R408); `cycle` tells which records arrive in the same cycle. -/
structure ErrRec where
  event : Nat
  sev : Nat
  detail : Byte := 0
  cause : Byte := 0
  addr : W64 := 0
  synd : W64 := 0
  unit : Nat
  core : Option Nat := none
  macr : Option (Nat × Nat) := none
  domain : Nat := 0
  port : Nat := 0
  cycle : Nat := 0
  deriving DecidableEq, Repr, Inhabited

/-- One error bank of four words (R406). -/
structure ErrBank where
  w0 : W64 := 0
  w1 : W64 := 0
  w2 : W64 := 0
  w3 : W64 := 0
  deriving DecidableEq, Repr, Inhabited

/-! ### Addresses and accesses -/

/-- A run of bytes after translation: home, physical address, class, key, length (R34, R36). -/
structure Seg where
  home : Nat
  pa : Nat
  cls : Nat
  key : Nat
  len : Nat
  deriving DecidableEq, Repr, Inhabited

/-- Where an access goes (R29, R31, R33): a local offset, a remote offset, a virtual address still to be translated, or its
translated segments. -/
inductive Place where
  | loc (off : Nat)
  | rem (c : CoreId) (off : Nat)
  | va
  | glob (segs : List Seg)
  deriving DecidableEq, Repr, Inhabited

/-- The atomic operations of R304. -/
inductive AmoOp where
  | add | min | max | and | or | xor | swp | cas | fadd
  deriving DecidableEq, Repr, Inhabited

/-- Handle operations (R311). -/
inductive HandleOp where
  | make | give | lend | pool | reclaim | free
  deriving DecidableEq, Repr, Inhabited

/-- Effects held until the checkpoint release, in program order (R14, R112). -/
inductive WhKind where
  | store (bytes : List Byte) (poison : Bool)
  | amo (op : AmoOp) (b c : W64)
  | drain (mask : BitVec 4) (scope : BitVec 2)
  | rel (scope : BitVec 2)
  | cfRelease (f : Fin 16)
  | aqPush (r : RowT)
  deriving DecidableEq, Repr, Inhabited

structure Withheld where
  id : Nat
  org : Origin
  place : Place
  ea : W64 := 0
  what : WhKind
  deriving DecidableEq, Repr, Inhabited

/-- The signals of R113 with the operands they took at their trigger. -/
inductive Signal where
  | fadd (target : CoreId) (f : Fin 16) (v : W32)
  | fset (mask : W64) (f : Fin 16) (v : W32)
  | join (g : BitVec 3)
  | leave (g : BitVec 3)
  | handle (op : HandleOp) (a b : W64) (port : Nat) (checked : Bool)
  | cpy (image : BitVec 512) (w k : W64)
  | cimCall (entry : Byte) (progress : W32) (w k : W64) (mps : List W64)
  | cimStep (word : W64) (w k : W64) (mps : List W64)
  | nmCmd (stream : Fin 4) (row : Row) (segs : List Seg)
  | nfence (k : W64)
  | coll (kind : Nat) (a c mask w k : W64)
  | amo (op : AmoOp) (b c : W64) (port : Nat)
  | launch (b : W64)
  | mpload (a c w k : W64)
  deriving DecidableEq, Repr, Inhabited

/-- What a checkpoint bundle does besides withheld effects, in slot order (R112, R219). -/
inductive CEffKind where
  | csrw (n : Nat) (v : W64)
  | endTask (exit : W32)
  | kfree (mask : W32)
  | tlbinv (a b c : W64)
  | l1inv
  | cinit (f : Fin 16) (a : W64)
  | mpsw (word : Nat) (v : W64)
  | signal (s : Signal)
  deriving DecidableEq, Repr, Inhabited

structure CEff where
  id : Nat
  org : Origin
  place : Place := .va
  ea : W64 := 0
  what : CEffKind
  deriving DecidableEq, Repr, Inhabited

/-- Committed accesses and signals not yet performed, in commit order (R110 to R118). -/
inductive CommKind where
  | store (bytes : List Byte) (poison : Bool)
  | amo (op : AmoOp) (b c : W64)
  | drain (mask : BitVec 4) (scope : BitVec 2)
  | rel (scope : BitVec 2)
  | signal (s : Signal)
  deriving DecidableEq, Repr, Inhabited

structure Comm where
  id : Nat
  org : Origin
  place : Place
  ea : W64 := 0
  batch : Nat
  /-- a global atomic has left the core: its line is out of the L1 (R121) -/
  left : Bool := true
  /-- the wait tokens of an engine trigger that were pending or failed when it was committed (R122) -/
  waits : List Nat := []
  what : CommKind
  deriving DecidableEq, Repr, Inhabited

/-- A variable-latency result on its way to a port (R215). `whN` withheld effects precede its trigger; `got` is its value once it is
performed. -/
structure Pend where
  id : Nat
  org : Origin
  port : Nat
  dead : Bool := false
  place : Place
  ea : W64 := 0
  n : Nat
  signed : Bool := false
  row : Bool := false
  whN : Nat := 0
  got : Option Val := none
  /-- an `acq` came between its trigger and its fill, which then installs no line (R119) -/
  noFill : Bool := false
  /-- the 8-byte words of a row load that were read before the rest of it (R54, R106) -/
  part : SMap (Option (List Byte × Bool)) := []
  deriving DecidableEq, Repr, Inhabited

/-- What a translation is for: KIND of R50. -/
inductive AccKind where
  | load | store | atomic | fetch | copySrc | copyDst | near | nearStore | host
  deriving DecidableEq, Repr, Inhabited

/-- A translation in progress (R45): the access with this identifier waits for it; `since` orders misses by arrival. -/
structure Walk where
  id : Nat
  org : Origin
  ea : W64
  n : Nat
  kind : AccKind
  since : Nat := 0
  deriving DecidableEq, Repr, Inhabited

/-- A TLB entry (R44): domain, page base, leaf level and leaf. -/
structure TlbEnt where
  domain : Nat
  va : Nat
  level : Nat
  e : W64
  deriving DecidableEq, Repr, Inhabited

/-- An L1 line (R63, R117): 128 bytes with a valid and a dirty bit per byte, a poison mark per 64-byte block, and per 8-byte word
whether its code meets a correctable or an uncorrectable error. -/
structure L1Line where
  home : Nat
  line : Nat
  cls : Nat
  key : Nat
  data : BitVec 1024
  valid : BitVec 128
  dirty : BitVec 128
  poison : BitVec 2
  ce : BitVec 16 := 0
  ue : BitVec 16 := 0
  deriving DecidableEq, Repr, Inhabited

/-- An entry of the dirty-line FIFO (R63): a line or the marker of a `rel` (R118). -/
inductive FifoEnt where
  | line (home line : Nat)
  | marker (id : Nat)
  deriving DecidableEq, Repr, Inhabited

/-- A buffer descriptor (R72). -/
structure Desc where
  st : Nat := 0
  hcore : Nat := 0
  gen : Byte := 0
  first : Nat := 0
  ngm1 : Nat := 0
  mask : W64 := 0
  deriving DecidableEq, Repr, Inhabited

/-! ### Results in flight -/

/-- A fixed-latency result (R213): its port, the cycles until it lands under the core's profile and under the task's declared one
(R221), its value, the bits of the port it leaves as they are (R272), and whether a deferred report belongs to it. -/
structure Inflight where
  port : Nat
  wait : Nat
  dwait : Nat
  val : Val
  keep : Row := 0
  deriving DecidableEq, Repr, Inhabited

/-! ### The parts of a core -/

/-- The scalar part of the snapshot (R13): `x`, `p`, the loop registers and `SRSEED`. -/
structure Regs where
  x : Vector W64 64
  p : Vector Bool 96
  lcnt : W64
  lbeg : W64
  srseed : W64
  deriving DecidableEq, Repr

/-- The snapshot of R13: registers, the 64 window rows by absolute row number, and the resume address. -/
structure Snapshot where
  regs : Regs
  rows : List (Nat × RowT)
  resume : W64
  deriving DecidableEq, Repr

/-- The trap registers of R394. -/
structure TrapRegs where
  tvec : W64
  tcause : W64
  taddr : W64
  tbpc : W64
  tmpc : W64
  tslot : W64
  deriving DecidableEq, Repr

/-- Control registers that are not in the snapshot (R58, R260). -/
structure Ctrl where
  awb : BitVec 13
  tx : BitVec 20
  ty : BitVec 20
  tz : BitVec 20
  taskid : W32
  member : BitVec 6
  sizem1 : BitVec 6
  latprof : Bool
  cyc : W64
  deriving DecidableEq, Repr

/-- The transport machinery: latches and ports by code, results in flight, `sf` spacing (R216), `tt` tiles (R295), and what a
rollback chooses among for them (R205). -/
structure Transport where
  latches : SMap Val
  ports : SMap Val
  inflight : List Inflight
  sfWait : Nat
  tiles : SMap RowT
  latchesCk : SMap Val
  portsCk : SMap Val
  tilesCk : SMap RowT
  latchLog : List (Nat × Val)
  portLog : List (Nat × Val)
  tileLog : List (Nat × RowT)
  deriving DecidableEq, Repr

/-- Modes: the trap handler (R398), debug (R409), and what the stepped bundle did. -/
structure Mode where
  handler : Bool
  /-- by their place in issue order: the first bundle of the open interval, the handler's first, and the one of its first stack access -/
  openSeq : Nat
  entrySeq : Nat
  stackSeq : Option Nat
  dbgEn : Bool
  dbgStep : Bool
  dbgHalt : Bool
  stopped : Bool
  stepPc : Option W64
  stepDetail : Byte
  stepAddr : W64
  offline : Bool
  quarantined : Bool
  retries : Nat
  deriving DecidableEq, Repr

/-- Local memory: scratch, accumulator rows, and their error marks (R51 to R60); the rows that the open interval wrote through `v`
registers, which reach the accumulator store at the release (R104); and the rows that a release replaced since the core's last
cycle, as they were (R126). -/
structure Local where
  scratch : Memory
  badWords : List Nat
  ceWords : List Nat
  acc : SMap RowT
  badRows : List Nat
  ceRows : List Nat
  written : List Nat
  vw : SMap (Option RowT)
  fresh : List (Nat × RowT)
  /-- of the even core of a lockstep pair: the scratch ranges and the accumulator rows written since it was paired, which the odd core's
  copies received too (R403) -/
  paired : Option (List (Nat × Nat) × List Nat) := none
  deriving DecidableEq, Repr

/-- A release waiting for the checks of its interval (R220), with the address of its bundle. Once committed it may still wait for
the completion of an `l1inv` (R267). -/
structure Release where
  effs : List CEff
  resume : W64
  eret : Bool
  pc : W64
  committed : Bool
  deriving DecidableEq, Repr

/-- The memory side of a core: what is withheld, pending and committed (R68 to R71, R105 to R121), the L1 (R63) and the TLB (R44). -/
structure MemSide where
  wh : List Withheld
  walks : List Walk
  pend : List Pend
  comm : List Comm
  releasing : Option Release
  /-- refusals on their way back, and whether each leaves a record (R77) -/
  refusals : List (Report × Bool)
  l1 : List L1Line
  fifo : List FifoEnt
  tlb : List TlbEnt
  ids : Nat
  deriving DecidableEq, Repr

/-- Buffer ownership in the home core (R72). -/
structure Own where
  gran : SMap Nat
  desc : SMap Desc
  deriving DecidableEq, Repr

/-- A Carafe slot's status, byte count and completion mark (R154, R155). -/
structure CafSlot where
  status : Byte := 0
  bytes : Nat := 0
  complete : Bool := false
  deriving DecidableEq, Repr, Inhabited

/-- A Carafe (R154): its counts follow from the fields; `spec` are pours of the open interval (R128). -/
structure Carafe where
  act : Bool := false
  base : Nat := 0
  slotsz : Nat := 0
  n : Nat := 1
  f : Nat := 0
  p : Nat := 0
  q : Nat := 0
  nasgn : Nat := 0
  nfill : Nat := 0
  nheld : Nat := 0
  spec : Nat := 0
  slots : SMap CafSlot := []
  deriving DecidableEq, Repr, Inhabited

/-- A copy in an engine (R132, R141): its packet words, where it came from, and what it waits for. -/
structure CopyEnt where
  id : Nat
  words : List W64
  queue : Option Nat := none
  core : Option CoreId := none
  domain : Nat
  waits : List Nat := []
  token : Option Nat := none
  ordAfter : List Nat := []
  caf : Option (Nat × Nat) := none
  /-- a status known before the copy runs: refused at acceptance, or stopped -/
  early : Option (Byte × Byte × Nat) := none
  /-- by linear index: bytes read before the rest of the packet, with their marks and whether their slot is encoded, and indexes written before
  it (R126) -/
  buf : SMap (Option (Byte × Bool × Bool)) := []
  moved : List Nat := []
  met : Bool := false
  /-- word 1 of its completion record was written before word 0 (R126, R147) -/
  recAhead : Bool := false
  deriving DecidableEq, Repr, Inhabited

/-- A near-memory stream (R158, R159): commands sent and not performed are in `comm` or `cmds`; results in trigger order. -/
structure NmStream where
  cmds : List (Nat × Row × List Seg) := []
  results : List RowT := []
  spec : Nat := 0
  deriving DecidableEq, Repr, Inhabited

/-! ### The CIM engine -/

/-- An entry of a scale store (R359, R360): a code, the code of 1.0 under either format, or nothing that a fill gave it (log 71). -/
inductive Scale where
  | none | one | code (b : Byte)
  deriving DecidableEq, Repr, Inhabited

/-- One half of a macro (R321, R331): bit-cells as bytes, 16-bit checksums, weight shifts and scale codes by output and block, with what
the entries not listed hold, selectors by row, weight flags by output. -/
structure Half where
  cells : Memory := []
  checks : SMap (BitVec 16) := []
  ckValid : Bool := false
  shifts : SMap Int := []
  shift0 : Int := 0
  scales : SMap Scale := []
  scale0 : Scale := .none
  sels : SMap Nat := []
  nanMet : List Nat := []
  memErr : List Nat := []
  bad : Bool := false
  deriving DecidableEq, Repr, Inhabited

/-- A block-run opened by an `mbc` (R327, R328): its K, and the shift and scale code of each operand as captured then; an activation code
that nothing set reads as 1.0. -/
structure RunInfo where
  k : Nat := 0
  ka : Int := 0
  sa : Option Byte := none
  kw : List Int := []
  sw : List Scale := []
  deriving DecidableEq, Repr, Inhabited

/-- A logical macro (R64, R65, R321, R327). -/
structure Macro where
  retired : Bool := false
  scratch : Bool := false
  pendScratch : Bool := false
  swapped : Bool := false
  h0 : Half := {}
  h1 : Half := {}
  pat : Nat := 0
  na : SMap Int := []
  ckAcc : SMap Int := []
  ovf : List Nat := []
  runTag : Byte := 0
  count : Nat := 0
  runs : SMap RunInfo := []
  data : List Nat := []
  promoted : Bool := false
  /-- weight flags and an invalid checksum column of the halves broadcast into since the last clear -/
  nanMet : List Nat := []
  memErr : List Nat := []
  ckBad : Bool := false
  deriving DecidableEq, Repr, Inhabited

/-- The configuration of R338; Tw and Ta are f32 bits. -/
structure CimCfg where
  wfmt : Nat := 0
  afmt : Nat := 0
  ww : Nat := 8
  wa : Nat := 8
  wsg : Bool := true
  asg : Bool := true
  tree : Bool := false
  prm : Nat := 0
  cke : Bool := false
  wbs : Nat := 0
  abs : Nat := 0
  pint : Nat := 0
  tw : W32 := 0x3F800000
  ta : W32 := 0x3F800000
  deriving DecidableEq, Repr, Inhabited

/-- A queued call or step (R340, R341): a step carries its word. Of its progress mask the tokens are kept that are still pending. -/
structure CimCall where
  entry : Nat := 0
  step : Option W64 := none
  waits : List Nat
  token : Option Nat
  progress : W32
  mps : List W64
  org : Origin
  deriving DecidableEq, Repr, Inhabited

/-- The routine in execution (R344). -/
structure Routine where
  call : CimCall
  first : Nat
  last : Nat
  mpc : Nat
  ma : Vector W32 8
  ml : Vector (BitVec 24) 4
  beg : Vector Nat 4
  wpois : Bool := false
  codeW : Option Byte := none
  codeA : Option Byte := none
  rowsOut : Nat := 0
  /-- `mld` words issued before it started: the fills of later ones are its own (R368) -/
  mlds : Nat := 0
  /-- bank words that the word in execution, an `mscl`, has read before the rest (R54, R126) -/
  part : SMap (Option (List (Byte × Bool))) := []
  deriving DecidableEq, Repr

/-- A fill handed to the Grinder (R333, R355): the macro, the configuration of its `mld`, the place of that word in the order of
`mld` words, its descriptor's scratch offset, the domain of its task, the cycles an `mswp` waited for it (R368), and bank words read before
the rest, each with whether a correctable error was met (R369). -/
structure Fill where
  macr : Nat
  cfg : CimCfg
  group : Nat
  descOff : Nat
  domain : Nat
  idle : Nat := 0
  got : SMap (Option (Bool × List (Byte × Bool))) := []
  deriving DecidableEq, Repr, Inhabited

/-- A fill as it is performed (R356): its macro, descriptor words and which of them could not be read, residual and status addresses, and its
IDLE count. -/
structure FillJob where
  macr : Nat
  words : List W64
  badWords : List Nat
  res : Option Nat
  stat : Option Nat
  idle : Nat
  deriving DecidableEq, Repr, Inhabited

/-- The numbers that a status record reports (R365). -/
structure FillNums where
  loss : Nat := 0
  tused : Nat := 0
  nnan : Nat := 0
  merr : Bool := false
  ndrop : Nat := 0
  nres : Nat := 0
  deriving DecidableEq, Repr, Inhabited

/-- A fill or tile group that has read its operands (R364 to R366): its macros, the words of the residual list still to be written, the code of a
refused one, each job with its code and the half it writes, the numbers of their records, and, once the halves are written, the words of the
records still to be: the record's offset, the word's place in it, and the word. -/
structure FillOut where
  macrs : List Nat := []
  lists : List (Nat × W64) := []
  fail : Option Nat := none
  ends : List (FillJob × Nat × Half) := []
  nums : FillNums := {}
  stats : List (Nat × Nat × W64) := []
  deriving DecidableEq, Repr, Inhabited

/-- A CIM failure waiting for its trap (R350). -/
structure CimFail where
  cause : Nat
  call : CimCall
  mpc : Nat
  addr : W64
  detail : Byte := 0
  deriving DecidableEq, Repr, Inhabited

structure Cim where
  macros : SMap Macro
  latch : RowT
  latchQ : List Int
  latchK : List Int
  latchBa : Nat
  scaleLo : Option (List Byte)
  scaleHi : Option (List Byte)
  store : SMap W64
  active : CimCfg
  pending : CimCfg
  queue : List CimCall
  run : Option Routine
  fails : List CimFail
  fills : List Fill
  mlds : Nat
  owed : List (Nat × Nat)
  ent : Nat
  stp : Bool
  mpc : Nat
  cause : Nat
  mlc : Byte
  ckmis : Nat
  ckskp : Nat
  /-- `mpload`s not complete: A, C, what they wait for, their token (R268) -/
  mpload : List (W64 × W64 × List Nat × Option Nat)
  /-- words of the `mpload` of a token already written, and words of it fetched before the rest, by index (R268, R337) -/
  mpDone : List (Nat × Nat) := []
  mpGot : List (Nat × Nat × W64) := []
  /-- what the fill at the head of the queue has still to write (R126) -/
  out : Option FillOut := none
  /-- accumulator rows that the engine wrote since the core's last cycle, as they were (R62) -/
  fresh : List (Nat × RowT) := []
  deriving DecidableEq, Repr

/-- The engines of a core and the state they share with it (R122, R308, R334). -/
structure Engines where
  tokens : Vector (BitVec 2) 32
  flags : Vector W32 16
  gangMask : W64
  aq : List RowT
  yq : List RowT
  yqSpec : Nat
  nm : Vector NmStream 4
  /-- `nfence`s not complete: the token, the commands still covered, whether one of them was skipped (R127, R171) -/
  nfences : List (Option Nat × List Nat × Bool)
  /-- a return-free command was skipped since the last `nfence` (R169) -/
  nmSkip : Bool
  nrfCmds : List (Nat × Nat × Row × List Seg)
  /-- elements of return-free commands already added, and bytes of reduce commands already read, by identifier (R168, R171) -/
  nearDone : List (Nat × Nat) := []
  nearGot : List (Nat × Nat × List (Byte × Bool)) := []
  carafes : Vector Carafe 16
  copies : List CopyEnt
  cim : Cim
  deriving DecidableEq, Repr

/-- How a task is to end at the next boundary (R392, R396). -/
inductive EndKind where
  | done (exit : W32)
  | killed
  | discarded (overrun : Bool)
  deriving DecidableEq, Repr, Inhabited

/-- The resident task (R72, R383). -/
structure Task where
  inst : Nat
  node : Nat
  tile : Nat
  domain : Nat
  profB : Bool
  idem : Bool
  prio : Nat
  budget : Nat
  used : Nat
  tookBudget : Bool
  grace : Nat
  stamp : Nat
  gang : Nat
  /-- what its translations fault with: the context was unusable when the task started (R40) -/
  noCtx : Option Byte := none
  deriving DecidableEq, Repr, Inhabited

/-- The standby of a core (R384): the tile it is for, with the GEN of its instance, its domain, its macros, and their shadow halves as they stood
before (R387). -/
structure Standby where
  inst : Nat
  gen : Nat := 0
  node : Nat
  tile : Nat
  domain : Nat
  macroFirst : Nat
  macroCount : Nat
  old : List (Nat × Half)
  deriving DecidableEq, Repr, Inhabited

structure Core where
  regs : Regs
  pc : W64
  ctrl : Ctrl
  traps : TrapRegs
  tr : Transport
  mode : Mode
  loc : Local
  snap : Snapshot
  ms : MemSide
  own : Own
  eng : Engines
  reports : List Report
  seq : Nat
  task : Option Task
  ending : Option EndKind
  asked : Option EndKind
  lastDomain : Option Nat
  standby : Option Standby
  /-- uncorrectable errors of the microprogram store, withhold buffer, TLB or descriptor table, by unit and address, not yet taken (R407) -/
  fatal : List (Nat × W64) := []
  /-- of the even core of a lockstep pair: its `tt` tiles and its engine as they were when it was paired (R403) -/
  pairBase : Option (SMap RowT × Cim) := none
  deriving DecidableEq, Repr

/-! ### The bundle in progress -/

/-- The bundle whose triggers are being started (R202): what the end of the bundle does is collected here. -/
structure Ctx where
  core : CoreId := 0
  addr : W64 := 0
  hdr : Header := ⟨false, false, 0, 0, 0, 0⟩
  /-- guard of each slot as evaluated at issue -/
  guards : List Bool := []
  /-- values that pops and sampled status ports delivered, by slot -/
  caught : List (Nat × Val) := []
  /-- register writes at the end of the bundle, in slot order -/
  writes : List (Dst × Val) := []
  next : Option W64 := none
  loop : Option (W64 × W64) := none
  srseed : Option W64 := none
  acq : Bool := false
  eret : Bool := false
  /-- withheld effects of earlier bundles: what loads of this bundle see (R107) -/
  whN : Nat := 0
  effs : List CEff := []
  /-- a condition found while reading sources, taken after the triggers of lower slots (R396) -/
  pending : Option Trap := none
  stall : Nat := 0
  produced : List Nat := []
  deriving DecidableEq, Repr, Inhabited

/-! ### Memory of the device -/

/-- A 128-byte line of Canopy (R80 to R82, R98); `enc` is the encoded mark of its first 64-byte block (R84, R148). -/
structure CLine where
  home : Nat
  line : Nat
  key : Nat
  cls : Nat
  dirty : Bool
  data : BitVec 1024
  poison : BitVec 2
  ue : BitVec 2 := 0
  enc : Bool := false
  deriving DecidableEq, Repr, Inhabited

/-- A way of a Canopy set (R82); a pinned way holds a home-14 line. -/
inductive Way where
  | invalid
  | retired
  | held (l : CLine)
  deriving DecidableEq, Repr, Inhabited

/-- A set: sixteen ways and the tree of R83, bit i the node i of the tree. -/
structure CSet where
  ways : List Way
  plru : BitVec 15
  deriving DecidableEq, Repr, Inhabited

/-- What the metadata of a 64-byte block of HBM4E says (R97 to R100, R148). -/
structure Block where
  key : Nat := 0
  poison : Bool := false
  encoded : Bool := false
  integ : Option (BitVec 16) := none
  ce : Bool := false
  ue : Bool := false
  /-- something was written to the block since bring-up: until then it reads as zero under every key (R419) -/
  written : Bool := false
  deriving DecidableEq, Repr, Inhabited

/-- Home 0, Canopy, other homes and the grove TLBs. Of memory at homes 1 to 13: its bytes, its poisoned 64-byte blocks (R200) and its
encoded slots (R153). -/
structure Mem where
  hbm : Memory
  blocks : SMap Block
  canopy : SMap CSet
  ext : Memory
  extBad : SMap Bool
  extEnc : SMap Bool
  groveTlb : Vector (List TlbEnt) 8
  /-- the key table (R99, R416): per identifier one more than its 64 bytes, zero where no key is loaded -/
  keys : SMap Nat
  linkUp : BitVec 12
  hostUp : Bool
  deriving DecidableEq, Repr

/-! ### Scheduler -/

/-- The state of a tile (R392). -/
inductive TileSt where
  | waiting | queued | preloaded | running | discarding | done | killed
  deriving DecidableEq, Repr, Inhabited

/-- What the scheduler keeps per tile (R380, R381, R383, R391, R392): levels fallen by promotion, dispatch events waited, its place
at the head of its level, when it became ready, and what its earlier runs did. -/
structure Tile where
  st : TileSt := .waiting
  fallen : Nat := 0
  wait : Nat := 0
  head : Nat := 0
  since : Nat := 0
  rerun : Bool := false
  /-- the run discarded last overran its budget (OVERRUN) -/
  lastOver : Bool := false
  /-- some run overran its budget -/
  overrun : Bool := false
  deriving DecidableEq, Repr, Inhabited

/-- An instance's copy of a node (R372): its 32 words and its incoming edges (source, words). -/
structure Node where
  words : List W64
  edges : List (W64 × W64)
  deriving DecidableEq, Repr, Inhabited

/-- A graph instance (R378, R379). -/
structure Inst where
  gen : Nat
  slot : Nat
  accepted : Nat
  domain : Nat
  nodes : List Node
  tiles : SMap Tile
  base : List Nat
  prioOvr : Option Nat
  recVa : W64
  recDomain : Nat
  nkill : Nat
  exitor : W32
  deriving DecidableEq, Repr, Inhabited

/-- A launch waiting in the queue (R375): from the host, or from a core with the result of its port. -/
structure LaunchReq where
  v : W64
  core : Option CoreId
  pend : Nat
  domain : Nat
  deriving DecidableEq, Repr, Inhabited

/-- A collective that a participant has issued (R318); once it has started, the result rows that its destination takes. -/
structure CollReq where
  core : CoreId
  kind : Nat
  a : W64
  c : W64
  mask : W64
  waits : List Nat
  token : Option Nat
  rows : Option (List RowT) := none
  /-- source bank words read before the start, and destination ones written before the rest, by index (R126) -/
  got : SMap (Option (List (Byte × Bool))) := []
  wrote : List Nat := []
  deriving DecidableEq, Repr, Inhabited

structure Sched where
  mem : Memory
  launches : List LaunchReq
  waiting : List LaunchReq
  insts : List Inst
  gens : SMap Nat
  /-- the instance served last at each level, by its place in order of acceptance, plus one (R380) -/
  rr : SMap Nat
  /-- instances accepted so far; dispatches, discards and readiness so far, which order tasks and tiles -/
  accepts : Nat
  stamp : Nat
  groups : SMap W64
  colls : List CollReq
  pinned : Option Nat
  deriving DecidableEq, Repr

/-! ### Host side and housekeeping -/

/-- A mailbox command in progress: its request words (R414). -/
structure MbCmd where
  words : List W64
  deriving DecidableEq, Repr, Inhabited

/-- The configuration record in use (R418): the values the reset columns call *record*. -/
structure Record where
  envMask : BitVec 3
  envDef : Nat
  protDef : Byte
  pqReq : Bool
  linkEtb : BitVec 12
  retiredMacros : List (Nat × Nat)
  retiredWays : List (Nat × Nat)
  spares : Nat
  /-- the macros retired on each spare core: two spares of die 0, then two of die 1 (R18, R64) -/
  spareRetired : List (Nat × Nat)
  /-- the SRAM repairs and the physical cores that are spares (R18, R418); nothing that software sees depends on them -/
  repairs : List (Nat × Nat) := []
  spareMap : List (Nat × Nat) := []
  deriving DecidableEq, Repr, Inhabited

/-- A pair of slots of the boot flash (R417): their contents, `none` as the part was delivered; which of them, `true` for B, has the active
mark; whether the other holds a verified staged image (R418); and which one is in use, with what was read from it. -/
structure Flash where
  slotA : Option (List Byte) := none
  slotB : Option (List Byte) := none
  active : Bool := false
  staged : Bool := false
  used : Bool := false
  image : Option (List Byte) := none
  deriving DecidableEq, Repr, Inhabited

/-- A copy queue's engine side (R138): its expected index. -/
structure CopyQueue where
  expected : Nat
  deriving DecidableEq, Repr, Inhabited

structure Hsk where
  ready : Bool
  phase : Nat
  failCode : Nat
  envelope : Nat
  envTarget : Nat
  envPend : Bool
  protActive : Byte
  protLock : Byte
  pcap : BitVec 16
  grant : Nat
  freq : Nat
  issue : Nat
  power : Nat
  gated : Nat
  pinlim : BitVec 4
  hxctx : BitVec 9
  w1base : BitVec 20
  w2base : BitVec 20
  pxctx : Vector (BitVec 9) 12
  hstat : W64
  hint : W64
  /-- how often each MSI-X vector was raised (R412) -/
  msix : Vector Nat 5
  linkstat : Vector W64 12
  lstat : W64
  age : BitVec 16
  mbstat : W64
  mbReq : SMap W64
  mbResp : SMap W64
  mbData : Memory
  mbCmd : Option MbCmd
  banks : Vector ErrBank 32
  recs : List ErrRec
  record : Record
  /-- the pairs of the boot flash (R417): housekeeping image, scheduler image, configuration record -/
  flash : Vector Flash 3
  schedPend : Bool
  spareA : Nat
  spareB : Nat
  /-- cores awaiting a spare, with that spare; macros of cores awaiting retirement (R425) -/
  swapReq : List (Nat × Nat)
  macRetReq : List (Nat × Nat)
  hbmSvc : Option Nat
  quotes : Nat
  lastRead : List Byte
  lastStatus : Nat
  /-- the header of the last flit that a port sent in answer to a request (R423) -/
  lastFlit : W64 := 0
  /-- macros that fail the self-test of bring-up, by core (R419) -/
  broken : List (Nat × Nat) := []
  deriving DecidableEq, Repr

structure State where
  cores : Vector Core 64
  mem : Mem
  sched : Sched
  sysCopies : Vector (List CopyEnt) 8
  queues : SMap CopyQueue
  /-- the queue that each copy engine served last, plus one (R140) -/
  served : SMap Nat
  hk : Hsk
  /-- the bundle in progress: its slots still to run, its context, and its core before it -/
  todo : List (Bool × Nat × BitVec 24)
  ctx : Ctx
  saved : Option Core
  /-- who moves next, and the event that moves now -/
  agenda : List Turn
  cur : Stim
  clock : Nat
  freeCtr : Nat
  deriving DecidableEq, Repr

/-! ### Reset (R419): a READY device with nothing resident -/

/-- Dispatch and reset state of registers: zero. -/
def Regs.zero : Regs := ⟨Vector.replicate 64 0, Vector.replicate 96 false, 0, 0, 0⟩

def Snapshot.reset : Snapshot := ⟨Regs.zero, (List.range 64).map fun i => (i, RowT.zero), 0⟩

/-- R394: `TVEC.ENTRY` is `0x7_FFFF_FFFF_F800` at reset. TSLOT is DESIGN CHOICE 15 (log 2). -/
def TrapRegs.reset : TrapRegs := ⟨0xFFFFFFFFFF0000, 0, 0, 0, 0, 15⟩

def Ctrl.reset : Ctrl := ⟨0, 0, 0, 0, 0, 0, 0, false, 0⟩

def Transport.reset : Transport := ⟨[], [], [], 0, [], [], [], [], [], [], []⟩

def Mode.reset : Mode := ⟨false, 0, 0, none, false, false, false, false, none, 0, 0, false, false, 0⟩

def MemSide.reset : MemSide := ⟨[], [], [], [], none, [], [], [], [], 0⟩

def Local.zero : Local := ⟨[], [], [], [], [], [], [], [], [], none⟩

def Cim.reset : Cim :=
  { macros := [], latch := RowT.zero, latchQ := [], latchK := [], latchBa := 32, scaleLo := none, scaleHi := none, store := [],
    active := {}, pending := {}, queue := [], run := none, fails := [], fills := [], mlds := 0, owed := [], ent := 0, stp := false, mpc := 0,
    cause := 0, mlc := 0, ckmis := 0, ckskp := 0, mpload := [] }

def Engines.reset : Engines :=
  { tokens := Vector.replicate 32 0, flags := Vector.replicate 16 0, gangMask := 0, aq := [], yq := [], yqSpec := 0,
    nm := Vector.replicate 4 {}, nfences := [], nmSkip := false, nrfCmds := [], carafes := Vector.replicate 16 {}, copies := [], cim := Cim.reset }

def Core.reset : Core :=
  { regs := Regs.zero, pc := 0, ctrl := Ctrl.reset, traps := TrapRegs.reset, tr := Transport.reset, mode := Mode.reset,
    loc := Local.zero, snap := Snapshot.reset, ms := MemSide.reset, own := ⟨[], []⟩, eng := Engines.reset,
    reports := [], seq := 0, task := none, ending := none, asked := none, lastDomain := none, standby := none }

def Mem.reset : Mem := ⟨[], [], [], [], [], [], Vector.replicate 8 [], [], 0, true⟩

def Sched.reset : Sched := ⟨[], [], [], [], [], [], 0, 0, [], [], none⟩

/-- DESIGN CHOICE (log 3): the configuration record of the modelled part. -/
def Record.reset : Record := ⟨7, 0, 0, false, 0, [], [], 2, [], [], []⟩

/-- R419 at READY: `phase` is 6 as the phase table gives it; that this and not the Reset column's 0 holds is DEDUCED (log 77). -/
def Hsk.reset : Hsk :=
  { ready := true, phase := 6, failCode := 0, envelope := 0, envTarget := 0, envPend := false, protActive := 0, protLock := 0,
    pcap := 1000, grant := 1000, freq := 125, issue := 64, power := 0, gated := 0, pinlim := 12, hxctx := 0, w1base := 0, w2base := 0,
    pxctx := Vector.replicate 12 0, hstat := 0, hint := 0, msix := Vector.replicate 5 0, linkstat := Vector.replicate 12 0, lstat := 0, age := 1024,
    mbstat := 0, mbReq := [], mbResp := [], mbData := [], mbCmd := none, banks := Vector.replicate 32 {}, recs := [],
    record := Record.reset, flash := Vector.replicate 3 {}, schedPend := false, spareA := 2, spareB := 2, swapReq := [], macRetReq := [], hbmSvc := none, quotes := 0,
    lastRead := [], lastStatus := 0 }

/-- The machine right after reset (R419). -/
def State.reset : State :=
  { cores := Vector.replicate 64 Core.reset, mem := Mem.reset, sched := Sched.reset, sysCopies := Vector.replicate 8 [],
    queues := [], served := [], hk := Hsk.reset, todo := [], ctx := {}, saved := none, agenda := [], cur := {}, clock := 0, freeCtr := 0 }

end Sys2Proof.Machine
end

