-- ==== Sys2Proof/Machine/Ops.lean ====
section
/-! DEFINITION. Ops: the named operations over sparse maps, bytes, registers, latches, ports and rows (spec R3, R56 to R60, R205,
R210, R211), the cycle (R213, R246, R260), error records (R407), the rollback (R393), and taking a trap and returning from one
(R10, R394 to R399). -/

namespace Sys2Proof

/-- Bits [63:0] of a delivered value (R203). -/
def Val.word : Val → W64
  | .w v => v
  | .r v => v.data.extractLsb' 0 64

/-- The row a value delivers to a row port (R203). -/
def Val.row : Val → RowT
  | .w v => ⟨v.setWidth 4096, 0⟩
  | .r v => v

/-- Whether a value is a row with tag bit 0 set (R201). -/
def Val.poisoned : Val → Bool
  | .w _ => false
  | .r v => v.tag.getLsbD 0

end Sys2Proof

namespace Sys2Proof.Machine

open Sys2Proof

/-- The outcome of a step of this machine. -/
abbrev Out := Host.Outcome State Fault Refusal

/-! ### Sparse maps -/

/-- The value at a key; `d` is what an absent key reads as. -/
def mrd {β : Type} (d : β) (m : SMap β) (k : Nat) : β := (m.lookup k).getD d

/-- Insert a pair before the first larger key. -/
def minsert {β : Type} (k : Nat) (v : β) : SMap β → SMap β
  | [] => [(k, v)]
  | (a, w) :: t => if k < a then (k, v) :: (a, w) :: t else (a, w) :: minsert k v t

/-- The map with `v` at key `k`, in canonical form. -/
def mwr {β : Type} [DecidableEq β] (d : β) (m : SMap β) (k : Nat) (v : β) : SMap β :=
  let rest := m.filter fun e => e.1 != k
  if v = d then rest else minsert k v rest

/-- Strictly rising keys. -/
def rising : List Nat → Bool
  | [] => true
  | [_] => true
  | a :: b :: t => decide (a < b) && rising (b :: t)

/-- Canonical form: keys strictly rising, no entry equal to the default of its key. -/
def mwf {β : Type} [DecidableEq β] (d : β) (m : SMap β) : Bool :=
  rising (m.map Prod.fst) && m.all fun e => decide (e.2 ≠ d)

/-- The canonical form of a memory: an unlisted address reads as zero (R419; notes/assumptions/6.md). -/
def Memory.wf (m : Memory) : Bool := mwf 0 m

/-! ### Bytes, little-endian (R3) -/

def leNat : List Byte → Nat
  | [] => 0
  | b :: t => b.toNat + 256 * leNat t

def leBytes : Nat → Nat → List Byte
  | 0, _ => []
  | n + 1, v => BitVec.ofNat 8 v :: leBytes n (v / 256)

/-- Read `n` bytes of a memory from address `a`. -/
def rdBytes (m : Memory) (a n : Nat) : List Byte := (List.range n).map fun i => mrd 0 m (a + i)

/-- Write bytes from address `a` upwards. -/
def wrBytes (m : Memory) (a : Nat) : List Byte → Memory
  | [] => m
  | b :: t => wrBytes (mwr 0 m a b) (a + 1) t

def rdNat (m : Memory) (a n : Nat) : Nat := leNat (rdBytes m a n)

def rowOfBytes (l : List Byte) : Row := BitVec.ofNat 4096 (leNat l)

def rowBytes (r : Row) : List Byte := leBytes 512 r.toNat

/-- Lane j of width w of a row (R56). -/
def lane (w : Nat) (r : Row) (j : Nat) : Nat := (r.toNat >>> (w * j)) % 2 ^ w

/-- The natural number whose lanes of width w are the list, lane 0 lowest. -/
def lanesNat (w : Nat) : List Nat → Nat
  | [] => 0
  | v :: t => v % 2 ^ w + 2 ^ w * lanesNat w t

def ofLanes (w : Nat) (l : List Nat) : Row := BitVec.ofNat 4096 (lanesNat w l)

/-- Bits [lo + n - 1:lo] of a word. -/
def bits (v : W64) (lo n : Nat) : Nat := (v.toNat >>> lo) % 2 ^ n

/-- `Sext(v, n)` of R10 on a natural number. -/
def sextN (n v : Nat) : W64 := BitVec.ofInt 64 (if v % 2 ^ n < 2 ^ (n - 1) then (v % 2 ^ n : Int) else (v % 2 ^ n : Int) - 2 ^ n)

/-- The signed reading of the low n bits. -/
def sint (n v : Nat) : Int := if v % 2 ^ n < 2 ^ (n - 1) then (v % 2 ^ n : Int) else (v % 2 ^ n : Int) - 2 ^ n

/-- The low n bits of an integer. -/
def low (n : Nat) (i : Int) : Nat := (i % (2 ^ n : Int)).toNat

/-! ### Cores and free values -/

def State.core (s : State) (c : CoreId) : Core := s.cores.get c

def State.setCore (s : State) (c : CoreId) (k : Core) : State := { s with cores := s.cores.set c k }

def State.modCore (s : State) (c : CoreId) (f : Core → Core) : State := s.setCore c (f (s.core c))

/-- Advance the counter of free values (log 8). -/
def State.bump (s : State) : State := { s with freeCtr := s.freeCtr + 1 }

/-- One of `n` outcomes (R12) for the use with index i of the current free value. -/
def pickOf (ctr i n : Nat) : Nat := if n = 0 then 0 else Config.pick (ctr * 16384 + i) % n

/-- R408: the order of records of one cycle: by UNIT, and within it by CORE, those that name no core first. -/
def ErrRec.before (a b : ErrRec) : Bool :=
  let core := fun (r : ErrRec) => match r.core with | some c => c + 1 | none => 0
  decide (a.cycle = b.cycle) && (decide (a.unit < b.unit) || (decide (a.unit = b.unit) && decide (core a < core b)))

/-- A record queued in its place. -/
def queueRec (l : List ErrRec) (r : ErrRec) : List ErrRec := (l.takeWhile fun x => !r.before x) ++ r :: l.dropWhile fun x => !r.before x

/-- Records of this cycle sent to housekeeping. All slots of a bundle share a cycle. -/
def State.addRecs (s : State) (l : List ErrRec) : State :=
  { s with hk := { s.hk with recs := l.foldl (fun q r => queueRec q { r with cycle := s.clock }) s.hk.recs } }

def State.addRec (s : State) (r : ErrRec) : State := s.addRecs [r]

/-- R406: records of memory that an access of a domain met. -/
def inDomain (d : Nat) (l : List ErrRec) : List ErrRec := l.map fun r => { r with domain := d }

/-- The records of an access of a core: a corrected error of Canopy is recorded by the core itself (R86). -/
def byCore (c : CoreId) (d : Nat) (l : List ErrRec) : List ErrRec :=
  l.map fun r => { r with domain := d, core := if r.event = 0x01 ∧ r.unit = 7 then some c.val else r.core }

/-- Core number of a natural number modulo 64. -/
def coreId (n : Nat) : CoreId := ⟨n % 64, Nat.mod_lt _ (by decide)⟩

/-- The grove of a core: R17 gives a core number as die, grove, row and column; bits [5:3] name one of the eight groves. -/
def groveOf (c : CoreId) : Fin 8 := ⟨c.val / 8, by omega⟩

/-! ### Registers (R203, R210, R211) -/

/-- `x0` reads zero. -/
def Regs.getX (r : Regs) (i : BitVec 6) : W64 := if i = 0 then 0 else r.x.get ⟨i.toNat, i.isLt⟩

/-- A move into `x0` is discarded (R203). -/
def Regs.setX (r : Regs) (i : BitVec 6) (v : W64) : Regs := if i = 0 then r else { r with x := r.x.set i.toNat v i.isLt }

def Regs.getP (r : Regs) (i : Fin 96) : Bool := r.p.get i

def Regs.setP (r : Regs) (i : Fin 96) (v : Bool) : Regs := { r with p := r.p.set i v }

/-- R58: the accumulator row of `v` register i. -/
def Core.vRow (k : Core) (i : BitVec 6) : Nat := (k.ctrl.awb.toNat + i.toNat) % 8192

/-- An accumulator row as read: an uncorrectable error sets bits 2 and 0 (R56). -/
def Core.rowAt (k : Core) (r : Nat) : RowT :=
  let v := mrd RowT.zero k.loc.acc r
  if k.loc.badRows.contains r then { v with tag := v.tag ||| 5 } else v

/-- Write an accumulator row; the write leaves a correct code (R56). -/
def Core.setRow (k : Core) (r : Nat) (v : RowT) : Core :=
  { k with
    loc.acc := mwr RowT.zero k.loc.acc r v, loc.badRows := k.loc.badRows.filter (· ≠ r), loc.ceRows := k.loc.ceRows.filter (· ≠ r)
    loc.paired := k.loc.paired.map fun p => (p.1, r :: p.2) }

/-- A row as the core itself reads it: with the writes of the open interval through its `v` registers, which the accumulator store
takes at the release (R104, R108). -/
def Core.vAt (k : Core) (r : Nat) : RowT := (mrd none k.loc.vw r).getD (k.rowAt r)

/-- R203: a write through a `v` register sets the row's written flag (R60). -/
def Core.setV (k : Core) (i : BitVec 6) (v : RowT) : Core :=
  let r := k.vRow i
  { k with loc.vw := mwr none k.loc.vw r (some v), loc.written := if k.loc.written.contains r then k.loc.written else r :: k.loc.written }

/-- The row writes of the interval performed (R104); the engine may still meet the old rows in this cycle (R126). -/
def Core.commitV (k : Core) : Core :=
  let k := k.loc.vw.foldl (fun k (e : Nat × Option RowT) => match e.2 with
    | some v => { k.setRow e.1 v with loc.fresh := k.loc.fresh ++ [(e.1, k.rowAt e.1)] }
    | none => k) k
  { k with loc.vw := [] }

/-- A latch that nothing wrote since dispatch holds zero (R205). -/
def Core.latch (k : Core) (code : Nat) : Val := mrd (.w 0) k.tr.latches code

def Core.setLatch (k : Core) (code : Nat) (v : Val) : Core :=
  { k with tr.latches := mwr (.w 0) k.tr.latches code v, tr.latchLog := (code, v) :: k.tr.latchLog }

/-- The 64-bit reading and the row reading of a latch (R297). -/
def Core.latchW (k : Core) (code : Nat) : W64 := (k.latch code).word
def Core.latchR (k : Core) (code : Nat) : RowT := (k.latch code).row

/-- A result port holds zero at dispatch (R229). -/
def Core.port (k : Core) (code : Nat) : Val := mrd (.w 0) k.tr.ports code

def Core.setPort (k : Core) (code : Nat) (v : Val) : Core :=
  { k with tr.ports := mwr (.w 0) k.tr.ports code v, tr.portLog := (code, v) :: k.tr.portLog }

def Core.token (k : Core) (t : Nat) : BitVec 2 := k.eng.tokens.get ⟨t % 32, Nat.mod_lt _ (by decide)⟩

def Core.setToken (k : Core) (t : Nat) (v : BitVec 2) : Core :=
  { k with eng.tokens := k.eng.tokens.set (t % 32) v (Nat.mod_lt _ (by decide)) }

/-- R402: a pending token becomes done or failed; other states are kept. -/
def Core.endToken (k : Core) (t : Nat) (ok : Bool) : Core :=
  if k.token t = 1 then k.setToken t (if ok then 2 else 3) else k

def Core.setDesc (k : Core) (i : Nat) (d : Desc) : Core := { k with own.desc := mwr {} k.own.desc i d }
def Core.desc (k : Core) (i : Nat) : Desc := mrd {} k.own.desc i
/-- R72: zero where the granule is in no buffer, else the descriptor index plus 256. -/
def Core.granule (k : Core) (g : Nat) : Nat := mrd 0 k.own.gran g
def Core.setGranule (k : Core) (g v : Nat) : Core := { k with own.gran := mwr 0 k.own.gran g v }

/-- R72: the 9-bit granule-map entry housekeeping reads, B above the descriptor index. -/
def Core.granuleEntry (k : Core) (g : Nat) : BitVec 9 :=
  BitVec.ofNat 9 (if k.granule g < 256 then 0 else 256 + k.granule g % 256)

/-- R72: the two words of a descriptor as housekeeping reads them. -/
def Desc.words (d : Desc) : W64 × W64 :=
  (BitVec.ofNat 64 (d.st % 4 * 2 ^ 62 + d.hcore % 64 * 2 ^ 56 + d.gen.toNat * 2 ^ 48 +
    d.first % 1024 * 2 ^ 38 + d.ngm1 % 1024 * 2 ^ 28), d.mask)

/-- R72: descriptor `i` of a core's table, as its two words. -/
def Core.descWords (k : Core) (i : Nat) : W64 × W64 := (mrd {} k.own.desc i).words

/-- The domain of the resident task (R41). -/
def Core.domain (k : Core) : Nat := match k.task with | some t => t.domain | none => 255

/-! ### Cores that exist (R22, R27, R401) -/

/-- R27: bit g of PROTMODE.ACTIVE puts grove g in lockstep; its odd cores have no number of their own. -/
def State.lockstep (s : State) (g : Fin 8) : Bool := s.hk.protActive.getLsbD g.val

/-- R405: a pair is quarantined while either of its cores is. -/
def State.quarantined (s : State) (c : CoreId) : Bool :=
  (s.core c).mode.quarantined || (s.lockstep (groveOf c) && c.val % 2 = 0 && (s.core (coreId (c.val + 1))).mode.quarantined)

/-- R31, R401: parked, odd lockstep and quarantined cores are absent; that a core offline after a double fault is absent as well is DEDUCED (log 78). -/
def State.absent (s : State) (c : CoreId) : Bool :=
  Config.parkedIn s.hk.envelope c.val || (s.lockstep (groveOf c) && c.val % 2 = 1) || s.quarantined c || (s.core c).mode.offline

/-- The core that runs the task of a core: in a lockstep pair the even one (R27, R403). -/
def State.pairCore (s : State) (c : CoreId) : CoreId := if s.lockstep (groveOf c) && c.val % 2 = 1 then coreId (c.val - 1) else c

/-- Whether a core has a resident task, its pair's included (R18, R413). -/
def State.occupied (s : State) (c : CoreId) : Bool := (s.core (s.pairCore c)).task.isSome

/-! ### Time (R213, R217, R260) -/

/-- What a port holds when a result lands on it: the bits of `keep`, and with them the old tag, stay (R272). -/
def Inflight.landed (f : Inflight) (old : Val) : Val :=
  if f.keep = 0 then f.val
  else .r ⟨(old.row.data &&& f.keep) ||| (f.val.row.data &&& ~~~f.keep), old.row.tag ||| f.val.row.tag⟩

/-- Land every result whose bound has passed, in trigger order; a landing discards the earlier results of its port (R213, R246). -/
def Transport.landDue (t : Transport) : Transport :=
  t.inflight.foldl (fun t f =>
    if f.wait = 0 then
      let v := f.landed (mrd (.w 0) t.ports f.port)
      { t with
        ports := mwr (.w 0) t.ports f.port v
        portLog := (f.port, v) :: t.portLog
        inflight := t.inflight.filter fun g => g.port ≠ f.port }
    else { t with inflight := t.inflight ++ [f] }) { t with inflight := [] }

/-- One cycle of the transport machinery: the bounds, what they now land, and the `sf` spacing. -/
def Transport.tick (t : Transport) : Transport :=
  Transport.landDue { t with
    inflight := t.inflight.map fun f => { f with wait := f.wait - 1, dwait := f.dwait - 1 }
    sfWait := t.sfWait - 1 }

def Core.landDue (k : Core) : Core := { k with tr := k.tr.landDue }

/-- Cycles of the transport machinery. -/
def Transport.ticks (t : Transport) : Nat → Transport
  | 0 => t
  | n + 1 => t.tick.ticks n

/-- Every result under way lands, each in its own cycle (R272, R409). -/
def Core.landAll (k : Core) : Core :=
  { k with tr := k.tr.landDue.ticks (k.tr.inflight.foldl (fun n f => max n f.wait) 0) }

/-- One core cycle: `CYC`, the results under way, and the budget of a running task (R388); rows that core and engine wrote before it are
no longer met as they were (R62). -/
def Core.tick (k : Core) : Core :=
  { k with
    ctrl.cyc := k.ctrl.cyc + 1
    tr := k.tr.tick
    loc.fresh := []
    eng.cim.fresh := []
    task := k.task.map fun t => { t with used := t.used + 1, grace := t.grace - 1 } }

def Core.ticks (k : Core) : Nat → Core
  | 0 => k
  | n + 1 => (k.tick).ticks n

/-- A fixed-latency result under way to a port, with its bound in each profile (R214). -/
def Core.fly (k : Core) (port boundA boundB : Nat) (v : Val) (keep : Row) : Core :=
  let b := fun prof => if prof then boundB else boundA
  let declared := match k.task with | some t => t.profB | none => k.ctrl.latprof
  { k with tr.inflight := k.tr.inflight ++ [⟨port, b k.ctrl.latprof, b declared, v, keep⟩] }

/-! ### Rollback (R393) -/

/-- What a latch, port or tile row holds after a rollback (R205): the checkpoint value or one written since, by a free choice. -/
def chooseMap {β : Type} [DecidableEq β] (d : β) (ctr : Nat) (ck : SMap β) (log : List (Nat × β)) : SMap β :=
  ((log.map Prod.fst).eraseDups).foldl (fun m c =>
    let opts := mrd d ck c :: (log.filter (·.1 = c)).map Prod.snd
    mwr d m c (opts.getD (pickOf ctr c opts.length) d)) ck

/-- R60: written rows return to their snapshot values, and every written flag is cleared. DESIGN CHOICE (log 65): a row outside the
window of the snapshot, which a handler reached by writing `AWB`, has no duplicate and stays as committed. -/
def Core.restoreRows (k : Core) : Core :=
  let k := k.snap.rows.foldl (fun k (rv : Nat × RowT) => if k.loc.written.contains rv.1 then k.setRow rv.1 rv.2 else k) k
  { k with loc.written := [], loc.vw := [] }

/-- R128, R155: the pour pointer goes back by the pours of the open interval. -/
def Carafe.unpour (f : Carafe) : Carafe :=
  { f with p := (f.p + f.n - f.spec % (f.n + 1)) % (if f.n = 0 then 1 else f.n), nfill := f.nfill + f.spec, nheld := f.nheld - f.spec, spec := 0 }

/-- R393. Results still owed by performed signals reach no port after it (R215, R205). -/
def Core.rollback (k : Core) (ctr : Nat) : Core :=
  let k := k.restoreRows
  let owed := k.ms.comm.map Comm.id
  { k with
    regs := k.snap.regs
    pc := k.snap.resume
    tr := { k.tr with
      latches := chooseMap (.w 0) ctr k.tr.latchesCk k.tr.latchLog
      ports := chooseMap (.w 0) ctr k.tr.portsCk k.tr.portLog
      tiles := chooseMap RowT.zero (ctr + 1) k.tr.tilesCk k.tr.tileLog
      inflight := [] }
    ms := { k.ms with
      wh := []
      walks := []
      pend := (k.ms.pend.filter fun p => owed.contains p.id).map fun p => { p with dead := true }
      releasing := k.ms.releasing.filter Release.committed }
    eng := { k.eng with
      yqSpec := 0
      nm := k.eng.nm.map fun n => { n with spec := 0 }
      carafes := k.eng.carafes.map Carafe.unpour } }

/-- R13: the snapshot, which also opens a new interval. DESIGN CHOICE (log 66): copying a row into the duplicate set is no row read, so
an uncorrectable row is copied with tag bits 2 and 0 set and leaves no record. -/
def Core.takeSnapshot (k : Core) (resume : W64) : Core :=
  { k with
    snap := ⟨k.regs, (List.range 64).map fun i => (k.vRow (BitVec.ofNat 6 i), k.rowAt (k.vRow (BitVec.ofNat 6 i))), resume⟩
    loc.written := []
    tr := { k.tr with
      latchesCk := k.tr.latches, portsCk := k.tr.ports, tilesCk := k.tr.tiles, latchLog := [], portLog := [], tileLog := [] } }

/-! ### Taking a trap (R10, R394 to R399) -/

def Trap.cause (t : Trap) : W64 :=
  BitVec.ofNat 64 ((if t.eng then 2 ^ 17 else 0) + (if t.isDef then 2 ^ 16 else 0) + t.detail.toNat * 256 + t.code.toNat)

/-- R394: a trap entry writes the five state registers together. -/
def TrapRegs.record (r : TrapRegs) (t : Trap) : TrapRegs :=
  { r with tcause := t.cause, taddr := t.addr, tbpc := t.pc &&& 0xFFFFFFFFFFFFE0, tmpc := t.mpc, tslot := t.slot.setWidth 64 }

/-- R395: causes taken by a kill, without a handler. -/
def Trap.kills (t : Trap) : Bool := t.code = 0x02 || t.code = 0x30

/-- R395: causes delivered to the debug interface. -/
def Trap.debugs (t : Trap) : Bool := t.code = 0x21 || t.code = 0x22

/-- R398: a trap of the handler's first bundle, or of the bundle with its first access to the handler stack area. -/
def Core.doubles (k : Core) (seq : Nat) : Bool := k.mode.handler && (seq = k.mode.entrySeq || k.mode.stackSeq = some seq)

/-- A trap of core c whose bundle has place `seq` in issue order: the one shared operation. The core rolls back (R393), the trap
registers are written (R394), and then, by cause and mode, a nested trap or double fault ends the task (R398), the task is killed, the
debug interface stops the core, or handler mode is entered at `TVEC` (R398). -/
def State.takeTrap (s : State) (c : CoreId) (seq : Nat) (t : Trap) : State :=
  let k := s.core c
  let first := k.traps
  let r := k.rollback s.freeCtr
  let s := { s with freeCtr := s.freeCtr + 2 }
  if k.doubles seq then
    let d := { t with code := 0x31, detail := t.code }
    let synd := BitVec.ofNat 64 ((bits first.tcause 8 8) * 2 ^ 24 + t.detail.toNat * 2 ^ 16 + (bits first.tcause 0 8) * 256 + t.code.toNat)
    (s.setCore c { r with traps := first.record d, mode.offline := true, ending := some .killed }).addRec
      { event := 0x0B, sev := 3, cause := 0x31, detail := t.code, addr := t.pc &&& 0xFFFFFFFFFFFFE0, synd := synd, unit := 6,
        core := some c.val, domain := k.domain }
  else if t.kills || k.mode.handler then
    s.setCore c { r with traps := first.record t, ending := some .killed }
  else if t.debugs then
    s.setCore c { r with traps := first.record t, mode.stopped := true }
  else
    s.setCore c { r with
      traps := first.record t
      pc := first.tvec
      seq := k.seq + 1
      mode.handler := true
      mode.openSeq := k.seq + 1
      mode.entrySeq := k.seq + 1
      mode.stackSeq := none }

/-- R399: `eret` discards what the open interval withheld, restores the state of the snapshot and leaves handler mode. -/
def Core.eret (k : Core) (ctr : Nat) : Core := { k.rollback ctr with mode.handler := false, mode.openSeq := k.seq }

/-- A trap raised by a trigger of the bundle in progress (R10): every effect of the bundle is cancelled first; scratch words that its loads
repaired stay repaired (R55). -/
def State.raise (s : State) (code detail : Byte) (addr : W64 := 0) : State :=
  let c := s.ctx.core
  let t : Trap := { code := code, detail := detail, addr := addr, pc := s.ctx.addr, slot := BitVec.ofNat 4 s.cur.slot }
  let now := s.core c
  let back := { (s.saved.getD now) with mode.stackSeq := now.mode.stackSeq, loc.ceWords := now.loc.ceWords }
  { (s.setCore c back.tick) with todo := [], saved := none, ctx := {} }.takeTrap c now.seq t

/-- `ILLEGAL` with a detail of R212. -/
def State.illegal (s : State) (detail : Byte) : State := s.raise 0x01 detail

/-- A report to be taken at a later bundle boundary (R396), with DEF set. -/
def Core.report (k : Core) (o : Origin) (code detail : Byte) (addr : W64) : Core :=
  { k with reports := k.reports ++
      [⟨{ code := code, detail := detail, isDef := true, addr := addr, pc := o.pc, slot := BitVec.ofNat 4 o.slot }, o.seq⟩] }

/-! ### Error records (R407) -/

/-- A record of a core's own unit. -/
def coreRec (c : CoreId) (event sev unit : Nat) (addr synd : W64) (domain : Nat) : ErrRec :=
  { event := event, sev := sev, unit := unit, addr := addr, synd := synd, core := some c.val, domain := domain }

end Sys2Proof.Machine
end

