-- ==== Sys2Proof/Machine/Flags.lean ====
section
/-! DEFINITION. Flags: the machine has no condition flags (R244); its flag computations are those of the row poison tag (spec R198
to R201). -/

namespace Sys2Proof.Machine

open Sys2Proof

/-- R198: `Inherit(t)` is t, with bit 5 also set when t[0] is 1. -/
def inherit (t : Byte) : Byte := if t.getLsbD 0 then t ||| 0x20 else t

/-- R198: events that set bit 1, 2, 3 or 4 also set bit 0; bits [7:6] are zero. -/
def events (t : Byte) : Byte := (if t &&& 0x1E = 0 then t else t ||| 1) &&& 0x3F

/-- The OR of `Inherit` of several tags (R199). -/
def inheritAll (l : List Byte) : Byte := l.foldl (fun a t => a ||| inherit t) 0

/-- R199: the tag of a destination row from its row sources and the operation's events. -/
def tagOf (sources : List Byte) (ev : Byte) : Byte := (inheritAll sources ||| events ev) &&& 0x3F

/-- The tag of a row loaded from memory that was marked or uncorrectable (R55, R98): bits 2 and 0. -/
def memTag (bad : Bool) : Byte := if bad then 5 else 0

/-- Bits of the events of R198. -/
def evNan : Byte := 0x02
def evMem : Byte := 0x04
def evOvf : Byte := 0x08
def evCk : Byte := 0x10

end Sys2Proof.Machine
end

