-- ==== Sys2Proof/Machine/Operands.lean ====
section
/-! DEFINITION. Operands: every source and operand form of a bundle: guards (spec R208), sources (R203, R210), wait and produce
latches (R232), the shape of a trigger (R202, R201), and the latency classes (R214). -/

namespace Sys2Proof.Machine

open Sys2Proof

/-- R208: bit 7 of a binding inverts the predicate of bits [6:0]. -/
def guardVal (r : Regs) (b : BitVec 8) : Bool :=
  let n := (b.extractLsb' 0 7).toNat
  Bool.xor (if h : n < 96 then r.getP ⟨n, h⟩ else false) (b.getLsbD 7)

/-- R209: guard select 0 is always true, 1 to 3 name a binding of the header. -/
def guardOf (h : Header) (r : Regs) (gs : BitVec 2) : Bool :=
  if gs = 0 then true else guardVal r (if gs = 1 then h.g1 else if gs = 2 then h.g2 else h.g3)

def Src.isCaught : Src → Bool
  | .port .yqPop => true
  | .port (.nmPop _) => true
  | .port .aqSt => true
  | .port (.nmSt _) => true
  | _ => false

/-- R203, R210: the value a source delivers to the slot of a bundle at an address. Pops and sampled status ports deliver what the
bundle caught for the slot (R230, R231), and so does a `v` register whose row the CIM engine wrote in this cycle (R62). -/
def readSrc (k : Core) (x : Ctx) (slot : Nat) : Src → Val
  | .x i => .w (k.regs.getX i)
  | .p i => .w (if k.regs.getP i then 1 else 0)
  | .tok t => .w ((k.token t.toNat).setWidth 64)
  | .v i => (x.caught.lookup slot).getD (.r (k.vAt (k.vRow i)))
  | .port q => if Src.isCaught (.port q) then (x.caught.lookup slot).getD (.w 0) else k.port q.code
  | .limmS => .w (x.hdr.limm.signExtend 64)
  | .limmZ => .w (x.hdr.limm.setWidth 64)
  | .limmHi => .w (x.hdr.limm.setWidth 64 <<< 32)
  | .limmPc => .w (x.addr + x.hdr.limm.signExtend 64)
  | .imm b => .w (b.signExtend 64)

/-- The core whose bundle is in progress. -/
def State.me (s : State) : Core := s.core s.ctx.core

/-- Change the core whose bundle is in progress. -/
def State.modMe (s : State) (f : Core → Core) : State := s.modCore s.ctx.core f

/-- Whether the guard of a move is true. -/
def State.live (s : State) (m : Mv) : Bool := guardOf s.ctx.hdr s.me.regs m.gs

/-- The value the trigger's move delivers. -/
def State.srcVal (s : State) (m : Mv) : Val := readSrc s.me s.ctx s.cur.slot m.src

/-- A trigger with a 64-bit port: nothing under a false guard; a poisoned row raises `POISON` with SRC 0 (R201, R400); otherwise
the operation on B. -/
def State.trig (s : State) (m : Mv) (f : W64 → State) : Out :=
  if s.live m then
    if (s.srcVal m).poisoned then .next (s.raise 0x03 0) else .next (f (s.srcVal m).word)
  else .next s

/-- A trigger with a row-wide port: a poisoned row is passed on with its tag (R201). -/
def State.trigR (s : State) (m : Mv) (f : RowT → State) : Out :=
  if s.live m then .next (f (s.srcVal m).row) else .next s

/-- A row-wide trigger whose row is a scalar consumption when poisoned, with its SRC of R400. -/
def State.trigRS (s : State) (src : Byte) (m : Mv) (f : RowT → State) : Out :=
  s.trigR m fun r => if r.tag.getLsbD 0 then s.raise 0x03 src else f r

/-- A result under way to a port of the core in progress, its bound the same in both profiles. -/
def State.fly (s : State) (port bound : Nat) (v : Val) : State := s.modMe fun k => k.fly port bound bound v 0

/-! ### The engine latches (R232) -/

/-- The entries of a wait latch: `none` where a reserved bit is set, else the tokens of its valid entries. -/
def waitTokens (w : W64) : Option (List Nat) :=
  if w.toNat ≥ 2 ^ 24 || [0, 8, 16].any (fun o => bits w (o + 5) 2 ≠ 0) then none
  else some (([0, 8, 16].filter fun o => bits w (o + 7) 1 = 1).map fun o => bits w o 5)

/-- The token of a produce latch: `none` where a reserved bit is set. -/
def produceToken (w : W64) : Option Nat := if w.toNat < 32 then some w.toNat else none

/-- R232, R402: an engine trigger's latches are legal: no reserved bit, no wait on its own token, its token not pending and not
produced by a lower slot of the bundle. -/
def engineLatchesOk (k : Core) (x : Ctx) (useW : Bool) (w kk : W64) : Bool :=
  match waitTokens (if useW then w else 0), produceToken kk with
  | some ws, some t => !ws.contains t && k.token t ≠ 1 && !x.produced.contains t
  | _, _ => false

/-! ### What a trigger leaves for the end of the bundle -/

/-- The origin of an effect of the slot in progress. -/
def State.origin (s : State) : Origin := ⟨s.ctx.addr, s.cur.slot, s.me.seq⟩

/-- A fresh identifier of the core in progress. -/
def State.freshId (s : State) : Nat := s.me.ms.ids

def State.bumpId (s : State) : State := s.modMe fun k => { k with ms.ids := k.ms.ids + 1 }

/-- An effect of a checkpoint bundle that cannot be withheld (R219). -/
def State.eff (s : State) (place : Place) (ea : W64) (e : CEffKind) : State :=
  let s' := s.bumpId
  { s' with ctx := { s'.ctx with effs := s'.ctx.effs ++ [⟨s.freshId, s.origin, place, ea, e⟩] } }

/-- A signal (R113); `tok` is the token its engine produces, `none` where it has none. -/
def State.signal (s : State) (tok : Option Nat) (g : Signal) : State :=
  let s := s.eff .va 0 (.signal g)
  { s with ctx := { s.ctx with produced := s.ctx.produced ++ tok.toList } }

/-- A withheld effect (R14). -/
def State.withhold (s : State) (place : Place) (ea : W64) (e : WhKind) : State :=
  let o := s.origin
  s.bumpId.modMe fun k => { k with ms.wh := k.ms.wh ++ [⟨s.freshId, o, place, ea, e⟩] }

/-- A variable-latency result promised to a port (R215); earlier results of the port no longer reach it. -/
def State.promise (s : State) (p : Pend) : State :=
  s.modMe fun k => { k with ms.pend :=
    (k.ms.pend.map fun q => if q.port = p.port then { q with dead := true } else q) ++ [p] }

/-- A result of a variable-latency port that a read in any later bundle finds valid. -/
def State.soon (s : State) (port : Nat) (v : W64) : State := s.fly port 1 (.w v)

end Sys2Proof.Machine
end

