-- ==== Sys2Proof/Machine/Xts.lean ====
section
/-! DEFINITION. Xts: the encryption of the HBM4E controllers (spec R99): AES-256 in XTS mode, one 64-byte data unit per block, the tweak
PA[51:6]. AES is FIPS 197's, XTS is IEEE 1619's (PRESUMED, log 61). -/

namespace Sys2Proof.Machine

open Sys2Proof

/-! ### The field of 256 elements -/

def gfDouble (a : Nat) : Nat := if a ≥ 128 then 2 * a ^^^ 0x11B else 2 * a

/-- The product of a and the low n bits of b. -/
def gfMulBits : Nat → Nat → Nat → Nat
  | 0, _, _ => 0
  | n + 1, a, b => (if b % 2 = 1 then a else 0) ^^^ gfMulBits n (gfDouble a) (b / 2)

def gfMul (a b : Nat) : Nat := gfMulBits 8 a b

/-- The inverse: the power 254; zero stays zero. -/
def gfInv (a : Nat) : Nat := (List.range 253).foldl (fun x _ => gfMul x a) a

def rotl8 (n a : Nat) : Nat := a * 2 ^ n % 256 + a * 2 ^ n / 256

def subByte (a : Nat) : Nat :=
  let b := gfInv a
  b ^^^ rotl8 1 b ^^^ rotl8 2 b ^^^ rotl8 3 b ^^^ rotl8 4 b ^^^ 0x63

def invSubByte (a : Nat) : Nat := gfInv (rotl8 1 a ^^^ rotl8 3 a ^^^ rotl8 6 a ^^^ 0x05)

/-! ### AES-256 on blocks of 16 bytes, column by column -/

def xorBytes (a b : List Nat) : List Nat := (a.zip b).map fun p => p.1 ^^^ p.2

/-- The 60 words of the key schedule of a 32-byte key. -/
def aesSchedule (key : List Nat) : List (List Nat) :=
  (List.range 52).foldl (fun (w : List (List Nat)) j =>
    let i := j + 8
    let t := w.getD (i - 1) []
    let t := if i % 8 = 0 then
        xorBytes ((t.tail ++ t.take 1).map subByte) [(List.range (i / 8 - 1)).foldl (fun c _ => gfDouble c) 1, 0, 0, 0]
      else if i % 8 = 4 then t.map subByte else t
    w ++ [xorBytes (w.getD j []) t]) ((List.range 8).map fun i => (key.drop (4 * i)).take 4)

def roundKey (w : List (List Nat)) (r : Nat) : List Nat := ((w.drop (4 * r)).take 4).flatten

/-- Byte r of column c comes from column c + r, or from c - r. -/
def shiftRows (b : List Nat) : List Nat := (List.range 16).map fun i => b.getD ((i + 4 * (i % 4)) % 16) 0
def invShiftRows (b : List Nat) : List Nat := (List.range 16).map fun i => b.getD ((i + 16 - 4 * (i % 4)) % 16) 0

/-- Every column times the circulant matrix whose first row is given. -/
def mixColumns (row b : List Nat) : List Nat :=
  (List.range 16).map fun i =>
    (List.range 4).foldl (fun x j => x ^^^ gfMul (row.getD ((j + 4 - i % 4) % 4) 0) (b.getD (i / 4 * 4 + j) 0)) 0

def aesEncrypt (key b : List Nat) : List Nat :=
  let w := aesSchedule key
  let b := (List.range 13).foldl (fun b r => xorBytes (mixColumns [2, 3, 1, 1] (shiftRows (b.map subByte))) (roundKey w (r + 1)))
    (xorBytes b (roundKey w 0))
  xorBytes (shiftRows (b.map subByte)) (roundKey w 14)

def aesDecrypt (key b : List Nat) : List Nat :=
  let w := aesSchedule key
  let b := (List.range 13).foldl (fun b r => mixColumns [14, 11, 13, 9] (xorBytes ((invShiftRows b).map invSubByte) (roundKey w (13 - r))))
    (xorBytes b (roundKey w 14))
  xorBytes ((invShiftRows b).map invSubByte) (roundKey w 0)

/-! ### XTS -/

/-- The tweak of the next 16 bytes. -/
def tweakDouble (t : Nat) : Nat := if t ≥ 2 ^ 127 then (2 * t) % 2 ^ 128 ^^^ 0x87 else 2 * t

def natBytes (n v : Nat) : List Nat := (leBytes n v).map BitVec.toNat

/-- A 64-byte data unit encrypted or, with `dec`, decrypted: the data key is the low 32 bytes of `keys`, the tweak key the high ones. -/
def xtsUnit (dec : Bool) (keys unit : Nat) (data : List Byte) : List Byte :=
  let k := natBytes 64 keys
  let k1 := k.take 32
  let t0 := leNat ((aesEncrypt (k.drop 32) (natBytes 16 unit)).map (BitVec.ofNat 8))
  (List.range 4).flatMap fun i =>
    let t := natBytes 16 ((List.range i).foldl (fun t _ => tweakDouble t) t0)
    let x := xorBytes (((data.drop (16 * i)).take 16).map BitVec.toNat) t
    (xorBytes (if dec then aesDecrypt k1 x else aesEncrypt k1 x) t).map (BitVec.ofNat 8)

/-- R99: what a block reads as under one key when it was written under another. A key is 0 for plaintext, else an identifier plus 256
times one more than its 64 bytes. -/
def crossKey (wrote reads unit : Nat) (data : List Byte) : List Byte :=
  let stored := if wrote = 0 then data else xtsUnit false (wrote / 256 - 1) unit data
  if reads = 0 then stored else xtsUnit true (reads / 256 - 1) unit stored

end Sys2Proof.Machine
end

