-- ==== Sys2Proof/Machine/Canopy.lean ====
section
/-! DEFINITION. Canopy, Glades and main memory (spec R80 to R103): sets and ways, the pseudo-LRU victim, keys, poison markers,
integrity tags, and reads and writes of the homes at their points of performance (R104). -/

namespace Sys2Proof.Machine

open Sys2Proof

/-- Bits [lo + n - 1:lo] of a natural number. -/
def nb (v lo n : Nat) : Nat := (v >>> lo) % 2 ^ n

/-- R81: the slice and the set of a line number A = PA[51:7]. -/
def sliceOf (a : Nat) : Nat :=
  [5, 10, 15, 20, 25, 30, 35, 40].foldl (fun x o => x ^^^ nb a o 5) (nb a 0 5)

def setOf (a : Nat) : Nat := sliceOf a * 32768 + (nb a 5 15 ^^^ nb a 20 15 ^^^ nb a 35 10)

/-- The byte of a trap Glade at reset (R397): the base handler at the start of its page, zero elsewhere (log 7). -/
def trapGladeByte (pa : Nat) : Byte := baseHandler.getD (pa % 65536) 0

/-- What a set holds until something changes it: a pinned trap Glade line where R93 places one, else sixteen invalid ways. -/
def setDefault (n : Nat) : CSet :=
  let s := n / 32768
  let t := n % 32768
  let inv : List Way := List.replicate 16 .invalid
  if t / 1024 = 31 then
    let mid := (t % 1024) ^^^ 0xF
    let lo := s ^^^ nb mid 0 5 ^^^ nb mid 5 5 ^^^ 0x10
    let a := 0xFF8000 + mid * 32 + lo
    let d := leNat ((List.range 128).map fun i => trapGladeByte (a * 128 + i))
    ⟨.held ⟨14, a, 0, 0, false, BitVec.ofNat 1024 d, 0, 0, false⟩ :: inv.tail, 0⟩
  else ⟨inv, 0⟩

def Mem.set (m : Mem) (n : Nat) : CSet := mrd (setDefault n) m.canopy n
def Mem.putSet (m : Mem) (n : Nat) (v : CSet) : Mem := { m with canopy := mwr (setDefault n) m.canopy n v }
def Mem.block (m : Mem) (b : Nat) : Block := mrd {} m.blocks b
def Mem.putBlock (m : Mem) (b : Nat) (v : Block) : Mem := { m with blocks := mwr {} m.blocks b v }

/-- R82: a way is pinned when it holds a Glade line. -/
def Way.pinned : Way → Bool
  | .held l => l.home = 14
  | _ => false

def Way.evictable : Way → Bool
  | .held l => l.home ≠ 14
  | _ => false

/-- The way of a set that holds a line of a home. -/
def CSet.find (c : CSet) (home a : Nat) : Option Nat :=
  c.ways.findIdx? fun w => match w with | .held l => l.home = home && l.line = a | _ => false

/-- R83: a hit or fill of way w turns the nodes on its path away from it. -/
def CSet.touch (c : CSet) (w : Nat) : CSet :=
  let n1 := 1 + w / 8
  let n2 := 3 + w / 4
  let n3 := 7 + w / 2
  let set := fun (b : BitVec 15) (i : Nat) (v : Bool) => if v then b ||| BitVec.ofNat 15 (2 ^ i) else b &&& ~~~(BitVec.ofNat 15 (2 ^ i))
  { c with plru := set (set (set (set c.plru 0 (w / 8 = 0)) n1 (w / 4 % 2 = 0)) n2 (w / 2 % 2 = 0)) n3 (w % 2 = 0) }

/-- R83: the descent of the tree over ways lo to lo + 2^d - 1, from node i. -/
def CSet.descend (c : CSet) : Nat → Nat → Nat → Option Nat
  | 0, _, lo => if (c.ways.getD lo .retired).evictable then some lo else none
  | d + 1, i, lo =>
    let l := c.descend d (2 * i + 1) lo
    let r := c.descend d (2 * i + 2) (lo + 2 ^ d)
    if c.plru.getLsbD i then r.or l else l.or r

/-- R83: the lowest invalid way, else the way the tree leads to. -/
def CSet.victim (c : CSet) : Option Nat :=
  match c.ways.findIdx? (· = Way.invalid) with
  | some w => some w
  | none => c.descend 4 0 0

/-! ### HBM4E blocks (R97 to R100) -/

/-- A record of the stack controller or of Canopy. -/
def memRec (event sev unit : Nat) (home pa : Nat) (synd : W64) : ErrRec :=
  { event := event, sev := sev, unit := unit, addr := BitVec.ofNat 64 (home * 2 ^ 52 + pa), synd := synd }

/-- The key-table entry that an identifier names, told apart from every other material it has named (R99, R416); 0 for plaintext. An access
translated before `KEYUNLD` that is performed after it finds an entry of zeros: DESIGN CHOICE (log 84). -/
def Mem.fullKey (m : Mem) (id : Nat) : Nat := if id = 0 then 0 else id + 256 * mrd 0 m.keys id

/-- R39 step 5: whether a leaf's KEY has its key loaded. -/
def Mem.keyLoaded (m : Mem) (id : Nat) : Bool := id = 0 || mrd 0 m.keys id ≠ 0

/-- A 64-byte block of home 0 as the controller delivers it: data, whether it is poisoned or uncorrectable, and records. A bank-group node
rewrites a block that it corrects with zero tag bytes and no mark (R169). A block that nothing was written to since bring-up passes every check:
DEDUCED (log 83). -/
def Mem.loadBlock (m : Mem) (b key cls : Nat) : List Byte × Bool × Mem × List ErrRec :=
  let meta_ := m.block b
  let key := m.fullKey key
  let raw := rdBytes m.hbm (b * 64) 64
  let data := if meta_.key = key || !meta_.written then raw
    else crossKey meta_.key key b raw
  let fixed := if !meta_.ce then m
    else if cls = 3 then m.putBlock b { meta_ with ce := false, integ := none, encoded := false }
    else m.putBlock b { meta_ with ce := false }
  let r1 := if meta_.ce then [memRec 0x01 1 8 0 (b * 64) (Config.syndrome 8 b)] else []
  let badInt := cls = 5 && match meta_.integ with
    | some t => t ≠ Config.integrity key b data
    | none => Config.integrity key b data ≠ 0
  if meta_.poison || meta_.ue then (data, true, fixed, r1 ++ [memRec 0x02 2 8 0 (b * 64) (Config.syndrome 8 b)])
  else if badInt && meta_.written then (data, true, fixed, r1 ++ [memRec 0x03 2 8 0 (b * 64) 0])
  else (data, false, fixed, r1)

/-- Write a whole block under a key: its marker, mark and integrity code are formed anew. A poison marker leaves no encoded mark (R148). -/
def Mem.storeBlock (m : Mem) (b key cls : Nat) (data : List Byte) (poison encoded : Bool) : Mem :=
  let key := m.fullKey key
  ({ m with hbm := wrBytes m.hbm (b * 64) data }).putBlock b
    { key := key, poison := poison, encoded := encoded && !poison, written := true, integ := if cls = 5 then some (Config.integrity key b data) else none }

/-- Read a 128-byte line of home 0. -/
def Mem.loadLine (m : Mem) (a key cls : Nat) : CLine × Mem × List ErrRec :=
  let (d0, p0, m, r0) := m.loadBlock (2 * a) key cls
  let (d1, p1, m, r1) := m.loadBlock (2 * a + 1) key cls
  (⟨0, a, key, cls, false, BitVec.ofNat 1024 (leNat (d0 ++ d1)), (if p0 then 1 else 0) ||| (if p1 then 2 else 0), 0,
    (m.block (2 * a)).encoded && !p0⟩, m, r0 ++ r1)

def CLine.bytes (l : CLine) : List Byte := leBytes 128 l.data.toNat

/-- A write-back of a home-0 line under its own key (R83, R85, R98). A block of it with an uncorrectable Canopy error is poisoned (R86). -/
def Mem.writeBack (m : Mem) (l : CLine) : Mem × List ErrRec :=
  if l.dirty then
    let p := l.poison ||| l.ue
    ((m.storeBlock (2 * l.line) l.key l.cls (l.bytes.take 64) (p.getLsbD 0) l.enc).storeBlock (2 * l.line + 1) l.key l.cls
      (l.bytes.drop 64) (p.getLsbD 1) false,
      if l.ue = 0 then [] else [memRec 0x02 2 7 l.home (l.line * 128) (Config.syndrome 7 l.line)])
  else (m, [])

/-- A way written back, where it holds a dirty line. -/
def Mem.cleanWay (m : Mem) (n w : Nat) : Mem × List ErrRec :=
  match (m.set n).ways.getD w .invalid with | .held l => m.writeBack l | _ => (m, [])

/-- The state of a way replaced. -/
def Mem.putWay (m : Mem) (n w : Nat) (x : Way) : Mem := m.putSet n { m.set n with ways := List.set (m.set n).ways w x }

/-- R83: a line put into the victim way of its set, whose line is written back first; `none` where the set has no victim. -/
def Mem.place (m : Mem) (l : CLine) : Option Nat × Mem × List ErrRec :=
  let n := setOf l.line
  match (m.set n).victim with
  | none => (none, m, [])
  | some w =>
    let (m, r) := m.cleanWay n w
    let m := m.putWay n w (.held l)
    (some w, m.putSet n ((m.set n).touch w), r)

/-- R83: a line of home 0 read from memory and placed; without a victim it is not held. -/
def Mem.fill (m : Mem) (a key cls : Nat) : CLine × Option Nat × Mem × List ErrRec :=
  let (l, m, r) := m.loadLine a key cls
  let (w, m, r') := m.place l
  (l, w, m, r ++ r')

/-- R86: an uncorrectable Canopy error: a clean line is invalidated and refetched, a dirty or pinned one has its block poisoned. -/
def Mem.scrubHit (m : Mem) (n w : Nat) (l : CLine) : CLine × Option Nat × Mem × List ErrRec :=
  if l.ue = 0 then (l, some w, m, [])
  else if !l.dirty && l.home = 0 then
    let (l', w', m, r) := (m.putWay n w .invalid).fill l.line l.key l.cls
    (l', w', m, memRec 0x01 1 7 l.home (l.line * 128) (Config.syndrome 7 l.line) :: r)
  else
    let l' := { l with ue := 0, poison := l.poison ||| l.ue }
    (l', some w, m.putWay n w (.held l'), [memRec 0x02 2 7 l.home (l.line * 128) (Config.syndrome 7 l.line)])

/-- R83, R85: bring a line to Canopy. Answers the line, its way where one holds it, and the memory after the fill. A line held under
another key is written back and invalidated first. -/
def Mem.fetch (m : Mem) (home a key cls : Nat) : CLine × Option Nat × Mem × List ErrRec :=
  let n := setOf a
  let hit := (m.set n).find home a
  let old := hit.bind fun w => match (m.set n).ways.getD w .invalid with | .held l => some (w, l) | _ => none
  match old with
  | some (w, l) =>
    if home = 14 || l.key = key then
      let m := m.putSet n ((m.set n).touch w)
      m.scrubHit n w l
    else
      let (m, r) := m.writeBack l
      let (l', w', m, r') := (m.putWay n w .invalid).fill a key cls
      (l', w', m, r ++ r')
  | none => m.fill a key cls

/-- A whole line of home 0 written: nothing of it is fetched (R101). A line held under another key is written back and invalidated first
(R85); where the set has no victim the line goes to memory. -/
def Mem.putLine (m : Mem) (l : CLine) : Mem × List ErrRec :=
  let n := setOf l.line
  let held := ((m.set n).find 0 l.line).bind fun w => match (m.set n).ways.getD w .invalid with | .held x => some (w, x) | _ => none
  let new := fun (m : Mem) (r : List ErrRec) => match m.place l with
    | (some _, m, r') => (m, r ++ r')
    | (none, m, r') => let (m, r'') := m.writeBack l; (m, r ++ r' ++ r'')
  match held with
  | some (w, x) =>
    if x.key = l.key then (let m := m.putWay n w (.held l); m.putSet n ((m.set n).touch w), [])
    else let (m, r) := m.writeBack x; new (m.putWay n w .invalid) r
  | none => new m []

/-- Whether a Glade line is allocated (R39 step 8, R89). -/
def Mem.gladeLine (m : Mem) (a : Nat) : Bool := ((m.set (setOf a)).find 14 a).isSome

/-! ### Reads and writes at a home -/

/-- Address and length of the pieces of an access that lie in one unit of `size` bytes each. -/
def pieces (size : Nat) : Nat → Nat → Nat → List (Nat × Nat)
  | 0, _, _ => []
  | fuel + 1, a, n =>
    if n = 0 then [] else
      let l := min n (size - a % size)
      (a, l) :: pieces size fuel (a + l) (n - l)

/-- What a read delivers: bytes, whether any of its blocks was poisoned or uncorrectable, the memory after it, and records. -/
structure MemRead where
  bytes : List Byte
  bad : Bool
  mem : Mem
  recs : List ErrRec

/-- Bits of a line's poison mark that a piece of it touches. -/
def touchesBad (poison : BitVec 2) (a l : Nat) : Bool :=
  (poison.getLsbD 0 && a % 128 < 64) || (poison.getLsbD 1 && a % 128 + l > 64)

/-- The key under which memory outside the device is held: its home and address (R34). -/
def extKey (home pa : Nat) : Nat := home * 2 ^ 52 + pa

/-- Whether a 64-byte block outside the device that a piece touches carries a poison marker (R98, R200). -/
def Mem.extTouched (m : Mem) (home a l : Nat) : Bool :=
  (pieces 64 (l + 1) a l).any fun p => mrd false m.extBad (extKey home (p.1 / 64 * 64))

/-- Read a piece that lies in one line, at its home (R84, R104): class 3 at the controller, home 0 and 14 through Canopy. -/
def Mem.readPiece (m : Mem) (home key cls a l : Nat) : MemRead :=
  if home = 0 && cls = 3 then
    (pieces 64 3 a l).foldl (fun (acc : MemRead) p =>
      let (d, bad, m, r) := acc.mem.loadBlock (p.1 / 64) key cls
      ⟨acc.bytes ++ (d.drop (p.1 % 64)).take p.2, acc.bad || bad, m, acc.recs ++ r⟩) ⟨[], false, m, []⟩
  else if home = 14 && !m.gladeLine (a / 128) then ⟨List.replicate l 0, false, m, []⟩
  else if home = 0 || home = 14 then
    let (ln, _, m, r) := m.fetch home (a / 128) key cls
    ⟨(ln.bytes.drop (a % 128)).take l, touchesBad ln.poison a l, m, r⟩
  else ⟨rdBytes m.ext (extKey home a) l, m.extTouched home a l, m, []⟩

/-- R98: the poison mark of a block after a store of `l` bytes at `a`: set by poisoned data (R200), cleared by a whole block of
unpoisoned data, else kept. -/
def storePoison (old : Bool) (poison : Bool) (a l blk : Nat) : Bool :=
  if poison then true else if a ≤ blk * 64 && blk * 64 + 64 ≤ a + l then false else old

/-- Bytes of a line with those of a piece replaced. -/
def patch (line : List Byte) (o : Nat) (bs : List Byte) : List Byte := line.take o ++ bs ++ line.drop (o + bs.length)

/-- The poison markers and encoded marks of memory outside the device after a store (R98, R148, R200). -/
def Mem.extMark (m : Mem) (home cls a l : Nat) (poison : Bool) : Mem :=
  (pieces 64 (l + 1) a l).foldl (fun m p =>
    let x := extKey home (p.1 / 64 * 64)
    let m := if p.1 / 64 % 4 = 0 && (cls ≠ 4 || poison) then { m with extEnc := mwr false m.extEnc x false } else m
    { m with extBad := mwr false m.extBad x (storePoison (mrd false m.extBad x) poison p.1 p.2 (p.1 / 64)) }) m

/-- Write a piece that lies in one line, at its home. -/
def Mem.writePiece (m : Mem) (home key cls a : Nat) (bs : List Byte) (poison : Bool) : Mem × List ErrRec :=
  let l := bs.length
  let ln := a / 128
  let np := fun (old : BitVec 2) =>
    (List.range 2).foldl (fun (p : BitVec 2) i =>
      let touched := a < (2 * ln + i) * 64 + 64 && (2 * ln + i) * 64 < a + l
      let v := if touched then storePoison (old.getLsbD i) poison a l (2 * ln + i) else old.getLsbD i
      p ||| (if v then BitVec.ofNat 2 (2 ^ i) else 0)) 0
  if home = 0 && cls = 3 then
    (pieces 64 3 a l).foldl (fun (acc : Mem × List ErrRec) (p : Nat × Nat) =>
      let (d, bad, m, r) := acc.1.loadBlock (p.1 / 64) key cls
      (m.storeBlock (p.1 / 64) key cls (patch d (p.1 % 64) ((bs.drop (p.1 - a)).take p.2))
        (storePoison bad poison p.1 p.2 (p.1 / 64)) false, acc.2 ++ (if bad then [] else r))) (m, [])
  else if home = 14 && !m.gladeLine ln then (m, [])
  else if home = 0 || home = 14 then
    let (line, w, m, r) := m.fetch home ln key cls
    -- R148: once something other than a class 4 block, or a poison marker, is written to the first block of a slot, it has no encoded mark
    let line' := { line with
      dirty := home = 0
      cls := cls
      data := BitVec.ofNat 1024 (leNat (patch line.bytes (a % 128) bs))
      poison := np line.poison
      enc := line.enc && !(a % 128 < 64 && (cls ≠ 4 || poison)) }
    match w with
    | some w => (m.putWay (setOf ln) w (.held line'), r)
    | none => if home = 0 then let (m, r') := m.writeBack line'; (m, r ++ r') else (m, r)
  else (({ m with ext := wrBytes m.ext (extKey home a) bs }).extMark home cls a l poison, [])

/-- Read `l` bytes of a home from physical address `a`. -/
def Mem.readAt (m : Mem) (home key cls a l : Nat) : MemRead :=
  (pieces 128 (l + 1) a l).foldl (fun acc p =>
    let r := acc.mem.readPiece home key cls p.1 p.2
    ⟨acc.bytes ++ r.bytes, acc.bad || r.bad, r.mem, acc.recs ++ r.recs⟩) ⟨[], false, m, []⟩

/-- Write bytes at a home from physical address `a`. -/
def Mem.writeAt (m : Mem) (home key cls a : Nat) (bs : List Byte) (poison : Bool) : Mem × List ErrRec :=
  (pieces 128 (bs.length + 1) a bs.length).foldl (fun acc p =>
    let r := acc.1.writePiece home key cls p.1 ((bs.drop (p.1 - a)).take p.2) poison
    (r.1, acc.2 ++ r.2)) (m, [])

/-- The physical pieces of a translated access in address order, with the place of each in the access. -/
def segOffsets : List Seg → Nat → List (Seg × Nat)
  | [], _ => []
  | g :: t, o => (g, o) :: segOffsets t (o + g.len)

/-- The segments of bytes o to o + n - 1 of a translated access. -/
def sliceSegs (o n : Nat) : List Seg → List Seg
  | [] => []
  | g :: t =>
    if n = 0 then [] else if o ≥ g.len then sliceSegs (o - g.len) n t
    else
      let l := min n (g.len - o)
      { g with pa := g.pa + o, len := l } :: sliceSegs 0 (n - l) t

end Sys2Proof.Machine
end

