-- ==== Sys2Proof/Machine/Etben.lean ====
section
/-! DEFINITION. Etben blocks (spec R148 to R150), compressed pages (R101, R102), and the read and write of any class at its point
of performance. -/

namespace Sys2Proof.Machine

open Sys2Proof

/-- Little-endian elements of `e` bytes each (R149). -/
def elems (e : Nat) : Nat → List Byte → List Nat
  | 0, _ => []
  | n + 1, bs => leNat (bs.take e) :: elems e n (bs.drop e)

def unelems (e : Nat) (l : List Nat) : List Byte := l.flatMap fun v => leBytes e v

/-- R149: the differences z_i of bit-plane delta, for i from 1. -/
def zDeltas (w : Nat) : List Nat → List Nat
  | a :: b :: t =>
    let d := (b + 2 ^ w - a) % 2 ^ w
    let z := if d < 2 ^ (w - 1) then 2 * d else 2 * (2 ^ w - d) - 1
    z % 2 ^ w :: zDeltas w (b :: t)
  | _ => []

/-- The number of bits of the largest element. -/
def bitLen (v : Nat) : Nat := if v = 0 then 0 else Nat.log2 v + 1

def planesOf (z : List Nat) : Nat := z.foldl (fun m v => max m (bitLen v)) 0

/-- The bit stream of planes 0 to P - 1: bit p of z_i at p × (n - 1) + (i - 1). -/
def planeStream (p : Nat) (z : List Nat) : Nat :=
  (List.range p).foldl (fun acc q => acc + (lanesNat 1 (z.map fun v => nb v q 1)) * 2 ^ (q * z.length)) 0

/-- The z_i back from the stream. -/
def unPlanes (p n stream : Nat) : List Nat :=
  (List.range (n - 1)).map fun i => (List.range p).foldl (fun acc q => acc + nb stream (q * (n - 1) + i) 1 * 2 ^ q) 0

/-- R149: the elements back from u_0 and the z_i. -/
def unDelta (w : Nat) : Nat → List Nat → List Nat
  | u, [] => [u]
  | u, z :: t =>
    let d := if z % 2 = 0 then z / 2 else 2 ^ w - (z + 1) / 2
    u :: unDelta w ((u + d) % 2 ^ w) t

/-- The header of an encoded block (R148). -/
def etbHeader (p ew nsec method : Nat) : Nat := p * 1024 + ew * 256 + (nsec - 1) * 16 + method

/-- R148, R149: the logical block of a slot; `none` where the block is invalid. R148 lists what is invalid, and a zero header with NSECM1 or EW
not 0 is not among it: such a block is a block of zeros, DESIGN CHOICE (log 85). The block has `256 / (E / 8)` elements of E bits: DEDUCED (log 80). -/
def etbDecode (encoded : Bool) (slot : List Byte) : Option (List Byte) :=
  if !encoded then some slot else
    let h := leNat (slot.take 4)
    let p := nb h 10 6
    let ew := nb h 8 2
    let nsec := nb h 4 3 + 1
    let meth := nb h 0 4
    let e := 2 ^ ew
    let n := 256 / e
    let cap := nsec * 32
    if h ≥ 65536 || nb h 7 1 ≠ 0 || ew = 3 || meth = 0 || meth > 3 || nsec = 8 || p > 8 * e || (meth ≠ 2 && p ≠ 0) then none
    else if meth = 1 then some (List.replicate 256 0)
    else if meth = 2 then
      if cap < 8 + (p * (n - 1) + 7) / 8 then none
      else some (unelems e (unDelta (8 * e) (leNat ((slot.drop 4).take 4) % 2 ^ (8 * e)) (unPlanes p n (leNat (slot.drop 8)))))
    else
      let map := leNat ((slot.drop 4).take (n / 8))
      let cnt := ((List.range n).filter fun i => nb map i 1 = 1).length
      if cap < 4 + n / 8 + e * cnt then none
      else
        let vals := elems e cnt (slot.drop (4 + n / 8))
        some (unelems e (((List.range n).foldl (fun (acc : List Nat × List Nat) i =>
          if nb map i 1 = 1 then (acc.1 ++ [acc.2.headD 0], acc.2.tail) else (acc.1 ++ [0], acc.2)) ([], vals)).1))

/-- A candidate of R150: its bytes and its sectors. -/
def etbCandidate (meth ew : Nat) (blk : List Byte) : List Byte × Nat :=
  let e := 2 ^ ew
  let n := 256 / e
  let u := elems e n blk
  let (p, body) :=
    if meth = 3 then
      (0, leBytes (n / 8) (lanesNat 1 (u.map fun v => if v = 0 then 0 else 1)) ++ unelems e (u.filter (· ≠ 0)))
    else
      let z := zDeltas (8 * e) u
      let p := planesOf z
      (p, leBytes 4 (u.headD 0) ++ leBytes ((p * (n - 1) + 7) / 8) (planeStream p z))
  let nsec := (4 + body.length + 31) / 32
  (leBytes 4 (etbHeader p ew nsec meth) ++ body, nsec)

/-- R150: the canonical encoding of a logical block: stored bytes of the slot and whether it is encoded; not encoded is method raw. -/
def etbEncode (blk : List Byte) : List Byte × Bool :=
  if blk.all (· = 0) then (leBytes 4 (etbHeader 0 0 1 1) ++ List.replicate 252 0, true)
  else
    let cands := [etbCandidate 3 0 blk, etbCandidate 3 1 blk, etbCandidate 3 2 blk, etbCandidate 2 0 blk, etbCandidate 2 1 blk,
      etbCandidate 2 2 blk]
    let best := cands.foldl (fun (b : Option (List Byte × Nat)) c =>
      if c.2 ≤ 7 && (match b with | none => true | some d => c.2 < d.2) then some c else b) none
    match best with
    | some c => (c.1 ++ List.replicate (256 - c.1.length) 0, true)
    | none => (blk, false)

/-- Whether a class 4 slot is stored encoded: the mark of its first block, in Canopy where its line is held there (R84), before which a poison
marker takes precedence (R148). A peer keeps the mark of its own slots (R153). -/
def Mem.slotEncoded (m : Mem) (home slot : Nat) : Bool :=
  if home ≠ 0 then mrd false m.extEnc (extKey home (slot * 256))
  else
    let c := m.set (setOf (2 * slot))
    match (c.find 0 (2 * slot)).map fun w => c.ways.getD w .invalid with
    | some (.held l) => l.enc && !l.poison.getLsbD 0
    | _ => (m.block (slot * 4)).encoded && !(m.block (slot * 4)).poison

/-- Bit i of the mask is set where block i of a list of marks is. -/
def markMask (l : List Bool) : BitVec 4 :=
  (List.range 4).foldl (fun (b : BitVec 4) i => if l.getD i false then b ||| BitVec.ofNat 4 (2 ^ i) else b) 0

/-- The stored bytes of a class 4 slot, its mark, and which of its 64-byte blocks are bad. Of an encoded slot only the header and the
sectors that the block uses are fetched (R101); the rest reads as zero. -/
structure SlotRead where
  bytes : List Byte
  encoded : Bool
  bad : BitVec 4
  mem : Mem
  recs : List ErrRec

def Mem.slotBytes (m : Mem) (home key slot : Nat) : SlotRead :=
  let h := m.readAt home key 4 (slot * 256) 4
  let enc := h.mem.slotEncoded home slot
  let used := if !enc || h.bad then 256 else 32 * (nb (leNat h.bytes) 4 3 + 1)
  let r := (pieces 64 5 (slot * 256) used).foldl (fun (acc : SlotRead) p =>
      let x := acc.mem.readAt home key 4 p.1 p.2
      ⟨acc.bytes ++ x.bytes, enc, acc.bad ||| (if x.bad then BitVec.ofNat 4 (2 ^ (p.1 / 64 % 4)) else 0), x.mem, acc.recs ++ x.recs⟩)
    ⟨[], enc, 0, m, []⟩
  { r with bytes := r.bytes ++ List.replicate (256 - used) 0 }

/-- R101, R102: the logical block of a class 4 slot with the 64-byte parts of it that read as uncorrectable: a bad block of a raw slot, all
of an encoded one (R148). -/
def SlotRead.logical (r : SlotRead) : List Byte × BitVec 4 :=
  match etbDecode r.encoded r.bytes with
  | some b => (b, if r.encoded && r.bad ≠ 0 then 15 else r.bad)
  | none => (r.bytes, 15)

/-- Whether a piece of a slot touches a part that a mask names. -/
def partBad (mask : BitVec 4) (o n : Nat) : Bool := (pieces 64 5 o n).any fun p => mask.getLsbD (p.1 / 64)

/-- Write a whole class 4 slot with stored bytes, its mark and the poison markers of its four blocks. -/
def Mem.writeSlot (m : Mem) (home key slot : Nat) (bs : List Byte) (encoded : Bool) (poison : BitVec 4) : Mem × List ErrRec :=
  let e := encoded && !poison.getLsbD 0
  if home = 0 then
    let line := fun (i : Nat) (enc : Bool) => (⟨0, 2 * slot + i, key, 4, true, BitVec.ofNat 1024 (leNat ((bs.drop (128 * i)).take 128)),
      poison.extractLsb' (2 * i) 2, 0, enc⟩ : CLine)
    let (m, r) := m.putLine (line 0 e)
    let (m, r') := m.putLine (line 1 false)
    (m, r ++ r')
  else
    let (m, r) := (pieces 64 5 (slot * 256) bs.length).foldl (fun (acc : Mem × List ErrRec) p =>
      let (m, r) := acc.1.writeAt home key 4 p.1 ((bs.drop (p.1 - slot * 256)).take p.2) (poison.getLsbD (p.1 / 64 % 4))
      (m, acc.2 ++ r)) (m, [])
    ({ m with extEnc := mwr false m.extEnc (extKey home (slot * 256)) e }, r)

/-- Read a translated access at its homes; class 4 delivers logical bytes (R102). -/
def Mem.readSeg (m : Mem) (g : Seg) : MemRead :=
  if g.cls = 4 then
    (pieces 256 (g.len + 1) g.pa g.len).foldl (fun acc p =>
      let r := acc.mem.slotBytes g.home g.key (p.1 / 256)
      let (b, bad) := r.logical
      ⟨acc.bytes ++ (b.drop (p.1 % 256)).take p.2, acc.bad || partBad bad (p.1 % 256) p.2, r.mem, acc.recs ++ r.recs⟩) ⟨[], false, m, []⟩
  else m.readAt g.home g.key g.cls g.pa g.len

/-- The markers of a class 4 slot after a store of n bytes at o of it: a part that was bad stays so unless the store covers it, and
poisoned data marks the parts it touches (R98, R102, R200; log 62). -/
def mergeMarks (old : BitVec 4) (poison : Bool) (o n : Nat) : BitVec 4 :=
  markMask ((List.range 4).map fun i =>
    let touched := o < 64 * i + 64 && 64 * i < o + n
    if touched then storePoison (old.getLsbD i) poison o n i else old.getLsbD i)

/-- Write a translated access at its homes; a class 4 block is read, expanded, merged and written raw (R102). -/
def Mem.writeSeg (m : Mem) (g : Seg) (bs : List Byte) (poison : Bool) : Mem × List ErrRec :=
  if g.cls = 4 then
    (pieces 256 (g.len + 1) g.pa g.len).foldl (fun acc p =>
      let r := acc.1.slotBytes g.home g.key (p.1 / 256)
      let (b, bad) := r.logical
      let (m, r') := r.mem.writeSlot g.home g.key (p.1 / 256) (patch b (p.1 % 256) ((bs.drop (p.1 - g.pa)).take p.2)) false
        (mergeMarks bad poison (p.1 % 256) p.2)
      (m, acc.2 ++ r'))  (m, [])
  else m.writeAt g.home g.key g.cls g.pa bs poison

def Mem.readSegs (m : Mem) (l : List Seg) : MemRead :=
  l.foldl (fun acc g => let r := acc.mem.readSeg g; ⟨acc.bytes ++ r.bytes, acc.bad || r.bad, r.mem, acc.recs ++ r.recs⟩) ⟨[], false, m, []⟩

def Mem.writeSegs (m : Mem) (l : List Seg) (bs : List Byte) (poison : Bool) : Mem × List ErrRec :=
  (segOffsets l 0).foldl (fun acc p =>
    let r := acc.1.writeSeg p.1 ((bs.drop p.2).take p.1.len) poison
    (r.1, acc.2 ++ r.2)) (m, [])

end Sys2Proof.Machine
end

