-- ==== Sys2Proof/Machine/Translate.lean ====
section
/-! DEFINITION. Translation (spec R29 to R50): the page-table walk, the checks of an access against its leaf, the TLBs and the
locked entry, translation contexts, and the checks of local and remote scratch addresses with the granule map (R53, R66, R74). -/

namespace Sys2Proof.Machine

open Sys2Proof

/-- KIND of R50. -/
def AccKind.code : AccKind → Nat
  | .load => 0 | .store => 1 | .atomic => 2 | .fetch => 3 | .copySrc => 4 | .copyDst => 5 | .near => 6 | .nearStore => 6 | .host => 7

/-- The detail of a translation fault (R50): LV 1 for a fault found by translation. -/
def xlDetail (k : AccKind) (level : Nat) : Byte := BitVec.ofNat 8 (k.code * 8 + 4 + level)

/-- The detail of a fault found before translation begins (R50): LV 0. -/
def preDetail (k : AccKind) : Byte := BitVec.ofNat 8 (k.code * 8)

/-- Trap codes of R395. -/
def cXlinval : Byte := 0x10
def cXlrsvd : Byte := 0x11
def cXldomain : Byte := 0x12
def cXlperm : Byte := 0x13
def cXlkey : Byte := 0x14
def cXlhome : Byte := 0x15
def cXlrange : Byte := 0x16
def cXlglade : Byte := 0x17
def cGalign : Byte := 0x07
def cScratchaddr : Byte := 0x08
def cScratchown : Byte := 0x09
def cCompratom : Byte := 0x0A
def cNocore : Byte := 0x04
def cPoison : Byte := 0x03

/-- R37: whether a leaf's class, home and key go together. -/
def leafLegal (e : W64) : Bool :=
  let key := bits e 56 8
  let home := bits e 52 4
  let cls := bits e 12 4
  let inPeer := 1 ≤ home && home ≤ 12
  let ok := match cls with
    | 0 | 1 => home = 0 || inPeer || home = 13 || home = 14
    | 2 => home = 0 || inPeer || home = 13
    | 3 => home = 0
    | 4 => home = 0 || inPeer
    | 5 => home = 0
    | _ => false
  ok && (key = 0 || (home = 0 && cls ≠ 3))

/-- What a walk answers: a leaf with its level and physical address, or a cause at a level. -/
inductive WalkRes where
  | leaf (e : W64) (level : Nat) (pa : Nat)
  | fault (c : Byte) (level : Nat)
  deriving DecidableEq, Repr

/-- R38 from level n, table t; entries are read through Canopy. An entry in a poisoned or uncorrectable block is used as stored: DESIGN CHOICE (log 79). -/
def walkFrom (dom va : Nat) : Nat → Nat → Mem → Nat → WalkRes × Mem × List ErrRec
  | 0, _, m, _ => (.fault cXlrsvd 3, m, [])
  | fuel + 1, n, m, t =>
    let r := m.readAt 0 0 0 (t + 8 * nb va (46 - 10 * n) 10) 8
    let e : W64 := BitVec.ofNat 64 (leNat r.bytes)
    if bits e 0 1 = 0 then (.fault cXlinval n, r.mem, r.recs)
    else if bits e 1 1 = 0 then
      if n = 3 || bits e 52 12 ≠ 0 || bits e 2 14 ≠ 0 then (.fault cXlrsvd n, r.mem, r.recs)
      else
        let t' := bits e 16 36 * 65536
        if t' > 0x7FFFFFFFFF then (.fault cXlrange n, r.mem, r.recs)
        else
          let (w, m, rs) := walkFrom dom va fuel (n + 1) r.mem t'
          (w, m, r.recs ++ rs)
    else
      let low := 10 * (3 - n)
      if n = 0 then (.fault cXlrsvd 0, r.mem, r.recs)
      else if bits e 16 low ≠ 0 then (.fault cXlrsvd n, r.mem, r.recs)
      else if !leafLegal e then (.fault cXlrsvd n, r.mem, r.recs)
      else if bits e 4 8 ≠ dom && bits e 4 8 ≠ 0xFF then (.fault cXldomain n, r.mem, r.recs)
      else (.leaf e n (bits e 16 36 * 65536 + nb va 0 (16 + low)), r.mem, r.recs)

/-- R40: the root of a domain; `none` where its entry is unusable or its V is 0. -/
def Sched.root (s : Sched) (dom : Nat) : Option Nat :=
  let e : W64 := BitVec.ofNat 64 (rdNat s.mem (dom * 8) 8)
  if dom ≥ 255 || bits e 52 12 ≠ 0 || bits e 1 15 ≠ 0 || bits e 0 1 = 0 then none else some (bits e 16 36 * 65536)

/-- R38: the walk of a virtual address in a domain. -/
def walkVa (s : State) (dom va : Nat) : WalkRes × Mem × List ErrRec :=
  match s.sched.root dom with
  | none => (.fault cXlinval 0, s.mem, [])
  | some t => if t > 0x7FFFFFFFFF then (.fault cXlrange 0, s.mem, []) else walkFrom dom va 4 0 s.mem t

/-- R39: the checks of an access against its leaf, the first failure in order; then what a peer or the host's fabric refuses (R34), which a
near-memory command, refused there with `NMCLASS`, never reaches. A near-memory add counts as a store (R163). -/
def accessCheck (s : State) (k : AccKind) (e : W64) (pa : Nat) : Option Byte :=
  let home := bits e 52 4
  let cls := bits e 12 4
  let key := bits e 56 8
  if (k = .store || k = .atomic || k = .copyDst || k = .nearStore) && bits e 2 1 = 0 then some cXlperm
  else if k = .fetch && (bits e 3 1 = 0 || cls ≠ 0 || (home ≠ 0 && home ≠ 14)) then some cXlperm
  else if k = .atomic && home = 13 then some cXlperm
  else if k = .atomic && cls = 4 then some cCompratom
  else if !s.mem.keyLoaded key then some cXlkey
  else if 1 ≤ home && home ≤ 12 && !s.mem.linkUp.getLsbD (home - 1) then some cXlhome
  else if home = 13 && !s.mem.hostUp then some cXlhome
  else if (home = 0 && pa > 0x7FFFFFFFFF) || (home = 14 && pa > 0x7FFFFFFF) then some cXlrange
  else if home = 14 && !s.mem.gladeLine (pa / 128) then some cXlglade
  else if k = .near || k = .nearStore then none
  else if home = 13 && Config.hostFault pa then some cXlhome
  else if 1 ≤ home && home ≤ 12 then (Config.peerFault home pa).map fun i => BitVec.ofNat 8 (0x10 + i.val)
  else none

/-- The physical address of a virtual address under a leaf of a level (R38). -/
def leafPa (e : W64) (level va : Nat) : Nat := bits e 16 36 * 65536 + nb va 0 (16 + 10 * (3 - level))

/-- The span of a leaf of a level (R35). -/
def leafSpan (level : Nat) : Nat := 65536 * 1024 ^ (3 - level)

/-- R44: the entry of a TLB that serves an address in a domain. -/
def tlbFind (l : List TlbEnt) (dom va : Nat) : Option TlbEnt :=
  l.find? fun t => t.domain = dom && t.va ≤ va && va < t.va + leafSpan t.level

/-- What a translation answers: segments, a fault at a byte, or a miss in both TLBs. -/
inductive TransRes where
  | ok (segs : List Seg)
  | fault (c detail : Byte) (addr : W64)
  | miss
  deriving DecidableEq, Repr

/-- The segment of a piece under a leaf. -/
def segOf (e : W64) (pa l : Nat) : Seg := ⟨bits e 52 4, pa, bits e 12 4, bits e 56 8, l⟩

/-- Add an entry to a TLB of a size; the oldest entry beyond it goes (the organisation is not visible, R44). -/
def tlbAdd (size : Nat) (t : TlbEnt) (l : List TlbEnt) : List TlbEnt := (t :: l.filter (· ≠ t)).take size

/-- R44: a successful walk, or a hit in the grove's TLB, fills the core's TLB. -/
def State.tlbFill (s : State) (c : CoreId) (t : TlbEnt) (grove : Bool) : State :=
  let s := s.modCore c fun k => { k with ms.tlb := tlbAdd 2048 t k.ms.tlb }
  if grove then
    let g := groveOf c
    { s with mem := { s.mem with groveTlb := s.mem.groveTlb.set g (tlbAdd 16384 t (s.mem.groveTlb.get g)) } }
  else s

/-- The check of every 64-byte piece boundary is left to R39 step 8: each 128-byte line of a Glade access must be allocated. -/
def firstBad (s : State) (k : AccKind) (e : W64) (pa l : Nat) : Option (Byte × Nat) :=
  if bits e 52 4 = 14 then
    (pieces 128 (l + 1) pa l).findSome? fun p => (accessCheck s k e p.1).map fun c => (c, p.1 - pa)
  else (accessCheck s k e pa).map fun c => (c, 0)

/-- A translated access takes its segments, wherever it waits; `eff` says that it is an effect of a bundle still in progress. A result that
waits for an effect keeps its place: the effect takes it. -/
def MemSide.resolve (m : MemSide) (id : Nat) (eff : Bool) (segs : List Seg) : MemSide :=
  let eff := eff || m.releasing.any fun r => r.effs.any fun e => e.id = id
  { m with
    walks := m.walks.filter fun w => w.id ≠ id
    pend := m.pend.map fun (p : Pend) => if p.id = id && p.place = .va && p.port ≠ 0x105 && !eff then { p with place := .glob segs } else p
    wh := m.wh.map fun (w : Withheld) => if w.id = id then { w with place := .glob segs } else w
    releasing := m.releasing.map fun (r : Release) => { r with effs := r.effs.map fun (e : CEff) => if e.id = id then { e with place := .glob segs } else e } }

/-- The address of the first piece of an access that no TLB serves: what its miss waits for (R44, R45). -/
def State.missAt (s : State) (c : CoreId) (dom : Nat) (ea n : Nat) : Option Nat :=
  ((pieces 65536 (n + 1) ea n).find? fun p => decide (p.1 < Config.trapPage) &&
    (tlbFind (s.core c).ms.tlb dom p.1).isNone && (tlbFind (s.mem.groveTlb.get (groveOf c)) dom p.1).isNone).map Prod.fst

/-- A walk of a core whose miss is on a page of a domain. -/
def State.walkOn (s : State) (c : CoreId) (dom page : Nat) (w : Walk) : Bool :=
  (s.core c).domain = dom && (s.missAt c dom w.ea.toNat w.n).any fun a => a / 65536 = page

/-- One piece of a core access, within a 64 KiB page, as far as the TLBs serve it (R44, R46). A task whose context was unusable when it
started faults on every translated access (R40). -/
def State.transHit (s : State) (c : CoreId) (dom : Nat) (k : AccKind) (ea : W64) (l : Nat) : TransRes × State :=
  let va := ea.toNat
  if va ≥ 2 ^ 56 then (.fault cXlrange (xlDetail k 0) ea, s)
  else if va ≥ Config.trapPage then
    if (k = .store || k = .atomic) && va % 65536 < 0x8000 then (.fault cXlperm (xlDetail k 0) ea, s)
    else if k = .near || k = .nearStore || k = .copySrc || k = .copyDst || k = .host then (.fault cXlperm (xlDetail k 0) ea, s)
    else (.ok [⟨14, 0x7FC00000 + c.val * 65536 + va % 65536, 0, 0, l⟩], s)
  else match (s.core c).task.bind Task.noCtx with
  | some cc => (.fault cc (xlDetail k 0) ea, s)
  | none =>
    let fin := fun (s : State) (e : W64) (lv : Nat) =>
      match firstBad s k e (leafPa e lv va) l with
      | some (cc, o) => (TransRes.fault cc (xlDetail k lv) (ea + BitVec.ofNat 64 o), s)
      | none => (.ok [segOf e (leafPa e lv va) l], s)
    match tlbFind (s.core c).ms.tlb dom va with
    | some t => fin s t.e t.level
    | none => match tlbFind (s.mem.groveTlb.get (groveOf c)) dom va with
      | some t => fin (s.tlbFill c t false) t.e t.level
      | none => (.miss, s)

/-- A core access page by page in ascending order, each by a function that answers one piece; the lowest faulting byte is reported (R49, R302). -/
def State.transBy (s : State) (f : State → W64 → Nat → TransRes × State) (ea : W64) (n : Nat) : TransRes × State :=
  (pieces 65536 (n + 1) ea.toNat n).foldl (fun acc p =>
    match acc.1 with
    | .ok segs =>
      let (r, s) := f acc.2 (BitVec.ofNat 64 p.1) p.2
      match r with
      | .ok g => (.ok (segs ++ g), s)
      | r => (r, s)
    | _ => acc) (.ok [], s)

/-- R45: every miss of a grove that joined a walk receives its fault, to be reported at a later boundary (R220), unless a lower page of its
access faults (R49). -/
def State.failWalks (s : State) (g : Fin 8) (dom page : Nat) (cc : Byte) (lv : Nat) : State :=
  (List.finRange 64).foldl (fun s c =>
    if groveOf c ≠ g then s
    else
      let hit := (s.core c).ms.walks.filter fun w => s.walkOn c dom page w
      hit.foldl (fun s w =>
        let r := s.transBy (fun s a l => s.transHit c dom w.kind a l) w.ea w.n
        let f := match r.1 with
          | .fault cc d a => (cc, d, a)
          | _ => (cc, xlDetail w.kind lv, BitVec.ofNat 64 (max w.ea.toNat (page * 65536)))
        r.2.modCore c fun k => { k.report w.org f.1 f.2.1 f.2.2 with ms.walks := k.ms.walks.filter fun x => x.id ≠ w.id }) s) s

/-- A walk of the grove of core c: on success both TLBs are filled; a fault goes to every miss that joined it (R44, R45). -/
def State.walkGrove (s : State) (c : CoreId) (dom va : Nat) : WalkRes × State :=
  let (w, m, rs) := walkVa s dom va
  let s := { s with mem := m }.addRecs (inDomain dom rs)
  match w with
  | .fault cc lv => (w, s.failWalks (groveOf c) dom (va / 65536) cc lv)
  | .leaf e lv _ => (w, s.tlbFill c ⟨dom, va / leafSpan lv * leafSpan lv, lv, e⟩ true)

/-- The misses of a grove: arrival, core, domain, page and walk (R45). -/
def State.misses (s : State) (g : Fin 8) : List (Nat × CoreId × Nat × Nat × Walk) :=
  (List.finRange 64).flatMap fun c =>
    if groveOf c ≠ g then []
    else (s.core c).ms.walks.filterMap fun w =>
      (s.missAt c (s.core c).domain w.ea.toNat w.n).map fun a => (w.since, c, (s.core c).domain, a / 65536, w)

/-- R45: the walker runs up to 32 walks at once, and further misses wait in arrival order: a walk that begins now lets the oldest ones end until
fewer than 32 are left. -/
def State.drainWalks (s : State) (g : Fin 8) : Nat → State
  | 0 => s
  | n + 1 =>
    let ms := s.misses g
    if ((ms.map fun m => (m.2.2.1, m.2.2.2.1)).eraseDups).length < 32 then s
    else match ms.find? fun m => ms.all fun x => m.1 ≤ x.1 with
      | some m => (s.walkGrove m.2.1 m.2.2.1 (m.2.2.2.1 * 65536)).2.drainWalks g n
      | none => s

/-- One piece of a core access, within a 64 KiB page. `walk` lets it use the walker, after the walks that R45 puts before its own. -/
def State.transPiece (s : State) (c : CoreId) (dom : Nat) (k : AccKind) (walk : Bool) (ea : W64) (l : Nat) : TransRes × State :=
  match s.transHit c dom k ea l with
  | (.miss, s) =>
    if !walk then (.miss, s)
    else
      let s := s.drainWalks (groveOf c) (2 * (s.misses (groveOf c)).length)
      match s.transHit c dom k ea l with
      | (.miss, s) => match s.walkGrove c dom ea.toNat with
        | (.fault cc lv, s) => (.fault cc (xlDetail k lv) ea, s)
        | (.leaf e lv _, s) => match firstBad s k e (leafPa e lv ea.toNat) l with
          | some (cc, o) => (.fault cc (xlDetail k lv) (ea + BitVec.ofNat 64 o), s)
          | none => (.ok [segOf e (leafPa e lv ea.toNat) l], s)
      | r => r
  | r => r

/-- A core access of n bytes (R49, R302). -/
def State.transCore (s : State) (c : CoreId) (dom : Nat) (k : AccKind) (walk : Bool) (ea : W64) (n : Nat) : TransRes × State :=
  s.transBy (fun s a l => s.transPiece c dom k walk a l) ea n

/-- A piece of an engine's, the host's or a peer's access: its own walk, no TLB of a core, no trap page (R41, R46). -/
def State.transPieceX (s : State) (dom : Nat) (k : AccKind) (va l : Nat) : TransRes × State :=
  let ea : W64 := BitVec.ofNat 64 va
  if va ≥ 2 ^ 56 then (.fault cXlrange (xlDetail k 0) ea, s)
  else if va ≥ Config.trapPage then (.fault cXlperm (xlDetail k 0) ea, s)
  else
    let (w, m, rs) := walkVa s dom va
    let s := { s with mem := m }.addRecs (inDomain dom rs)
    match w with
    | .fault cc lv => (.fault cc (xlDetail k lv) ea, s)
    | .leaf e lv pa => match firstBad s k e pa l with
      | some (cc, o) => (.fault cc (xlDetail k lv) (ea + BitVec.ofNat 64 o), s)
      | none => (.ok [segOf e pa l], s)

/-- An engine's, the host's or a peer's access of n bytes. -/
def State.transX (s : State) (dom : Nat) (k : AccKind) (va n : Nat) : TransRes × State :=
  (pieces 65536 (n + 1) va n).foldl (fun acc p =>
    match acc.1 with
    | .ok segs =>
      let (r, s) := acc.2.transPieceX dom k p.1 p.2
      match r with
      | .ok g => (.ok (segs ++ g), s)
      | r => (r, s)
    | _ => acc) (.ok [], s)

/-- A walk of a core whose page has been served, or is served now where `walk` says so: its access goes on, or its fault is reported at a
later boundary (R220). -/
def State.settleWalk (s : State) (c : CoreId) (walk : Bool) (w : Walk) : State :=
  match s.transCore c (s.core c).domain w.kind walk w.ea w.n with
  | (.ok segs, s) =>
    let mine := decide (s.ctx.core = c) && s.ctx.effs.any fun e => e.id = w.id
    let s := s.modCore c fun k => { k with ms := k.ms.resolve w.id mine segs }
    if mine then { s with ctx := { s.ctx with effs := s.ctx.effs.map fun e => if e.id = w.id then { e with place := .glob segs } else e } } else s
  | (.fault cc d a, s) => s.modCore c fun k =>
      if k.ms.walks.any fun x => x.id = w.id then { k.report w.org cc d a with ms.walks := k.ms.walks.filter fun x => x.id ≠ w.id } else k
  | (.miss, s) => s

/-! ### Local scratch (R29, R30, R51 to R55, R66) -/

/-- The logical macro of a CIM scratch window offset, its half (0 active), and the byte within the half's 16 KiB (R29). -/
def windowMacro (off : Nat) : Nat := nb off 15 7
def windowHalf (off : Nat) : Nat := nb off 14 1
def windowByte (off : Nat) : Nat := nb off 0 14

def Cim.macro' (c : Cim) (m : Nat) : Macro := mrd {} c.macros m
def Cim.putMacro (c : Cim) (m : Nat) (v : Macro) : Cim := { c with macros := mwr {} c.macros m v }

/-- The half of a macro at a place: 0 active, 1 shadow; a swap exchanges them (R333). -/
def Macro.half (m : Macro) (i : Nat) : Half := if (i = 0) = !m.swapped then m.h0 else m.h1
def Macro.putHalf (m : Macro) (i : Nat) (h : Half) : Macro := if (i = 0) = !m.swapped then { m with h0 := h } else { m with h1 := h }

/-- R30, R66, R67: whether window macro m is available to the resident task as scratch. -/
def Core.windowOk (k : Core) (m : Nat) : Bool :=
  let x := k.eng.cim.macro' m
  !x.retired && x.scratch && match k.standby with
    | some b => !(b.macroFirst ≤ m && m < b.macroFirst + b.macroCount)
    | none => true

/-- R74: whether a task on core `who` (`none`: no core) may make an access of a kind (0 load, 1 store, 2 atomic) to a granule whose
home core is `home`. -/
def granuleOk (home : CoreId) (k : Core) (who : Option CoreId) (kind g : Nat) : Bool :=
  let e := k.granule g
  match who with
  | none => false
  | some w =>
    if e = 0 then w = home
    else
      let d := k.desc (e - 256)
      let holder := w.val = d.hcore
      let listed := holder || d.mask.getLsbD w.val
      match d.st with
      | 1 => holder
      | 2 => listed && kind = 0
      | 3 => listed && kind = 2
      | _ => false

/-- R78: the detail of `SCRATCHOWN`. -/
def ownDetail (st kind : Nat) (later : Bool) : Byte := BitVec.ofNat 8 (st * 64 + kind * 8 + (if later then 4 else 0))

/-- The state a refusal reports for an offset (R78). -/
def Core.ownState (k : Core) (off : Nat) : Nat :=
  let e := k.granule (off / 4096)
  if e = 0 then 0 else (k.desc (e - 256)).st

/-- The lowest offset of an access that the granule map refuses (R74, R77). -/
def ownRefuses (home : CoreId) (k : Core) (who : Option CoreId) (kind off n : Nat) : Option Nat :=
  (pieces 4096 (n + 1) off n).findSome? fun p => if granuleOk home k who kind (p.1 / 4096) then none else some p.1

/-- The check of a local access of a core: its address (R30, R53, R66) and its granules (R74). `window` allows the CIM window.
Answers a cause, a detail and the address to report. -/
def localCheck (c : CoreId) (k : Core) (kind align n : Nat) (window : Bool) (ea : W64) : Option (Byte × Byte × W64) :=
  let a := ea.toNat
  let bad := fun (x : Nat) => some (cScratchaddr, BitVec.ofNat 8 (kind * 8), BitVec.ofNat 64 x)
  if a ≥ 2 ^ 23 || a % align ≠ 0 then bad a
  else if a < 0x400000 then
    if a + n > 0x400000 then bad a
    else match ownRefuses c k (some c) kind a n with
      | some o => some (cScratchown, ownDetail (k.ownState o) kind false, BitVec.ofNat 64 o)
      | none => none
  else if !window || a + n > 0x800000 then bad a
  else match (pieces 32768 (n + 1) a n).find? fun p => !k.windowOk (windowMacro p.1) with
    | some p => bad p.1
    | none => none

/-- The format checks of a remote scratch address (R31, R53), then the absent core (R401). Detail KIND is `kind`. -/
def remoteCheck (s : State) (kind align n : Nat) (ea : W64) : Option (Byte × Byte × W64) :=
  let a := ea.toNat
  if a ≥ 2 ^ 29 || a % 2 ^ 23 ≥ 0x400000 || a % align ≠ 0 || a % 2 ^ 23 + n > 0x400000 then
    some (cScratchaddr, BitVec.ofNat 8 (kind * 8), ea)
  else if s.absent (coreId (a / 2 ^ 23)) then some (cNocore, BitVec.ofNat 8 (a / 2 ^ 23), ea)
  else none

/-- The words of scratch that bytes off to off + n - 1 touch. -/
def bankWords (off n : Nat) : List Nat := (pieces 8 (n + 1) off n).map fun p => p.1 / 8

/-- R55: the bank words an access touches: whether one is uncorrectable, and the core with its correctable errors repaired. -/
def Core.scrubScratch (k : Core) (c : CoreId) (off n : Nat) : Bool × Core × List ErrRec :=
  let ws := bankWords off n
  let ce := ws.filter fun w => k.loc.ceWords.contains w
  (ws.any fun w => k.loc.badWords.contains w,
    { k with loc.ceWords := k.loc.ceWords.filter fun w => !ce.contains w },
    ce.map fun w => coreRec c 0x01 1 1 (BitVec.ofNat 64 (w * 8)) (Config.syndrome 1 w) k.domain)

/-- A byte of the CIM scratch window: the bits as stored (R321). -/
def Core.windowByteAt (k : Core) (off : Nat) : Byte :=
  mrd 0 ((k.eng.cim.macro' (windowMacro off)).half (windowHalf off)).cells (windowByte off)

def Core.setWindowByte (k : Core) (off : Nat) (b : Byte) : Core :=
  let m := k.eng.cim.macro' (windowMacro off)
  let h := m.half (windowHalf off)
  { k with eng.cim := k.eng.cim.putMacro (windowMacro off) (m.putHalf (windowHalf off) { h with cells := mwr 0 h.cells (windowByte off) b }) }

/-- Bytes of local space as memory holds them. -/
def Core.localBytes (k : Core) (off n : Nat) : List Byte :=
  (List.range n).map fun i => if off + i < 0x400000 then mrd 0 k.loc.scratch (off + i) else k.windowByteAt (off + i)

/-- R55, R200: a store to scratch: a word written in all its 8 bytes gets a fresh code, poisoned data marks every word it writes,
a partial store leaves an uncorrectable word so. Window bytes carry no code (R321). -/
def Core.storeLocal (k : Core) (off : Nat) (bs : List Byte) (poison : Bool) : Core :=
  if off < 0x400000 then
    let full := (pieces 8 (bs.length + 1) off bs.length).filter (fun p => p.2 = 8) |>.map fun p => p.1 / 8
    let ws := bankWords off bs.length
    let bad := k.loc.badWords.filter fun w => !full.contains w
    { k with
      loc.scratch := wrBytes k.loc.scratch off bs
      loc.ceWords := k.loc.ceWords.filter fun w => !full.contains w
      loc.badWords := if poison then bad.filter (fun w => !ws.contains w) ++ ws else bad
      loc.paired := k.loc.paired.map fun p => ((off, bs.length) :: p.1, p.2) }
  else (bs.zip (List.range bs.length)).foldl (fun k p => k.setWindowByte (off + p.2) p.1) k

end Sys2Proof.Machine
end

