-- ==== Sys2Proof/Machine/Access.lean ====
section
/-! DEFINITION. Access: the L1 and its dirty-line FIFO (spec R63, R117 to R119), forwarding from the withhold buffer and from
committed stores (R70, R109), and the performance of loads, stores and atomics (R104, R120, R121, R304, R305). -/

namespace Sys2Proof.Machine

open Sys2Proof

/-! ### The L1 -/

def lineIs (home a : Nat) (l : L1Line) : Bool := l.home = home && l.line = a

def L1Line.bytes (l : L1Line) : List Byte := leBytes 128 l.data.toNat

/-- The bits of a 128-bit mask for bytes o to o + n - 1. -/
def byteMask (o n : Nat) : BitVec 128 := BitVec.ofNat 128 ((2 ^ n - 1) * 2 ^ o)

/-- Runs of set bits of a byte mask: offset and length. -/
def maskRuns (m : BitVec 128) : List (Nat × Nat) :=
  ((List.range 128).foldl (fun (acc : List (Nat × Nat)) i =>
    if m.getLsbD i then
      match acc with
      | (o, n) :: t => if o + n = i then (o, n + 1) :: t else (i, 1) :: acc
      | [] => [(i, 1)]
    else acc) []).reverse

/-- The 8-byte words that bytes o to o + n - 1 of a line touch, and those they cover. -/
def wordMask (o n : Nat) : BitVec 16 := (List.range 16).foldl (fun (b : BitVec 16) i => if o < 8 * i + 8 && 8 * i < o + n then b ||| BitVec.ofNat 16 (2 ^ i) else b) 0
def wordsWithin (o n : Nat) : BitVec 16 := (List.range 16).foldl (fun (b : BitVec 16) i => if o ≤ 8 * i && 8 * i + 8 ≤ o + n then b ||| BitVec.ofNat 16 (2 ^ i) else b) 0

/-- The address of a line in the layout of R407. -/
def lineAddr (home a : Nat) : W64 := BitVec.ofNat 64 (home * 2 ^ 52 + a * 128)

/-- R63, R55: the words of an L1 line that an access reads: correctable errors are repaired and recorded. -/
def L1Line.scrub (l : L1Line) (c : CoreId) (k : Core) (words : BitVec 16) : L1Line × List ErrRec :=
  if l.ce &&& words = 0 then (l, [])
  else ({ l with ce := l.ce &&& ~~~words }, [coreRec c 0x01 1 3 (lineAddr l.home l.line) (Config.syndrome 3 l.line) k.domain])

/-- R117, R106: write back the dirty bytes of a line. A Glade line no longer allocated, or a line of an unloaded key, is discarded
with a record of event `0x0E` (R91, R416). A block whose dirty bytes meet an uncorrectable error of the L1 is poisoned (log 63). -/
def State.writeBackLine (s : State) (c : CoreId) (l : L1Line) : State :=
  if l.dirty = 0 then s
  else if (l.home = 14 && !s.mem.gladeLine l.line) || (l.home = 0 && !s.mem.keyLoaded l.key) then
    s.addRec (coreRec c 0x0E 2 3 (lineAddr l.home l.line) 0 (s.core c).domain)
  else
    let (l, rs) := l.scrub c (s.core c) (BitVec.allOnes 16)
    (maskRuns l.dirty).foldl (fun s r =>
      (pieces 64 4 r.1 r.2).foldl (fun s p =>
        let bad := l.ue &&& wordMask p.1 p.2 ≠ 0
        let (m, rs) := s.mem.writeAt l.home l.key l.cls (l.line * 128 + p.1) ((l.bytes.drop p.1).take p.2) (l.poison.getLsbD (p.1 / 64) || bad)
        { s with mem := m }.addRecs (byCore c (s.core c).domain rs ++ if bad then [coreRec c 0x02 2 3 (lineAddr l.home l.line) (Config.syndrome 3 l.line) (s.core c).domain] else []))
        s) (s.addRecs rs)

/-- Whether a line lies behind a `rel` marker that has not completed (R118). -/
def behindMarker (home a : Nat) : List FifoEnt → Bool
  | [] => false
  | .line h x :: t => if h = home && x = a then false else behindMarker home a t
  | .marker _ :: t => t.contains (.line home a)

/-- The lines that segments touch. -/
def segLines (l : List Seg) : List (Nat × Nat) :=
  l.flatMap fun g => (pieces 128 (g.len + 1) g.pa g.len).map fun p => (g.home, p.1 / 128)

/-- A committed item that is a global atomic. -/
def Comm.isAmo (w : Comm) : Bool := match w.what with
  | .amo .. => true
  | .signal (.amo ..) => true
  | _ => false

/-- Whether one of some committed items is an atomic on a line; `gone` asks for one that has left the core or for one that has not. -/
def amoOn (l : List Comm) (gone : Bool) (home a : Nat) : Bool :=
  l.any fun w => w.isAmo && w.left = gone && match w.place with | .glob segs => (segLines segs).contains (home, a) | _ => false

/-- A committed class 0 or 5 store that waits for a way of the L1 or an entry of its FIFO (R118). -/
def Comm.isL1 (w : Comm) : Bool := match w.what, w.place with
  | .store .., .glob (g :: _) => g.cls = 0 || g.cls = 5
  | _, _ => false

/-- Whether a dirty line keeps its place: R118 holds it, or an atomic that left the core before its bytes were stored is still to be
performed on it (R109, R121). -/
def Core.lineHeld (k : Core) (l : L1Line) : Bool :=
  l.dirty ≠ 0 && (behindMarker l.home l.line k.ms.fifo || amoOn k.ms.comm true l.home l.line)

/-- Write back a line of a core's L1 and take it out of the FIFO; `drop` evicts it. A line that stays keeps its uncorrectable words and the
marks of the blocks that hold dirty ones of them (R55, R63). -/
def State.l1Clean (s : State) (c : CoreId) (home a : Nat) (drop : Bool) : State :=
  match (s.core c).ms.l1.find? (lineIs home a) with
  | none => s
  | some l =>
    let s := s.writeBackLine c l
    s.modCore c fun k => { k with
      ms.l1 := if drop then k.ms.l1.filter fun x => !lineIs home a x
        else k.ms.l1.map fun x => if lineIs home a x then { x with dirty := 0, ce := if l.dirty = 0 then x.ce else 0 } else x
      ms.fifo := k.ms.fifo.filter fun e => e ≠ .line home a }

/-- The lines of the set of a line that R63 may replace, and whether the set is full. -/
def Core.victims (k : Core) (a : Nat) : Bool × List L1Line :=
  let inSet := k.ms.l1.filter fun l => l.line % 1024 = a % 1024
  (inSet.length ≥ 16, inSet.filter fun l => !k.lineHeld l)

/-- R63: whether a line finds a way: where all sixteen are held, a fill waits (R118). -/
def Core.l1HasWay (k : Core) (a : Nat) : Bool := !(k.victims a).1 || !(k.victims a).2.isEmpty

/-- R63: make room for a line: where its set is full, one of the lines not held goes; the manual gives the pseudo-LRU of the L1 no tree, so
which one is a free choice (log 64). -/
def State.l1Room (s : State) (c : CoreId) (a : Nat) : State :=
  let (full, free) := (s.core c).victims a
  if !full then s
  else match free[pickOf s.freeCtr 0 free.length]? with
    | some v => s.bump.l1Clean c v.home v.line true
    | none => s

def Core.fifoLines (k : Core) : List (Nat × Nat) := k.ms.fifo.filterMap fun e => match e with | .line h x => some (h, x) | _ => none

/-- R63, R118: whether the FIFO takes a new line: it has an entry left, or its oldest line may be written back. -/
def Core.fifoHasRoom (k : Core) : Bool :=
  k.fifoLines.length < 512 || match k.fifoLines.head? with
    | some (h, x) => match k.ms.l1.find? (lineIs h x) with
      | some l => !k.lineHeld l
      | none => true
    | none => true

/-- A line put into the FIFO ahead of the markers of every `rel` committed after its store. -/
def fifoInsert (id home a : Nat) : List FifoEnt → List FifoEnt
  | [] => [.line home a]
  | .marker m :: t => if m > id then .line home a :: .marker m :: t else .marker m :: fifoInsert id home a t
  | e :: t => e :: fifoInsert id home a t

/-- R63: the FIFO entry of a line that first becomes dirty; a full FIFO writes its oldest line back first. -/
def State.fifoAdd (s : State) (c : CoreId) (id home a : Nat) : State :=
  let k := s.core c
  let s := if k.fifoLines.length ≥ 512 then
      match k.fifoLines.head? with | some (h, x) => s.l1Clean c h x false | none => s
    else s
  s.modCore c fun k => { k with ms.fifo := fifoInsert id home a k.ms.fifo }

/-- Whether a class 0 or 5 store to a line may enter the L1 now, `before` being what the core committed before it: an earlier store of the
line, or an atomic on it that has not left, goes first; the line needs a way and, where it becomes dirty, a FIFO entry (R118). -/
def Core.l1Takes (k : Core) (before : List Comm) (home a : Nat) : Bool :=
  !(before.any fun w => w.isL1 && match w.place with | .glob segs => (segLines segs).contains (home, a) | _ => false) &&
  !amoOn before false home a &&
  match k.ms.l1.find? (lineIs home a) with
  | some l => l.dirty ≠ 0 || k.fifoHasRoom
  | none => k.l1HasWay a && k.fifoHasRoom

/-- A class 0 or 5 store of a piece within a line performed in the L1 (R117); a word written whole gets a fresh code. -/
def State.l1Store (s : State) (c : CoreId) (id : Nat) (g : Seg) (a : Nat) (bs : List Byte) (poison : Bool) : State :=
  let ln := a / 128
  let o := a % 128
  let upd := fun (l : L1Line) => { l with
    cls := g.cls, key := g.key
    data := BitVec.ofNat 1024 (leNat (patch l.bytes o bs))
    valid := l.valid ||| byteMask o bs.length
    dirty := l.dirty ||| byteMask o bs.length
    ce := l.ce &&& ~~~(wordsWithin o bs.length)
    ue := l.ue &&& ~~~(wordsWithin o bs.length)
    poison := (List.range 2).foldl (fun (p : BitVec 2) i =>
      let blk := 2 * ln + i
      let v := if a < blk * 64 + 64 && blk * 64 < a + bs.length then storePoison (l.poison.getLsbD i) poison a bs.length blk else l.poison.getLsbD i
      p ||| (if v then BitVec.ofNat 2 (2 ^ i) else 0)) 0 }
  match (s.core c).ms.l1.find? (lineIs g.home ln) with
  | some l =>
    let s := if l.dirty = 0 then s.fifoAdd c id g.home ln else s
    s.modCore c fun k => { k with ms.l1 := k.ms.l1.map fun x => if lineIs g.home ln x then upd x else x }
  | none =>
    let s := (s.l1Room c ln).fifoAdd c id g.home ln
    s.modCore c fun k => { k with ms.l1 := k.ms.l1 ++ [upd ⟨g.home, ln, g.cls, g.key, 0, 0, 0, 0, 0, 0⟩] }

/-- Whether the L1 holds a page's lines (R84): classes 0 and 5, and class 4 expanded. -/
def Seg.inL1 (g : Seg) : Bool := g.cls = 0 || g.cls = 5 || g.cls = 4

/-- The L1 line in which every byte of a piece is valid. -/
def Core.l1Hit (k : Core) (home a l : Nat) : Option L1Line :=
  (k.ms.l1.find? (lineIs home (a / 128))).filter fun x => x.valid &&& byteMask (a % 128) l = byteMask (a % 128) l

/-- A load of a piece within one 64-byte block through the L1: a hit where every byte is valid, else a fill that merges under
the dirty bytes (R119). Without `install` the fill delivers its data and leaves the L1 as it is. -/
def State.l1Load (s : State) (c : CoreId) (install row : Bool) (g : Seg) (a l : Nat) : List Byte × Bool × State :=
  let ln := a / 128
  let words := wordMask (a % 128) l
  let take := fun (x : L1Line) => ((x.bytes.drop (a % 128)).take l, x.poison.getLsbD (a / 64 % 2) || x.ue &&& words ≠ 0)
  let put := fun (s : State) (y : L1Line) => s.modCore c fun k => { k with ms.l1 := k.ms.l1.map fun z => if lineIs g.home ln z then y else z }
  let met := fun (s : State) (y : L1Line) => if row && y.ue &&& words ≠ 0 then
      s.addRec (coreRec c 0x02 2 3 (lineAddr g.home ln) (Config.syndrome 3 ln) (s.core c).domain) else s
  match (s.core c).l1Hit g.home a l with
  | some x =>
    let (y, rs) := x.scrub c (s.core c) words
    ((take y).1, (take y).2, met ((put s y).addRecs rs) y)
  | none =>
    let lo := s.mem.readSeg ⟨g.home, ln * 128, g.cls, g.key, 64⟩
    let hi := lo.mem.readSeg ⟨g.home, ln * 128 + 64, g.cls, g.key, 64⟩
    let s := { s with mem := hi.mem }.addRecs (byCore c (s.core c).domain ((if a % 128 < 64 then lo.recs else []) ++ (if a % 128 ≥ 64 then hi.recs else [])))
    let p : BitVec 2 := (if lo.bad then 1 else 0) ||| (if hi.bad then 2 else 0)
    let fresh := lo.bytes ++ hi.bytes
    match (s.core c).ms.l1.find? (lineIs g.home ln) with
    | some x =>
      let merged := (List.range 128).map fun i => if x.dirty.getLsbD i then x.bytes.getD i 0 else fresh.getD i 0
      let keep := (maskRuns x.dirty).foldl (fun (b : BitVec 16) r => b ||| wordMask r.1 r.2) 0
      let y := { x with data := BitVec.ofNat 1024 (leNat merged), valid := BitVec.allOnes 128, poison := x.poison ||| p, ce := x.ce &&& keep, ue := x.ue &&& keep }
      let (y, rs) := y.scrub c (s.core c) words
      ((take y).1, (take y).2, met (if install then (put s y).addRecs rs else s) y)
    | none =>
      let y : L1Line := ⟨g.home, ln, g.cls, g.key, BitVec.ofNat 1024 (leNat fresh), BitVec.allOnes 128, 0, p, 0, 0⟩
      ((take y).1, (take y).2, if install then (s.l1Room c ln).modCore c fun k => { k with ms.l1 := k.ms.l1 ++ [y] } else s)

/-- Whether a load of segments waits for a way of the L1 (R118). -/
def Core.fillWaits (k : Core) (segs : List Seg) : Bool :=
  segs.any fun g => g.inL1 && (pieces 128 (g.len + 1) g.pa g.len).any fun p =>
    !(k.ms.l1.any (lineIs g.home (p.1 / 128))) && !k.l1HasWay (p.1 / 128)

/-- R102: a class 4 store leaves no expanded line of its block in the L1 of its core. -/
def Core.dropExpanded (k : Core) (segs : List Seg) : Core :=
  let gone := segs.flatMap fun g => if g.cls = 4 then (pieces 256 (g.len + 1) g.pa g.len).map fun p => (g.home, p.1 / 256) else []
  { k with ms.l1 := k.ms.l1.filter fun l => !(l.dirty = 0 && gone.contains (l.home, l.line / 2)) }

/-- R119: `acq` drops every clean byte of the L1; a load triggered before it that performs later installs no line. -/
def Core.acq (k : Core) : Core :=
  { k with
    ms.l1 := (k.ms.l1.filter fun l => l.dirty ≠ 0).map fun l => { l with valid := l.dirty }
    ms.pend := k.ms.pend.map fun (p : Pend) => if p.got.isNone then { p with noFill := true } else p }

/-! ### Atomics (R304, R305) -/

/-- The sum of R305; written with the exact arithmetic of the number formats. -/
abbrev FAdd := W32 → W32 → W32

/-- The new value of a unit (R304). -/
def AmoOp.apply (fadd : FAdd) (op : AmoOp) (old b c : W64) : W64 :=
  match op with
  | .add => old + b
  | .min => if old.toInt ≤ b.toInt then old else b
  | .max => if old.toInt ≥ b.toInt then old else b
  | .and => old &&& b
  | .or => old ||| b
  | .xor => old ^^^ b
  | .swp => b
  | .cas => if old = c then b else old
  | .fadd => (fadd (old.setWidth 32) (b.setWidth 32)).setWidth 64

/-- The width of an atomic in bytes. -/
def AmoOp.width : AmoOp → Nat
  | .fadd => 4
  | _ => 8

/-! ### What a load of local space sees -/

/-- A core with the withheld local stores of a list applied, as its own later loads see them (R70). -/
def Core.withLocal (k : Core) (l : List Withheld) : Core :=
  l.foldl (fun k w => match w.place, w.what with
    | .loc off, .store bs p => k.storeLocal off bs p
    | _, _ => k) k

/-- Local bytes as a load of the bundle in progress sees them, and whether a bank word of them is uncorrectable (R55, R107). -/
def Core.loadLocal (k : Core) (whN off n : Nat) : List Byte × Bool :=
  let v := k.withLocal (k.ms.wh.take whN)
  (v.localBytes off n, off < 0x400000 && (bankWords off n).any fun w => v.loc.badWords.contains w)

/-! ### What a global or remote load sees -/

/-- The bytes of a store that fall on a piece of an access, as (offset in the piece, byte), with the store's poison and whether
it covers the whole block. Both are given by a space, an address, and a length. -/
def overlay (cur : List Byte × Bool) (a : Nat) (sa : Nat) (bs : List Byte) (poison : Bool) (blk : Nat) : List Byte × Bool :=
  let n := cur.1.length
  let sameBlock := sa < (a / blk + 1) * blk && a / blk * blk < sa + bs.length
  let bytes := (List.range n).map fun i =>
    if sa ≤ a + i && a + i < sa + bs.length then bs.getD (a + i - sa) 0 else cur.1.getD i 0
  let bad := if !sameBlock then cur.2 else if poison then true
    else if sa ≤ a / blk * blk && (a / blk + 1) * blk ≤ sa + bs.length then false else cur.2
  (bytes, bad)

/-- The pieces of a store in one home: physical address and bytes. -/
def storePieces (segs : List Seg) (home : Nat) (bs : List Byte) : List (Nat × List Byte) :=
  (segOffsets segs 0).filterMap fun p => if p.1.home = home then some (p.1.pa, (bs.drop p.2).take p.1.len) else none

/-- A global piece as the core's own stores of two lists leave it (R109, R70). -/
def Core.forwardGlobal (k : Core) (whN : Nat) (home a : Nat) (cur : List Byte × Bool) : List Byte × Bool :=
  let cur := k.ms.comm.foldl (fun cur w => match w.place, w.what with
    | .glob segs, .store bs p => (storePieces segs home bs).foldl (fun cur x => overlay cur a x.1 x.2 p 64) cur
    | _, _ => cur) cur
  (k.ms.wh.take whN).foldl (fun cur w => match w.place, w.what with
    | .glob segs, .store bs p => (storePieces segs home bs).foldl (fun cur x => overlay cur a x.1 x.2 p 64) cur
    | _, _ => cur) cur

/-- A remote piece as the core's own stores leave it. -/
def Core.forwardRemote (k : Core) (whN : Nat) (home : CoreId) (a : Nat) (cur : List Byte × Bool) : List Byte × Bool :=
  let go := fun (cur : List Byte × Bool) (pl : Place) (bs : List Byte) (p : Bool) => match pl with
    | .rem h o => if h = home then overlay cur a o bs p 8 else cur
    | _ => cur
  let cur := k.ms.comm.foldl (fun cur w => match w.what with | .store bs p => go cur w.place bs p | _ => cur) cur
  (k.ms.wh.take whN).foldl (fun cur w => match w.what with | .store bs p => go cur w.place bs p | _ => cur) cur

/-- A global load performed: its bytes and whether a block of it is poisoned or uncorrectable (R98). -/
def State.loadGlobal (s : State) (c : CoreId) (install row : Bool) (whN : Nat) (segs : List Seg) : List Byte × Bool × State :=
  segs.foldl (fun acc g =>
    (pieces 64 (g.len + 1) g.pa g.len).foldl (fun acc p =>
      let (bs, bad, s) :=
        if g.inL1 then acc.2.2.l1Load c install row g p.1 p.2
        else
          let r := acc.2.2.mem.readSeg { g with pa := p.1, len := p.2 }
          (r.bytes, r.bad, { acc.2.2 with mem := r.mem }.addRecs (byCore c (s.core c).domain r.recs))
      let (bs, bad) := (s.core c).forwardGlobal whN g.home p.1 (bs, bad)
      (acc.1 ++ bs, acc.2.1 || bad, s)) acc) ([], false, s)

/-- A remote scratch load at its home core (R104): bytes, and whether a word was uncorrectable. -/
def State.loadRemote (s : State) (c : CoreId) (whN : Nat) (home : CoreId) (off n : Nat) : List Byte × Bool × State :=
  let (_, hk, rs) := (s.core home).scrubScratch home off n
  let s := (s.setCore home hk).addRecs rs
  let r := (pieces 8 (n + 1) off n).foldl (fun acc p =>
    let base := (hk.localBytes p.1 p.2, hk.loc.badWords.contains (p.1 / 8))
    let (bs, bad) := (s.core c).forwardRemote whN home p.1 base
    (acc.1 ++ bs, acc.2 || bad)) (([], false) : List Byte × Bool)
  (r.1, r.2, s)

/-- The value a load delivers from its bytes. -/
def loadVal (row signed bad : Bool) (n : Nat) (bs : List Byte) : Val :=
  if row then .r ⟨rowOfBytes bs, memTag bad⟩
  else .w (if signed then sextN (8 * n) (leNat bs) else BitVec.ofNat 64 (leNat bs))

/-- A record of a scalar consumption of poisoned memory (R400). -/
def consumeRec (c : CoreId) (k : Core) (unit : Nat) (addr : W64) : ErrRec :=
  coreRec c 0x0C 3 unit addr (Config.syndrome unit addr.toNat) k.domain

/-- The first physical address of translated segments, in the layout of R407. -/
def segAddr : List Seg → W64
  | [] => 0
  | g :: _ => BitVec.ofNat 64 (g.home * 2 ^ 52 + g.pa)

/-- The unit whose code met an error of a global access (R406). -/
def segUnit : List Seg → Nat
  | [] => 3
  | g :: _ => if g.inL1 then 3 else if g.cls = 3 then 8 else 7

/-- The level at which a core's access is reported once it has been translated: that of the TLB entry that served it, else 3 (log 32). -/
def Core.levelOf (k : Core) (ea : W64) : Nat := match tlbFind k.ms.tlb k.domain ea.toNat with | some t => t.level | none => 3

/-- R92: the first byte of an access, counted from its start, that reads a Glade line allocated no longer; what the L1 holds is read there. -/
def State.gladeGone (s : State) (c : CoreId) (segs : List Seg) : Option Nat :=
  (segOffsets segs 0).findSome? fun p =>
    if p.1.home ≠ 14 then none
    else (pieces 64 (p.1.len + 1) p.1.pa p.1.len).findSome? fun q =>
      if s.mem.gladeLine (q.1 / 128) || (p.1.inL1 && ((s.core c).l1Hit 14 q.1 q.2).isSome) then none else some (p.2 + (q.1 - p.1.pa))

/-- n bytes at o of a pending load of translated or remote memory. -/
def State.readPend (s : State) (c : CoreId) (p : Pend) (install : Bool) (o n : Nat) : List Byte × Bool × State :=
  match p.place with
  | .glob segs => s.loadGlobal c install p.row p.whN (sliceSegs o n segs)
  | .rem h off => s.loadRemote c p.whN h (off + o) n
  | _ => ([], false, s)

/-- The single-copy atomic unit of byte o of an access: the 8-byte word or, on a class 4 page, all that the access has of the Etben block
(R102, R106). -/
def unitOf (o : Nat) (segs : List Seg) : Nat × Nat :=
  match (segOffsets segs 0).find? fun p => p.2 ≤ o && o < p.2 + p.1.len with
  | some (g, p) =>
    if g.cls = 4 then
      let a := g.pa + (o - p)
      let lo := max g.pa (a / 256 * 256)
      (p + (lo - g.pa), min (g.pa + g.len) (a / 256 * 256 + 256) - lo)
    else (o / 8 * 8, 8)
  | none => (o / 8 * 8, 8)

/-- R54, R106: the units of a row load are read one by one in any order: that of word i of a pending one is read now, ahead of the rest. -/
def State.captureWord (s : State) (c : CoreId) (p : Pend) (i : Nat) : State :=
  let waits := match p.place with
    | .glob segs => (s.gladeGone c segs).isSome
    | _ => false
  if !p.row || p.got.isSome || waits || (mrd none p.part i).isSome then s
  else
    let (o, n) := match p.place with | .glob segs => unitOf (8 * i) segs | _ => (8 * i, 8)
    let (bs, bad, s) := s.readPend c p false o n
    let part := (List.range (n / 8)).foldl (fun m j => mwr none m (o / 8 + j) (some ((bs.drop (8 * j)).take 8, bad))) p.part
    s.modCore c fun k => { k with ms.pend := k.ms.pend.map fun q => if q.id = p.id then { q with part := part } else q }

/-- The bytes of a pending load, the words read earlier among them. -/
def State.readRest (s : State) (c : CoreId) (p : Pend) : List Byte × Bool × State :=
  if p.part.isEmpty then s.readPend c p (!p.noFill) 0 p.n
  else (List.range (p.n / 8)).foldl (fun acc i => match mrd none p.part i with
    | some (bs, bad) => (acc.1 ++ bs, acc.2.1 || bad, acc.2.2)
    | none =>
      let (bs, bad, s) := acc.2.2.readPend c p (!p.noFill) (8 * i) 8
      (acc.1 ++ bs, acc.2.1 || bad, s)) ([], false, s)

/-- A pending load performed: its value is captured, and poisoned data of a scalar load is reported (R400). A fill may wait for a way of the
L1 (R118); a Glade line that has been freed since the translation faults (R92). -/
def State.performLoad (s : State) (c : CoreId) (p : Pend) : State :=
  let fin := fun (s : State) (bs : List Byte) (bad : Bool) (unit : Nat) (a : W64) =>
    let s := s.modCore c fun k => { k with ms.pend := k.ms.pend.map fun q =>
      if q.id = p.id then { q with got := some (loadVal p.row p.signed bad p.n bs) } else q }
    if bad && !p.row then
      (s.modCore c fun k => k.report p.org cPoison 5 p.ea).addRec (consumeRec c (s.core c) unit a)
    else s
  match p.place with
  | .glob segs =>
    if !p.noFill && (s.core c).fillWaits segs then s
    else match s.gladeGone c segs with
    | some o => s.modCore c fun k =>
        { k.report p.org cXlglade (xlDetail .load (k.levelOf p.ea)) (p.ea + BitVec.ofNat 64 o) with ms.pend := k.ms.pend.filter fun q => q.id ≠ p.id }
    | none =>
      let (bs, bad, s) := s.readRest c p
      fin s bs bad (segUnit segs) (segAddr segs)
  | .rem _ o =>
    let (bs, bad, s) := s.readRest c p
    let s := if bad && p.row then s.addRec (coreRec c 0x02 2 1 (BitVec.ofNat 64 o) (Config.syndrome 1 o) (s.core c).domain) else s
    fin s bs bad 1 (BitVec.ofNat 64 o)
  | _ => s

/-! ### Atomics at their points -/

/-- What an atomic met: the value before it, and whether its unit was poisoned or uncorrectable (R121). -/
structure AmoRes where
  old : W64
  bad : Bool

/-- An atomic on a bank of a home core (R120). -/
def State.amoBank (s : State) (fadd : FAdd) (home : CoreId) (off : Nat) (op : AmoOp) (b c : W64) : AmoRes × State :=
  let (bad, hk, rs) := (s.core home).scrubScratch home off op.width
  let old : W64 := BitVec.ofNat 64 (leNat (hk.localBytes off op.width))
  let s := (s.setCore home hk).addRecs rs
  if bad then (⟨old, true⟩, s)
  else (⟨old, false⟩, s.setCore home (hk.storeLocal off (leBytes op.width (op.apply fadd old b c).toNat) false))

/-- R121: before a global atomic leaves the core, the dirty bytes of its line are written back and the line is invalidated. Answers whether it
could leave: a line that R118 holds, or on which an earlier store or atomic of `before` is still to be performed, keeps it back. -/
def State.amoLeaves (s : State) (c : CoreId) (before : List Comm) (segs : List Seg) : Bool × State :=
  let k := s.core c
  let waits := before.any fun w => w.isL1 && match w.place with | .glob l => (segLines l).any fun x => (segLines segs).contains x | _ => false
  let stays := waits || (segLines segs).any fun x => match k.ms.l1.find? (lineIs x.1 x.2) with
    | some l => l.dirty ≠ 0 && (behindMarker l.home l.line k.ms.fifo || amoOn before true l.home l.line)
    | none => false
  if stays then (false, s) else (true, (segLines segs).foldl (fun s x => s.l1Clean c x.1 x.2 true) s)

/-- A global atomic at its point. -/
def State.amoGlobal (s : State) (who : CoreId) (fadd : FAdd) (segs : List Seg) (op : AmoOp) (b c : W64) : AmoRes × State :=
  let r := s.mem.readSegs segs
  let s := { s with mem := r.mem }.addRecs (byCore who (s.core who).domain r.recs)
  let old : W64 := BitVec.ofNat 64 (leNat r.bytes)
  if r.bad then (⟨old, true⟩, s)
  else
    let (m, rs) := s.mem.writeSegs segs (leBytes op.width (op.apply fadd old b c).toNat) false
    (⟨old, false⟩, { s with mem := m }.addRecs (byCore who (s.core who).domain rs))

end Sys2Proof.Machine
end

