-- ==== Sys2Proof/Machine/Bundle.lean ====
section
/-! DEFINITION. Bundle: fetch (spec R206), the static checks (R212), the boundary before a bundle (R396), stalls (R217, R221), the
start of a bundle (R202, R203) and its end (R202, R13, R399). -/

namespace Sys2Proof

/-- R230: whether a source is a pop. -/
def Src.isPop : Src → Bool
  | .port .yqPop => true
  | .port (.nmPop _) => true
  | _ => false

end Sys2Proof

namespace Sys2Proof.Machine

open Sys2Proof

/-! ### Queues and streams as sources see them -/

/-- Rows in `aq`, withheld pushes of the first `n` withheld effects counted (R231). -/
def Core.aqn (k : Core) (n : Nat) : Nat :=
  k.eng.aq.length + ((k.ms.wh.take n).filter fun w => match w.what with | .aqPush _ => true | _ => false).length

/-- OP of a command row (R161). -/
def nmOpOf (r : Row) : Nat := bits (r.extractLsb' 0 64) 56 8

/-- The near-memory commands written and still on their way: in the release and committed (R113). -/
def Core.nmSent (k : Core) (p : Fin 4 → Row → Bool) : Nat :=
  let f := fun (g : Signal) => match g with | .nmCmd u r _ => p u r | _ => false
  (k.ms.comm.filter fun w => match w.what with | .signal g => f g | _ => false).length +
  (match k.ms.releasing with
   | some r => (r.effs.filter fun e => match e.what with | .signal g => f g | _ => false).length
   | none => 0)

/-- OUT and NRF of R160. -/
def Core.nmOut (k : Core) (u : Fin 4) : Nat :=
  let n := k.eng.nm.get u
  k.nmSent (fun v r => v = u && nmOpOf r = 1) + n.cmds.length + n.results.length - n.spec

def Core.nrf (k : Core) : Nat := k.nmSent (fun _ r => nmOpOf r ≠ 1) + k.eng.nrfCmds.length

/-- R231. -/
def Core.aqSt (k : Core) : W64 := BitVec.ofNat 64 ((k.eng.yq.length - k.eng.yqSpec) * 256 + k.aqn k.ms.wh.length)

/-- R160; `own` counts a reduce or return-free command of the reading bundle. -/
def Core.nmSt (k : Core) (u : Fin 4) (ownRed ownRf : Nat) : W64 :=
  let n := k.eng.nm.get u
  BitVec.ofNat 64 ((k.nrf + ownRf) * 65536 + (k.nmOut u + ownRed) * 256 + (n.results.length - n.spec))

/-! ### The words of a bundle -/

/-- A slot of the bundle in progress with its number. -/
structure SlotAt where
  i : Nat
  word : BitVec 24
  sl : Slot
  deriving DecidableEq, Repr

/-- The destination code of a slot. -/
def SlotAt.dcode (s : SlotAt) : Nat := SlotWord.dst s.word

def SlotAt.isTrig (s : SlotAt) : Bool := match s.sl.dst with | .trigger _ => true | _ => false

/-- R212: the conditions of slot i, given the lower slots, in the order of the table. -/
def slotCheck (h : Header) (low : List SlotAt) (i : Nat) (w : BitVec 24) : Except Byte SlotAt :=
  match decodeFields w with
  | .error d => .error d
  | .ok sl =>
    let s : SlotAt := ⟨i, w, sl⟩
    let d := s.dcode
    if !busReaches i d then .error 0x05
    else if d ≠ 0x7FF && low.any (fun l => l.dcode = d) then .error 0x06
    else if s.isTrig && low.any (fun l => l.isTrig && trigUnit l.dcode = trigUnit d) then .error 0x07
    else if sl.src.usesLimm && !h.l then .error 0x08
    else if s.isTrig && needsC d && !h.c then .error 0x09
    else .ok s

/-- R212: slots in ascending order; the first condition found with its slot. -/
def slotsCheck (h : Header) : List SlotAt → Nat → List (BitVec 24) → Except (Byte × Nat) (List SlotAt)
  | low, _, [] => .ok low
  | low, i, w :: t => match slotCheck h low i w with
    | .error d => .error (d, i)
    | .ok s => slotsCheck h (low ++ [s]) (i + 1) t

/-- R206, R207, R212: the header first, with TSLOT 8, then the slots. -/
def bundleCheck (b : BitVec 256) : Except (Byte × Nat) (Header × List SlotAt) :=
  match decodeHeader (bundleHeader b) with
  | .error d => .error (d, 8)
  | .ok h => match slotsCheck h [] 0 ((List.range 8).map (bundleSlot b)) with
    | .error e => .error e
    | .ok l => .ok (h, l)

/-! ### The boundary before a bundle (R396) -/

/-- Whether an `end` bundle has issued and awaits its release: no further bundle of the task issues (R256). -/
def Core.endIssued (k : Core) : Bool :=
  k.ms.releasing.any fun r => r.effs.any fun e => match e.what with | .endTask _ => true | _ => false

/-- Causes that a translation check gives: those of R49 and, for an atomic on a class 4 page, `COMPRATOM` (R39). -/
def xlCause (c : Byte) : Bool := (decide (0x10 ≤ c.toNat) && decide (c.toNat ≤ 0x17)) || c = cCompratom

/-- R49: whether the fault of a translation waits for that of a lower slot of its bundle, which is still being walked. -/
def Core.reportWaits (k : Core) (r : Report) : Bool :=
  xlCause r.trap.code && k.ms.walks.any fun w => decide (w.org.seq = r.seq) && decide (w.org.slot < r.trap.slot.toNat)

/-- R396: the report to take: of the oldest bundle, and within it of the lowest slot; none in handler mode. Once an `end` bundle has issued
only a check of its own interval still counts (R220; log 15). -/
def Core.nextReport (k : Core) : Option Report :=
  if k.mode.handler then none else
  (k.reports.filter fun r => !k.reportWaits r && (!k.endIssued || r.seq ≥ k.mode.openSeq)).foldl (fun (b : Option Report) r =>
    match b with
    | none => some r
    | some x => if r.seq < x.seq || (r.seq = x.seq && r.trap.slot.toNat < x.trap.slot.toNat) then some r else b) none

/-- R350: the trap of a CIM failure. -/
def CimFail.trap (f : CimFail) : Trap :=
  let code : Byte := match f.cause with
    | 1 => 0x18 | 2 => 0x19 | 3 => 0x1A | 4 => 0x1B | 5 => 0x08 | 6 => 0x09 | _ => 0x1C
  { code := code, detail := f.detail, isDef := true, eng := true, addr := f.addr, pc := f.call.org.pc, slot := BitVec.ofNat 4 f.call.org.slot,
    mpc := if f.call.step.isSome then BitVec.allOnes 64 else BitVec.ofNat 64 f.mpc }

/-- R388: whether the budget count of the resident task has just been reached. -/
def Task.over (t : Task) : Bool := t.budget ≠ 0 && t.used ≥ t.budget && !t.tookBudget

/-- The tile of a task changed in its instance. -/
def State.modTile (s : State) (t : Task) (f : Tile → Tile) : State :=
  { s with sched := { s.sched with insts := s.sched.insts.map fun (i : Inst) =>
      if i.slot = t.inst then
        let n := i.base.getD t.node 0 + t.tile
        { i with tiles := mwr {} i.tiles n (f (mrd {} i.tiles n)) }
      else i } }

/-- R392: the tile of the resident task of a core is Discarding. -/
def State.discarding (s : State) (c : CoreId) : State :=
  match (s.core c).task with
  | some t => s.modTile t fun (x : Tile) => { x with st := .discarding }
  | none => s

/-- A discard or kill at a boundary (R391, R393): the core rolls back, and the task then ends under R129. -/
def State.endTask (s : State) (c : CoreId) (e : EndKind) : State :=
  let s := (s.setCore c { (s.core c).rollback s.freeCtr with ending := some e, asked := none }).bump.bump
  match e with
  | .discarded _ => s.discarding c
  | _ => s

/-- R388: a budget expiry at a boundary: an idempotent task is discarded with OVERRUN or, on its second, killed; any other takes
`BUDGET` with 65,536 further cycles, and is killed when they run out. `second` says the tile overran before. No bundle raises `BUDGET`, so it is
never a double fault (R398). -/
def State.budgetStep (s : State) (c : CoreId) (second : Bool) : Option State :=
  let k := s.core c
  match k.task with
  | none => none
  | some t =>
    if t.over then
      if t.idem then
        some (s.endTask c (if second then .killed else .discarded true))
      else
        let s := s.setCore c { k with task := some { t with tookBudget := true, grace := 65536 } }
        some (s.takeTrap c (k.seq + 1) { code := 0x23, pc := k.pc })
    else if t.tookBudget && t.grace = 0 then
      some (s.endTask c .killed)
    else none

/-- R409: the stop after a stepped bundle, once its copy holds an entry and its launch is valid. -/
def State.stepStop (s : State) (c : CoreId) : Option State :=
  let k := s.core c
  match k.mode.stepPc with
  | none => none
  | some pc =>
    if k.ms.releasing.isSome || k.ms.comm.any (fun w => match w.what with
        | .signal (.cpy ..) => true | .signal (.launch ..) => true | _ => false) || k.ms.pend.any (fun p => p.port = 0x105 && !p.dead)
    then none
    else
      let lr := (k.ms.pend.find? fun p => p.port = 0x105).map fun _ => k.port 0x105
      let a := if k.mode.stepAddr = 0 then 0 else (lr.getD (k.port 0x105)).word
      let t : Trap := { code := 0x22, detail := k.mode.stepDetail, addr := a, pc := pc }
      let k := { k with traps := k.traps.record t, mode.stopped := true, mode.stepPc := none }
      some (s.setCore c k.landAll)

/-- R392: whether the tile of the resident task overran its budget in an earlier run. -/
def State.overran (s : State) (t : Task) : Bool :=
  match s.sched.insts.find? fun i => i.slot = t.inst with
  | some i => (mrd {} i.tiles (i.base.getD t.node 0 + t.tile)).overrun
  | none => false

/-- R407: an uncorrectable error in a store of the core that no tag or marker covers kills its task. DESIGN CHOICE (log 73): it is met at the
next bundle boundary. -/
def State.fatalStep (s : State) (c : CoreId) : Option State :=
  match (s.core c).fatal with
  | [] => none
  | e :: rest =>
    let rec0 := coreRec c 0x0D 3 e.1 (if e.1 = 6 then (s.core c).pc &&& 0xFFFFFFFFFFFFE0 else e.2) (Config.syndrome e.1 e.2.toNat) (s.core c).domain
    some (((s.modCore c fun k => { k with fatal := rest }).addRec rec0).endTask c .killed)

/-- R396: what the boundary before the next bundle takes, if anything. After an issued `end` bundle there is no next bundle: the task is done
when it is released, unless a check of its interval fails (R256, R391). -/
def State.boundary (s : State) (c : CoreId) : Option State :=
  let k := s.core c
  (s.fatalStep c).or <|
  match (if k.endIssued then none else k.asked) with
  | some e => some (s.endTask c e)
  | none => match k.nextReport with
    | some r => some ((s.setCore c { k with reports := k.reports.filter (· ≠ r) }).takeTrap c r.seq r.trap)
    | none =>
      if k.endIssued then none else
      match (if k.mode.handler then none else k.eng.cim.fails.head?) with
      | some f => some ((s.setCore c { k with eng.cim.fails := k.eng.cim.fails.tail }).takeTrap c f.call.org.seq f.trap)
      | none => match s.budgetStep c (match k.task with | some t => s.overran t | none => false) with
        | some s => some s
        | none => s.stepStop c

/-! ### Lockstep (R404, R405) -/

/-- R404, R405: the two cores of a pair differ, at issue or in their commit signatures: nothing commits, the pair rolls back and reruns the
interval; the third difference in a row quarantines it. The signatures are not given (log 8). The snapshot is the task's, so a pair that was
in handler mode leaves it (log 46). -/
def State.lockstepMismatch (s : State) (c : CoreId) (pc : W64) : State :=
  let k := s.core c
  let odd := coreId (c.val / 2 * 2 + 1)
  let rec0 := coreRec c 0x09 1 6 (pc &&& 0xFFFFFFFFFFFFE0) (Config.word s.freeCtr) k.domain
  let s1 := (s.setCore c { k.rollback (s.freeCtr + 1) with mode.handler := false, mode.retries := k.mode.retries + 1 }).bump.bump.bump
  if k.mode.retries < 2 then s1.addRec rec0
  else
    let s2 := s1.modCore c fun k => { k with
      mode.quarantined := true
      mode.retries := 0
      ending := some (if k.task.any (fun t => t.idem) then .discarded false else .killed) }
    let s2 := if k.task.any (fun t => t.idem) then s2.discarding c else s2
    (s2.modCore odd fun k => { k with mode.quarantined := true }).addRecs [rec0, { rec0 with event := 0x0A, sev := 3 }]

/-- Whether the flag of the event in progress makes the two cores of a pair differ (R404). -/
def State.pairDiffers (s : State) (c : CoreId) : Bool := s.cur.flag && s.lockstep (groveOf c) && c.val % 2 = 0

/-! ### Fetch (R206) -/

inductive FetchRes where
  | ok (b : BitVec 256)
  | trap (t : Trap)

/-- The bundle at the program counter, translated with KIND 3 and read through Canopy. -/
def State.fetch (s : State) (c : CoreId) : FetchRes × State :=
  let k := s.core c
  match s.transCore c k.domain .fetch true k.pc 32 with
  | (.fault cc d a, s) => (.trap { code := cc, detail := d, addr := a, pc := k.pc, slot := 9 }, s)
  | (.miss, s) => (.trap { code := cXlinval, detail := xlDetail .fetch 0, addr := k.pc, pc := k.pc, slot := 9 }, s)
  | (.ok segs, s) =>
    let r := s.mem.readSegs segs
    let s := { s with mem := r.mem }.addRecs (byCore c k.domain r.recs)
    if r.bad then
      (.trap { code := cPoison, detail := 7, addr := k.pc, pc := k.pc, slot := 9 }, s.addRec (consumeRec c k 7 (segAddr segs)))
    else (.ok (BitVec.ofNat 256 (leNat r.bytes)), s)

/-! ### Stalls (R217) -/

/-- The row a pop of a stream or of `yq` would deliver, the n-th pop of the bundle (R230). -/
def Core.popRow (k : Core) (q : Port) (n : Nat) : Option RowT :=
  match q with
  | .yqPop => k.eng.yq[k.eng.yqSpec + n]?
  | .nmPop u => (k.eng.nm.get u).results[(k.eng.nm.get u).spec + n]?
  | _ => none

/-- How many guard-true slots of a list pop a port. -/
def popsOf (l : List SlotAt) (q : Port) : Nat := (l.filter fun s => s.sl.src = .port q).length

/-- The value a slot's source would deliver, for the stall conditions; a pop is looked at, not taken. -/
def peekVal (k : Core) (x : Ctx) (l : List SlotAt) (s : SlotAt) : Val :=
  match s.sl.src with
  | .port q =>
    if s.sl.src.isPop then .r ((k.popRow q (popsOf (l.filter fun t => t.i < s.i) q)).getD RowT.zero)
    else readSrc k x s.i s.sl.src
  | src => readSrc k x s.i src

/-- R215: a variable-latency port whose result has not landed. -/
def Core.portWaits (k : Core) (code : Nat) : Bool := k.ms.pend.any fun p => p.port = code && !p.dead

/-- R221: the compatibility-mode check of a read of a fixed-latency port. -/
def Core.compatWaits (k : Core) (code : Nat) : Bool :=
  match k.task with
  | some t => !t.profB && k.ctrl.latprof && k.tr.inflight.any fun f => f.port = code && f.dwait = 0 && f.wait ≠ 0
  | none => false

/-- Calls and steps not yet started, those on their way counted (R340). -/
def Core.cimQueued (k : Core) : Nat :=
  k.eng.cim.queue.length + (k.ms.comm.filter fun w => match w.what with
    | .signal (.cimCall ..) => true | .signal (.cimStep ..) => true | _ => false).length

/-- R217: whether a guard-true slot holds the bundle. -/
def slotStalls (k : Core) (x : Ctx) (l : List SlotAt) (s : SlotAt) : Bool :=
  let src := match s.sl.src with
    | .port .yqPop => popsOf l .yqPop + k.eng.yqSpec > k.eng.yq.length
    | .port (.nmPop u) =>
      let n := popsOf l (.nmPop u)
      n ≤ k.nmOut u && n + (k.eng.nm.get u).spec > (k.eng.nm.get u).results.length
    | .port q => k.portWaits q.code || k.compatWaits q.code
    | _ => false
  let b := (peekVal k x l s).word
  src || (s.isTrig && match s.dcode with
    | 0x580 => k.aqn k.ms.wh.length ≥ 16
    | 0x510 => b.toNat < 16 && (k.eng.carafes.get ⟨b.toNat % 16, Nat.mod_lt _ (by decide)⟩).act &&
        (k.eng.carafes.get ⟨b.toNat % 16, Nat.mod_lt _ (by decide)⟩).nfill = 0
    | 0x28D => b.toNat < 32 && k.token b.toNat = 1
    | 0x550 => k.cimQueued ≥ 32
    | 0x551 => k.cimQueued ≥ 32
    | 0x4CD => b.toNat < 2 ^ 36 && (k.eng.flags.get ⟨bits b 0 4, Nat.mod_lt _ (by decide)⟩).toNat < bits b 4 32
    | _ => false)

/-! ### The start of a bundle (R202) -/

/-- Whether a move of a poisoned row by this slot is a scalar consumption (R201): to a register, to a 64-bit port, or over `bs0`
or `bs1`. Triggers other than the row-wide ones are looked at by their own meaning. -/
def moveConsumes (s : SlotAt) : Bool :=
  s.i < 2 || match s.sl.dst with
    | .x _ => true
    | .p _ => true
    | .latch l => !rowWide l.code
    | _ => false

/-- The first slot whose move cannot be made: a poisoned row to a scalar path (R400), or a pop beyond the outstanding reduces (R159). -/
def moveFault (k : Core) (x : Ctx) (l : List SlotAt) : Option Trap :=
  l.findSome? fun s =>
    let slot := BitVec.ofNat 4 s.i
    match s.sl.src with
    | .port (.nmPop u) =>
      if popsOf (l.filter fun t => t.i ≤ s.i) (.nmPop u) > k.nmOut u then
        some { code := 0x0D, detail := BitVec.ofNat 8 u.val, pc := x.addr, slot := slot }
      else if moveConsumes s && !s.isTrig && (peekVal k x l s).poisoned then some { code := cPoison, pc := x.addr, slot := slot } else none
    | _ => if moveConsumes s && !s.isTrig && (peekVal k x l s).poisoned then some { code := cPoison, pc := x.addr, slot := slot } else none

/-- R62: a row read while another agent writes it: each 4-byte element and the tag, by a free choice, as it was or as it is. -/
def mixRows (ctr i : Nat) (old new : RowT) : RowT :=
  ⟨ofLanes 32 ((List.range 128).map fun j => lane 32 (if pickOf ctr (i + j) 2 = 0 then old.data else new.data) j),
    if pickOf ctr (i + 128) 2 = 0 then old.tag else new.tag⟩

/-- The row a list of just replaced rows gives for a row number: the one it held last. -/
def freshRow (l : List (Nat × RowT)) (r : Nat) : Option RowT := ((l.filter fun e => e.1 = r).getLast?).map Prod.snd

/-- R62: what the `v` sources of a bundle deliver whose rows the CIM engine wrote in this cycle. -/
def mixedRows (k : Core) (ctr : Nat) (l : List SlotAt) : List (Nat × Val) :=
  l.filterMap fun s => match s.sl.src with
    | .v i => if (mrd none k.loc.vw (k.vRow i)).isSome then none
        else (freshRow k.eng.cim.fresh (k.vRow i)).map fun o => (s.i, .r (mixRows ctr (s.i * 129) o (k.rowAt (k.vRow i))))
    | _ => none

/-- R56, R407: the record that the read of an accumulator row leaves where its code meets an error. -/
def rowRec (c : CoreId) (k : Core) (row : Nat) : List ErrRec :=
  let rec_ := fun event sev => [coreRec c event sev 2 (BitVec.ofNat 64 row) (Config.syndrome 2 row) k.domain]
  if k.loc.badRows.contains row then rec_ 0x02 2 else if k.loc.ceRows.contains row then rec_ 0x01 1 else []

/-- Correctable errors of rows that were read are repaired. -/
def Core.repairRows (k : Core) (l : List Nat) : Core := { k with loc.ceRows := k.loc.ceRows.filter fun r => !l.contains r }

/-- The accumulator rows that the `v` sources of a bundle read; a row that the interval wrote is not read from the store. -/
def vReads (k : Core) (l : List SlotAt) : List Nat :=
  l.filterMap fun s => match s.sl.src with
    | .v i => if (mrd none k.loc.vw (k.vRow i)).isSome then none else some (k.vRow i)
    | _ => none

/-- A plain move: a latch takes its value now, a register at the end of the bundle (R202); Null discards it. -/
def State.makeMove (s : State) (dst : Dst) (v : Val) : State :=
  match dst with
  | .latch l => s.modMe fun k => k.setLatch l.code (if rowWide l.code then v else .w v.word)
  | .null => s
  | .trigger _ => s
  | d => { s with ctx := { s.ctx with writes := s.ctx.writes ++ [(d, v)] } }

/-- The value a status source had when the bundle issued (R160, R231). -/
def statusVal (k : Core) (x : Ctx) (l : List SlotAt) (s : SlotAt) : Option (Nat × Val) :=
  match s.sl.src with
  | .port .aqSt => some (s.i, .w k.aqSt)
  | .port (.nmSt u) =>
    let own := fun (p : Nat → Bool) => (l.filter fun t => t.dcode = 0x5C8 + u.val && p (nmOpOf (peekVal k x l t).row.data)).length
    let rf := (l.filter fun t => 0x5C8 ≤ t.dcode && t.dcode ≤ 0x5CB && nmOpOf (peekVal k x l t).row.data ≠ 1).length
    some (s.i, .w (k.nmSt u (own (· = 1)) rf))
  | _ => none

/-- Start a bundle whose checks passed and whose stalls have ended: capture status values, make the plain moves in slot order, and
leave the pops and then the triggers, in slot order, to the steps that follow. -/
def State.startBundle (s : State) (c : CoreId) (h : Header) (all : List SlotAt) : State :=
  let k := s.core c
  let x : Ctx := { core := c, addr := k.pc, hdr := h, whN := k.ms.wh.length }
  let l := all.filter fun t => guardOf h k.regs t.sl.gs
  let s := s.addRecs ((vReads k l).flatMap (rowRec c k))
  let s := if k.loc.ceRows.isEmpty then s else s.modCore c fun k => k.repairRows (vReads k l)
  let k := s.core c
  let mixed := mixedRows k s.freeCtr l
  let s := if mixed.isEmpty then s else s.bump
  let x := { x with caught := mixed }
  let fault := moveFault k x l
  let l' : List SlotAt := match fault with | some t => l.filter fun u => u.i < t.slot.toNat | none => l
  let x := { x with caught := mixed ++ l.filterMap (statusVal k x l), pending := fault }
  let s := { s with
    ctx := x
    saved := some k
    todo := ((l'.filter fun (t : SlotAt) => t.sl.src.isPop).map fun (t : SlotAt) => (true, t.i, t.word)) ++
      ((l'.filter SlotAt.isTrig).map fun (t : SlotAt) => (false, t.i, t.word)) }
  l'.foldl (fun s t => if t.isTrig || t.sl.src.isPop then s else s.makeMove t.sl.dst (readSrc k s.ctx t.i t.sl.src)) s

/-! ### The end of a bundle -/

/-- One register write at the end of a bundle (R203). -/
def Core.write (k : Core) (d : Dst) (v : Val) : Core :=
  match d with
  | .x i => { k with regs := k.regs.setX i v.word }
  | .p i => { k with regs := k.regs.setP i (v.word ≠ 0) }
  | .v i => k.setV i v.row
  | _ => k

/-- R388: a non-idempotent task that has taken `BUDGET` is killed at `eret`. -/
def Core.eretOrEnd (k : Core) (ctr : Nat) : Core :=
  match k.task with
  | some t => if t.tookBudget then { k.eret ctr with ending := some .killed } else k.eret ctr
  | none => k.eret ctr

/-- The end of the bundle in progress (R202 step 5): register writes in slot order, the loop registers and `SRSEED`, `acq`, the next
address, the cycle; a checkpoint bundle then waits for its release (R220), and `eret` acts at the end of a bundle without C
(R399). -/
def State.finishBundle (s : State) : State :=
  let x := s.ctx
  let c := x.core
  match x.pending with
  | some t => { s with cur := { s.cur with slot := t.slot.toNat } }.raise t.code t.detail
  | none =>
    let k := s.core c
    let k := x.writes.foldl (fun k w => k.write w.1 w.2) k
    let k := match x.loop with | some (n, b) => { k with regs.lcnt := n, regs.lbeg := b } | none => k
    let k := match x.srseed with | some v => { k with regs.srseed := v } | none => k
    let k := if x.acq then k.acq else k
    let next := x.next.getD (x.addr + 32)
    let k := (({ k with pc := next, seq := k.seq + 1 }).tick).ticks x.stall
    let k := if k.mode.dbgStep then { k with
        mode.stepPc := some x.addr
        mode.stepDetail := match x.produced with
          | t :: _ => BitVec.ofNat 8 (128 + t)
          | [] => if x.effs.any (fun e => match e.what with | .signal (.nmCmd ..) => true | _ => false) then 128 else 0
        mode.stepAddr := if x.effs.any (fun e => match e.what with | .signal (.launch _) => true | _ => false) then 1 else 0 } else k
    let s' := { s with ctx := {}, saved := none, todo := [] }
    if x.hdr.c || k.mode.dbgStep then s'.setCore c { k with ms.releasing := some ⟨x.effs, next, x.eret, x.addr, false⟩ }
    else if x.eret then (s'.setCore c (k.eretOrEnd s.freeCtr)).bump.bump
    else s'.setCore c k

/-- After each slot: when none is left, the bundle ends. -/
def State.settle (s : State) : State := if s.saved.isSome && s.todo.isEmpty then s.finishBundle else s

/-- Whether a core issues bundles now: a task runs on it, it is not ending, stopped or offline, and no other bundle is in progress. -/
def State.canIssue (s : State) (c : CoreId) : Bool :=
  let k := s.core c
  s.saved.isNone && k.task.isSome && k.ending.isNone && !k.mode.stopped && !k.mode.offline && !k.mode.quarantined && !s.absent c

/-- Whether a handle operation of a release is still to be performed. The release status becomes valid when the release has been performed
(R220), and R434 shows that a handle operation belongs to it (DEDUCED, log 87). -/
def Core.handleOnWay (k : Core) : Bool := k.ms.comm.any fun w => match w.what with | .signal (.handle ..) => true | _ => false

/-- BUNDLE_ISSUE: the boundary of R396 first; a bundle that follows a checkpoint bundle waits for its release (R220); then the bundle is
fetched and checked, and it stalls or starts; the flag makes the cores of a lockstep pair differ (R404). A stalled attempt takes one cycle. -/
def State.issue (s : State) (c : CoreId) : State :=
  if !s.canIssue c then s else
  match s.boundary c with
  | some s => s
  | none =>
    if (s.core c).mode.dbgHalt then s.modCore c fun k => { k.landAll with mode.stopped := true, mode.dbgHalt := false }
    else if (s.core c).ms.releasing.isSome || (s.core c).mode.stepPc.isSome || (s.core c).handleOnWay then s.modCore c Core.tick
    else
      let (b, s) := s.fetch c
      if s.pairDiffers c then s.lockstepMismatch c (s.core c).pc else
      match b with
      | .trap t => (s.modCore c Core.tick).takeTrap c (s.core c).seq t
      | .ok b => match bundleCheck b with
        | .error (d, sl) =>
          (s.modCore c Core.tick).takeTrap c (s.core c).seq { code := 0x01, detail := d, pc := (s.core c).pc, slot := BitVec.ofNat 4 sl }
        | .ok (h, all) =>
          let k := s.core c
          let x : Ctx := { core := c, addr := k.pc, hdr := h }
          let l := all.filter fun t => guardOf h k.regs t.sl.gs
          if l.any (slotStalls k x l) then s.modCore c Core.tick else (s.startBundle c h all).settle

/-- The OP that `decodeSlot` needs for a near-memory command (R161). -/
def State.cmdOp (s : State) (slot : Nat) (w : BitVec 24) : Nat :=
  match srcOf (SlotWord.src w) with
  | some src => nmOpOf (readSrc s.me s.ctx slot src).row.data
  | none => 1

end Sys2Proof.Machine
end

