-- ==== Sys2Proof/Machine/Registers.lean ====
section
/-! DEFINITION. Registers: the values of the host's and housekeeping's registers (spec R87, R376, R381, R406, R412, R413, R419 to
R424), which `W0` reads by offset and cores read by number (R259). -/

namespace Sys2Proof.Machine

open Sys2Proof

def flag (b : Bool) (i : Nat) : Nat := if b then 2 ^ i else 0

/-- R419: a record or image from the slot without the active mark is in use. -/
def Hsk.fallback (h : Hsk) : Bool := h.flash.toList.any fun f => f.used ≠ f.active

/-- R419. -/
def Hsk.devstat (h : Hsk) : W64 :=
  BitVec.ofNat 64 (flag h.fallback 17 + flag h.record.pqReq 16 + h.failCode * 256 + h.phase * 16 + flag (h.failCode ≠ 0 && !h.ready) 1 +
    flag h.ready 0)

/-- R420. -/
def Hsk.envelopeReg (h : Hsk) : W64 := BitVec.ofNat 64 (h.envelope * 256 + flag h.envPend 7 + h.envTarget)

/-- R421. -/
def Hsk.protmode (h : Hsk) : W64 := BitVec.ofNat 64 (h.protActive.toNat * 256 + h.protLock.toNat)

/-- R422. -/
def Hsk.pcapReg (h : Hsk) : W64 := h.pcap.setWidth 64
def Hsk.pstat (h : Hsk) : W64 :=
  BitVec.ofNat 64 (h.grant * 2 ^ 48 + h.freq * 2 ^ 40 + h.issue * 2 ^ 32 + h.power * 2 ^ 16 + h.gated)

/-- R381, R87. -/
def Hsk.ageReg (h : Hsk) : W64 := h.age.setWidth 64
def Hsk.pinlimReg (h : Hsk) : W64 := h.pinlim.setWidth 64

/-- The words of `TVEC` to `TSLOT` (R394). -/
def TrapRegs.word (t : TrapRegs) (i : Nat) : W64 :=
  match i with
  | 0 => t.tvec | 1 => t.tcause | 2 => t.taddr | 3 => t.tbpc | 4 => t.tmpc | _ => t.tslot

/-- R259: the control register with a number, as core c reads it at issue; `none` for an unassigned number. -/
def csrRead (s : State) (c : CoreId) (n : Nat) : Option W64 :=
  let k := s.core c
  if 0x010 ≤ n && n ≤ 0x015 then some (k.traps.word (n - 0x010)) else
  match n with
  | 0x000 => some (k.ctrl.awb.setWidth 64)
  | 0x001 => some k.regs.srseed
  | 0x002 => some k.regs.lcnt
  | 0x003 => some k.regs.lbeg
  | 0x008 => some (k.ctrl.tx.setWidth 64)
  | 0x009 => some (k.ctrl.ty.setWidth 64)
  | 0x00A => some (k.ctrl.tz.setWidth 64)
  | 0x00B => some (k.ctrl.taskid.setWidth 64)
  | 0x00C => some (BitVec.ofNat 64 (k.ctrl.member.toNat * 256 + k.ctrl.sizem1.toNat))
  | 0x00D => some (if k.ctrl.latprof then 1 else 0)
  | 0x00E => some k.ctrl.cyc
  | 0x020 => some s.hk.pinlimReg
  | 0x021 => some s.hk.ageReg
  | 0x022 => some s.hk.pcapReg
  | 0x023 => some s.hk.pstat
  | 0x024 => some s.hk.envelopeReg
  | 0x025 => some s.hk.protmode
  | 0x026 => some s.hk.devstat
  | _ => none

/-- R259: registers a core may write. -/
def csrWritable (n : Nat) : Bool := n ≤ 0x003

/-- R259, R5, R7: a `csrw` performed at the end of its bundle; reserved fields are not written. -/
def Core.csrWrite (k : Core) (n : Nat) (v : W64) : Core :=
  match n with
  | 0x000 => { k with ctrl.awb := v.setWidth 13 }
  | 0x001 => { k with regs.srseed := v }
  | 0x002 => { k with regs.lcnt := v }
  | 0x003 => { k with regs.lbeg := v &&& 0xFFFFFFFFFFFFE0 }
  | _ => k

/-- R413: the state of a logical core as the scheduler holds it. -/
def State.corestat (s : State) (c : CoreId) : W64 :=
  let k := s.core c
  let even := coreId (c.val / 2 * 2)
  let shadow := s.lockstep (groveOf c) && c.val % 2 = 1
  let who := if shadow then s.core even else k
  let st := if Config.parkedIn s.hk.envelope c.val then 2
    else if s.quarantined c then 3
    else if k.mode.offline || who.mode.offline || s.hk.swapReq.any (fun r => r.1 = c.val) && who.task.isNone then 4
    else if who.task.isNone then 0
    else if shadow then 5
    else match k.ending, k.asked with
      | some (.discarded _), _ => 6
      | _, some (.discarded _) => 6
      | _, _ => 1
  BitVec.ofNat 64 ((if st = 1 || st = 5 || st = 6 then who.ctrl.taskid.toNat * 2 ^ 32 else 0) + flag k.standby.isSome 8 + st)

end Sys2Proof.Machine
end

