-- ==== Sys2Proof/Machine/Control.lean ====
section
/-! DEFINITION. Control: the meanings of the operations of `ctl` (spec R253 to R258). -/

namespace Sys2Proof.Machine

open Sys2Proof

/-- A transfer's or loop's target: 32-byte aligned, else illegal with detail `0x0A` (R254, R255). -/
def targetOk (b : W64) : Bool := bits b 0 5 = 0

/-- `jump` (R254). -/
def execJump (m : Mv) (s : State) : Out :=
  s.trig m fun b => if targetOk b then { s with ctx := { s.ctx with next := some b } } else s.illegal 0x0A

/-- `jlink` (R254): the address of its own bundle plus 32 goes to `ctl.r`. -/
def execJlink (m : Mv) (s : State) : Out :=
  s.trig m fun b =>
    if targetOk b then ({ s with ctx := { s.ctx with next := some b } }).fly 0x102 1 (.w (s.ctx.addr + 32)) else s.illegal 0x0A

/-- `loopset` (R255): at the end of its bundle LCNT := A, LBEG := B. -/
def execLoopset (m : Mv) (s : State) : Out :=
  s.trig m fun b =>
    if targetOk b && bits b 56 8 = 0 then { s with ctx := { s.ctx with loop := some (s.me.latchW 0x280, b) } } else s.illegal 0x0A

/-- `loopend` (R255). -/
def execLoopend (m : Mv) (s : State) : Out :=
  s.trig m fun _ =>
    let r := s.me.regs
    if r.lcnt.toNat > 1 then { s with ctx := { s.ctx with loop := some (r.lcnt - 1, r.lbeg), next := some r.lbeg } }
    else { s with ctx := { s.ctx with loop := some (0, r.lbeg) } }

/-- `end` (R256): performed after every other effect of its bundle, at the release. -/
def execEndTask (m : Mv) (s : State) : Out := s.trig m fun b => s.eff .va 0 (.endTask (b.setWidth 32))

/-- `kwait` (R257): a pending token stalled the bundle before (R217); a failed one traps `TOKFAIL`. -/
def execKwait (m : Mv) (s : State) : Out :=
  s.trig m fun b =>
    if b.toNat ≥ 32 then s.illegal 0x0A
    else if s.me.token b.toNat = 3 then s.raise 0x05 (b.setWidth 8) else s

/-- The states of all tokens, token k at bits [2k+1:2k] (R257). -/
def Core.tokenWord (k : Core) : W64 := BitVec.ofNat 64 (lanesNat 2 (k.eng.tokens.toList.map BitVec.toNat))

/-- `kpoll` (R257). -/
def execKpoll (m : Mv) (s : State) : Out := s.trig m fun _ => s.fly 0x102 1 (.w s.me.tokenWord)

/-- `kfree` (R257): illegal where a named token is pending at issue; its effect is at the end of the bundle. -/
def execKfree (m : Mv) (s : State) : Out :=
  s.trig m fun b =>
    if bits b 32 32 ≠ 0 || (List.range 32).any (fun t => bits b t 1 = 1 && s.me.token t = 1) then s.illegal 0x0A
    else s.eff .va 0 (.kfree (b.setWidth 32))

/-- `rdcyc` (R258): `CYC` at issue. -/
def execRdcyc (m : Mv) (s : State) : Out := s.trig m fun _ => s.fly 0x102 1 (.w s.me.ctrl.cyc)

/-- `swtrap` (R258): `Trap(SWTRAP)` with detail B[7:0] and TADDR = C. -/
def execSwtrap (m : Mv) (s : State) : Out := s.trig m fun b => s.raise 0x20 (b.setWidth 8) (s.me.latchW 0x281)

end Sys2Proof.Machine
end

