-- ==== Sys2Proof/Machine/System.lean ====
section
/-! DEFINITION. System: the meanings of the operations of `sys` (spec R259 to R268). -/

namespace Sys2Proof.Machine

open Sys2Proof

/-- `csrr` (R259): the register whose number is B[11:0], read at issue. -/
def execCsrr (m : Mv) (s : State) : Out :=
  s.trig m fun b =>
    match (if b.toNat < 4096 then csrRead s s.ctx.core b.toNat else none) with
    | some v => s.fly 0x104 1 (.w v)
    | none => s.illegal 0x0A

/-- `csrw` (R259): `SRSEED` from the next bundle, without C; any other register at the release of its checkpoint bundle. A register that is not
written is found before a clear C (DESIGN CHOICE, log 93). -/
def execCsrw (m : Mv) (s : State) : Out :=
  s.trig m fun b =>
    let a := s.me.latchW 0x600
    if a.toNat ≥ 4096 || !csrWritable a.toNat then s.illegal 0x0A
    else if a.toNat = 1 then { s with ctx := { s.ctx with srseed := some b } }
    else if !s.ctx.hdr.c then s.illegal 0x09
    else s.eff .va 0 (.csrw a.toNat b)

/-- `launch` (R262): a signal; `sys.lr` is promised its result. -/
def execLaunch (m : Mv) (s : State) : Out :=
  s.trig m fun b =>
    if bits b 58 5 ≠ 0 then s.illegal 0x0A
    else (s.signal none (.launch b)).promise { id := s.freshId, org := s.origin, port := 0x105, place := .va, n := 8 }

/-- `eret` (R263): legal only in the trap handler; it acts at the end of its bundle (R399). -/
def execEret (m : Mv) (s : State) : Out :=
  s.trig m fun _ => if s.me.mode.handler then { s with ctx := { s.ctx with eret := true } } else s.illegal 0x0A

/-- `bkpt` (R264). -/
def execBkpt (m : Mv) (s : State) : Out := s.trig m fun b => if s.me.mode.dbgEn then s.raise 0x21 (b.setWidth 8) else s

/-- `idle` (R265): changes no result and no cycle count. -/
def execIdle (m : Mv) (s : State) : Out := s.trig m fun _ => s

/-- `tlbinv` (R266): performed, with its completion, at the release of its bundle. -/
def execTlbinv (m : Mv) (s : State) : Out :=
  s.trig m fun b =>
    let a := s.me.latchW 0x600
    let c := s.me.latchW 0x601
    if bits c 11 1 = 0 && bits a 56 8 ≠ 0 then s.illegal 0x0A else s.eff .va 0 (.tlbinv a b c)

/-- `l1inv` (R267): performed, with its completion, at the release of its bundle. -/
def execL1inv (m : Mv) (s : State) : Out := s.trig m fun _ => s.eff .va 0 .l1inv

/-- R336: the store words that the routine in execution pins: its range and its entry word. -/
def Cim.pinned (c : Cim) (w : Nat) : Bool :=
  match c.run with
  | some r => r.call.step.isNone && (w = r.call.entry || (r.first ≤ w && w ≤ r.last))
  | none => false

/-- `mpload` (R268): an engine trigger that waits on `sys.w` and produces the token of `sys.k`. -/
def execMpload (m : Mv) (s : State) : Out :=
  s.trig m fun _ =>
    let k := s.me
    let a := k.latchW 0x600
    let c := k.latchW 0x601
    let first := bits c 0 12
    let n := bits c 16 12 + 1
    if bits a 0 3 ≠ 0 || bits a 56 8 ≠ 0 || first + n > 4096 || !engineLatchesOk k s.ctx true (k.latchW 0x604) (k.latchW 0x605) then
      s.illegal 0x0A
    else match (List.range n).find? fun i => k.eng.cim.pinned (first + i) with
      | some i => s.raise 0x06 0 (BitVec.ofNat 64 (first + i))
      | none => s.signal (produceToken (k.latchW 0x605)) (.mpload a c (k.latchW 0x604) (k.latchW 0x605))

end Sys2Proof.Machine
end

