-- ==== Sys2Proof/Machine/LoadStore.lean ====
section
/-! DEFINITION. LoadStore: the meanings of the load-store operations of `ls0` and `ls1` (spec R297 to R303), and the withhold buffer's
bound (R68, R69). -/

namespace Sys2Proof.Machine

open Sys2Proof

/-- Codes of a load-store unit: its latches and its four ports (R229, R240). -/
def lsBase (u : Fin 2) : Nat := 0x440 + 64 * u.val
def lsPort (u : Fin 2) (i : Nat) : Nat := 0x120 + 4 * u.val + i
def Core.lsA (k : Core) (u : Fin 2) : W64 := k.latchW (lsBase u)
def Core.lsC (k : Core) (u : Fin 2) : RowT := k.latchR (lsBase u + 1)
def Core.lsCW (k : Core) (u : Fin 2) : W64 := k.latchW (lsBase u + 1)

/-- A fixed-latency result with its bound in each profile (R214). -/
def State.flyAB (s : State) (port a b : Nat) (v : Val) : State := s.modMe fun k => k.fly port a b v 0

/-- A raised cause as `localCheck` and `remoteCheck` give it. -/
def State.raiseAt (s : State) (t : Byte × Byte × W64) : State := s.raise t.1 t.2.1 t.2.2

/-! ### The withhold buffer (R68, R69) -/

/-- The granules a withheld store occupies: space and 64-byte block; an untranslated store is keyed by its virtual blocks. -/
def Withheld.granules (w : Withheld) : List (Nat × Nat × Nat) :=
  match w.what with
  | .store bs _ =>
    match w.place with
    | .loc off => (pieces 64 (bs.length + 1) off bs.length).map fun p => (0, 0, p.1 / 64)
    | .rem c off => (pieces 64 (bs.length + 1) off bs.length).map fun p => (1, c.val, p.1 / 64)
    | .va => (pieces 64 (bs.length + 1) w.ea.toNat bs.length).map fun p => (3, 0, p.1 / 64)
    | .glob segs => segs.flatMap fun g => (pieces 64 (g.len + 1) g.pa g.len).map fun p => (2, g.home, p.1 / 64)
  | _ => []

def granuleCount (l : List Withheld) : Nat := (l.flatMap Withheld.granules).eraseDups.length

/-- R69: whether the withheld stores need a 257th granule. Where they might, the walks that stores wait for end first, so that two names of one
block share a granule; a store whose translation faults needs none (R68; log 25). -/
def State.overfull (s : State) : Bool × State :=
  if granuleCount s.me.ms.wh ≤ 256 then (false, s)
  else
    let s := s.me.ms.walks.foldl (fun s w => s.settleWalk s.ctx.core true w) s
    (decide (granuleCount (s.me.ms.wh.filter fun w => w.place ≠ .va) > 256), s)

/-- R69: a store enters the withhold buffer, or traps `CKWIN` where it needs a 257th granule. -/
def State.withholdStore (s : State) (place : Place) (ea : W64) (bs : List Byte) (poison : Bool) : State :=
  let (full, s) := (s.withhold place ea (.store bs poison)).overfull
  if full then s.raise 0x02 0 ea else s

/-! ### Local loads and stores -/

/-- A local load of n bytes at EA: the bytes it sees, whether a word is uncorrectable, and the state with correctable errors of the
words repaired (R55). -/
def State.localBytesFor (s : State) (off n : Nat) : List Byte × Bool × State :=
  let k := s.me
  let (bs, bad) := k.loadLocal s.ctx.whN off n
  if off < 0x400000 then
    let (_, k', rs) := k.scrubScratch s.ctx.core off n
    (bs, bad, (s.modMe fun _ => k').addRecs rs)
  else (bs, bad, s)

/-- A scalar scratch load (R299); poisoned data is reported (R400 SRC 4). -/
def ldScalar (u : Fin 2) (m : Mv) (n : Nat) (signed : Bool) (s : State) : Out :=
  s.trig m fun b =>
    let ea := s.me.lsA u + b
    match localCheck s.ctx.core s.me 0 n n true ea with
    | some t => s.raiseAt t
    | none =>
      let (bs, bad, s) := s.localBytesFor ea.toNat n
      let s := if bad then
          (s.modMe fun k => k.report s.origin cPoison 4 ea).addRec (consumeRec s.ctx.core s.me 1 ea)
        else s
      s.flyAB (lsPort u 0) 4 6 (loadVal false signed false n bs)

/-- A scalar scratch store (R299); withheld. -/
def stScalar (u : Fin 2) (m : Mv) (n : Nat) (s : State) : Out :=
  s.trig m fun b =>
    let ea := s.me.lsA u
    match localCheck s.ctx.core s.me 1 n n true ea with
    | some t => s.raiseAt t
    | none => s.withholdStore (.loc ea.toNat) ea (leBytes n b.toNat) false

/-- `vld` (R299): a scratch row; its tag per R55. -/
def execVld (u : Fin 2) (m : Mv) (s : State) : Out :=
  s.trig m fun b =>
    let ea := s.me.lsA u + b
    match localCheck s.ctx.core s.me 0 8 512 true ea with
    | some t => s.raiseAt t
    | none =>
      let (bs, bad, s) := s.localBytesFor ea.toNat 512
      let s := if bad then s.addRec (coreRec s.ctx.core 0x02 2 1 ea (Config.syndrome 1 ea.toNat) s.me.domain) else s
      s.flyAB (lsPort u 1) 5 7 (loadVal true false bad 512 bs)

/-- `vst` (R299): stores row B, marking poisoned data (R200); withheld. -/
def execVst (u : Fin 2) (m : Mv) (s : State) : Out :=
  s.trigR m fun r =>
    let ea := s.me.lsA u
    match localCheck s.ctx.core s.me 1 8 512 true ea with
    | some t => s.raiseAt t
    | none => s.withholdStore (.loc ea.toNat) ea (rowBytes r.data) (r.tag.getLsbD 0)

/-! ### Gather and scatter (R300, R301) -/

/-- Element size in bytes by ESZ; 0 for the reserved code. -/
def eszBytes (a : W64) : Nat := match bits a 62 2 with | 0 => 4 | 1 => 8 | 2 => 2 | _ => 0

/-- The offsets named by the lanes of an index row: `none` for a skip index. -/
def gatherOffsets (a : W64) (idx : Row) : List (Option Nat) :=
  let e := eszBytes a
  (List.range (512 / e)).map fun j =>
    let x := lane (8 * e) idx j
    if x = 2 ^ (8 * e) - 1 then none else some (bits a 0 23 + x * e)

/-- The smallest number of a list. -/
def leastOf (l : List Nat) : Option Nat := l.foldl (fun b x => match b with | none => some x | some y => some (min x y)) none

/-- The checks of a gather (kind 0) or scatter (kind 1): the base, then every element's range, then the granules. -/
def gatherCheck (s : State) (a : W64) (kind : Nat) (offs : List Nat) : Option (Byte × Byte × W64) :=
  let e := eszBytes a
  let bad := fun (x : Nat) => some (cScratchaddr, BitVec.ofNat 8 (kind * 8), BitVec.ofNat 64 x)
  if bits a 23 39 ≠ 0 || bits a 0 23 % e ≠ 0 then bad (bits a 0 62)
  else match leastOf (offs.filter fun o => o + e > 0x400000) with
    | some o => bad o
    | none =>
      match leastOf (offs.filter fun o => !granuleOk s.ctx.core s.me (some s.ctx.core) kind (o / 4096)) with
      | some o => some (cScratchown, ownDetail (s.me.ownState o) kind false, BitVec.ofNat 64 o)
      | none => none

/-- R217: the most distinct bank words that one bank must supply, minus one. -/
def gatherConflict (words : List Nat) : Nat :=
  ((List.range 64).foldl (fun mx b => max mx ((words.filter fun w => w % 64 = b).length)) 0) - 1

/-- `vldg` (R300, R301): one read per distinct bank word. -/
def execVldg (u : Fin 2) (m : Mv) (s : State) : Out :=
  s.trigRS 1 m fun r =>
    let a := s.me.lsA u
    let e := eszBytes a
    if e = 0 then s.illegal 0x0A
    else
      let lanes := gatherOffsets a r.data
      let offs := lanes.filterMap id
      match gatherCheck s a 0 offs with
      | some t => s.raiseAt t
      | none =>
        let words := (offs.map fun o => o / 8).eraseDups
        let v := s.me.withLocal (s.me.ms.wh.take s.ctx.whN)
        let bad := words.any fun w => v.loc.badWords.contains w
        let data := lanes.map fun o => match o with | some o => leNat (v.localBytes o e) | none => 0
        let k := gatherConflict words
        let ce := words.filter fun w => s.me.loc.ceWords.contains w
        let s := s.modMe fun k => { k with loc.ceWords := k.loc.ceWords.filter fun w => !ce.contains w }
        let s := s.addRecs ((ce.map fun w => coreRec s.ctx.core 0x01 1 1 (BitVec.ofNat 64 (w * 8)) (Config.syndrome 1 w) s.me.domain) ++
          ((words.filter fun w => v.loc.badWords.contains w).map fun w =>
            coreRec s.ctx.core 0x02 2 1 (BitVec.ofNat 64 (w * 8)) (Config.syndrome 1 w) s.me.domain))
        let s := { s with ctx := { s.ctx with stall := max s.ctx.stall k } }
        s.flyAB (lsPort u 1) (6 + k) (8 + k) (.r ⟨ofLanes (8 * e) data, memTag bad⟩)

/-- `vsts` (R300, R301): lanes enter the withhold buffer in ascending order; a poisoned index row is a scalar consumption. -/
def execVsts (u : Fin 2) (m : Mv) (s : State) : Out :=
  s.trigR m fun r =>
    let a := s.me.lsA u
    let e := eszBytes a
    let idx := s.me.lsC u
    if idx.tag.getLsbD 0 then s.raise cPoison 1
    else if e = 0 then s.illegal 0x0A
    else
      let lanes := gatherOffsets a idx.data
      match gatherCheck s a 1 (lanes.filterMap id) with
      | some t => s.raiseAt t
      | none =>
        let stores := (lanes.zip (List.range lanes.length)).filterMap fun p => p.1.map fun o => (o, leBytes e (lane (8 * e) r.data p.2))
        let s' := stores.foldl (fun s p => s.withhold (.loc p.1) (BitVec.ofNat 64 p.1) (.store p.2 (r.tag.getLsbD 0))) s
        let (full, s') := s'.overfull
        if full then
          let needs := fun (i : Nat) => granuleCount ((s'.me.ms.wh.take (s.me.ms.wh.length + i + 1)).filter fun w => w.place ≠ .va) > 256
          s'.raise 0x02 0 (BitVec.ofNat 64 ((((List.range stores.length).find? needs).bind fun i => stores[i]?).map Prod.fst |>.getD 0))
        else s'

/-! ### Global accesses (R302) -/

/-- R398: a load or store of the handler to its stack area. -/
def State.touchStack (s : State) (ea : W64) (n : Nat) : State :=
  s.modMe fun k =>
    if k.mode.handler && k.mode.stackSeq.isNone && ea.toNat + n > Config.trapPage + 0xC000 && ea.toNat < 2 ^ 56 then
      { k with mode.stackSeq := some k.seq }
    else k

/-- R49: a translation fault found at issue. Walks of lower slots of the bundle end first: the lowest slot that faults is reported. -/
def State.raiseXl (s : State) (c d : Byte) (a : W64) : State :=
  let s := (s.me.ms.walks.filter fun w => w.org.seq = s.me.seq).foldl (fun s w => s.settleWalk s.ctx.core true w) s
  match (s.me.reports.filter fun r => r.seq = s.me.seq && xlCause r.trap.code).foldl (fun (b : Option Report) r =>
      match b with | none => some r | some x => if r.trap.slot.toNat < x.trap.slot.toNat then some r else b) none with
  | some r => { s with cur := { s.cur with slot := r.trap.slot.toNat } }.raise r.trap.code r.trap.detail r.trap.addr
  | none => s.raise c d a

/-- Where a global access goes: translated at issue on a TLB hit, else left to the walker (R45, R220). A fault found at issue cancels
the bundle (R49). -/
def State.globalPlace (s : State) (kind : AccKind) (ea : W64) (n : Nat) : Except State (Place × State) :=
  let s := s.touchStack ea n
  match s.transCore s.ctx.core s.me.domain kind false ea n with
  | (.fault c d a, s) => .error (s.raiseXl c d a)
  | (.ok segs, s) => .ok (.glob segs, s)
  | (.miss, s) =>
    let w : Walk := ⟨s.freshId, s.origin, ea, n, kind, s.clock⟩
    .ok (.va, s.modMe fun k => { k with ms.walks := k.ms.walks ++ [w] })

/-- A global load of n bytes at EA, promised to a port. -/
def globalLoad (port : Nat) (kind : AccKind) (align n : Nat) (signed row : Bool) (ea : W64) (s : State) : State :=
  if ea.toNat % align ≠ 0 then (s.touchStack ea n).raise cGalign (preDetail kind) ea
  else match s.globalPlace kind ea n with
    | .error s => s
    | .ok (pl, s) =>
      (s.promise { id := s.freshId, org := s.origin, port := port, place := pl, ea := ea, n := n, signed := signed, row := row, whN := s.ctx.whN }).bumpId

/-- A global store of bytes at EA; withheld. -/
def globalStore (align : Nat) (bs : List Byte) (poison : Bool) (ea : W64) (s : State) : State :=
  if ea.toNat % align ≠ 0 then (s.touchStack ea bs.length).raise cGalign (preDetail .store) ea
  else match s.globalPlace .store ea bs.length with
    | .error s => s
    | .ok (pl, s) => s.withholdStore pl ea bs poison

/-- The size of `gld` and `gst` by C[1:0] (R302). -/
def gSize (c : W64) : Nat := match bits c 0 2 with | 0 => 8 | 1 => 1 | 2 => 2 | _ => 4

/-- `gld` (R302). -/
def execGld (u : Fin 2) (m : Mv) (s : State) : Out :=
  s.trig m fun b =>
    let c := s.me.lsCW u
    globalLoad (lsPort u 2) .load (gSize c) (gSize c) (bits c 2 1 = 1) false (s.me.lsA u + b) s

/-- `gst` (R302). -/
def execGst (u : Fin 2) (m : Mv) (s : State) : Out :=
  s.trig m fun b =>
    let n := gSize (s.me.lsCW u)
    globalStore n (leBytes n b.toNat) false (s.me.lsA u) s

/-- `gvld` (R299, R302). -/
def execGvld (u : Fin 2) (m : Mv) (s : State) : Out :=
  s.trig m fun b => globalLoad (lsPort u 3) .load 8 512 false true (s.me.lsA u + b) s

/-- `gvst` (R299, R302). -/
def execGvst (u : Fin 2) (m : Mv) (s : State) : Out :=
  s.trigR m fun r => globalStore 8 (rowBytes r.data) (r.tag.getLsbD 0) (s.me.lsA u) s

/-! ### Remote scratch accesses (R31, R299) -/

/-- A remote load of n bytes: on the local path where it names the own core, else left to its arrival at the home core (R77). -/
def remoteLoad (port n align : Nat) (row : Bool) (ea : W64) (s : State) : State :=
  match remoteCheck s 0 align n ea with
  | some t => s.raiseAt t
  | none =>
    let home := coreId (ea.toNat / 2 ^ 23)
    let off := ea.toNat % 2 ^ 23
    if home = s.ctx.core then
      match localCheck s.ctx.core s.me 0 align n false (BitVec.ofNat 64 off) with
      | some t => s.raiseAt t
      | none =>
        let (bs, bad, s) := s.localBytesFor off n
        let s := if bad && !row then (s.modMe fun k => k.report s.origin cPoison 4 (BitVec.ofNat 64 off)).addRec
            (consumeRec s.ctx.core s.me 1 (BitVec.ofNat 64 off))
          else if bad then s.addRec (coreRec s.ctx.core 0x02 2 1 (BitVec.ofNat 64 off) (Config.syndrome 1 off) s.me.domain) else s
        (s.promise { id := s.freshId, org := s.origin, port := port, place := .loc off, ea := ea, n := n, row := row, got := some (loadVal row false bad n bs) }).bumpId
    else
      (s.promise { id := s.freshId, org := s.origin, port := port, place := .rem home off, ea := ea, n := n, row := row, whN := s.ctx.whN }).bumpId

/-- `xld` (R299). -/
def execXld (u : Fin 2) (m : Mv) (s : State) : Out := s.trig m fun b => remoteLoad (lsPort u 2) 8 8 false (s.me.lsA u + b) s

/-- `xvld` (R299). -/
def execXvld (u : Fin 2) (m : Mv) (s : State) : Out := s.trig m fun b => remoteLoad (lsPort u 3) 512 8 true (s.me.lsA u + b) s

/-- `xst` (R299); withheld. -/
def execXst (u : Fin 2) (m : Mv) (s : State) : Out :=
  s.trig m fun b =>
    let ea := s.me.lsA u
    match remoteCheck s 1 8 8 ea with
    | some t => s.raiseAt t
    | none =>
      let home := coreId (ea.toNat / 2 ^ 23)
      let off := ea.toNat % 2 ^ 23
      if home = s.ctx.core then
        match localCheck s.ctx.core s.me 1 8 8 false (BitVec.ofNat 64 off) with
        | some t => s.raiseAt t
        | none => s.withholdStore (.loc off) (BitVec.ofNat 64 off) (leBytes 8 b.toNat) false
      else s.withholdStore (.rem home off) ea (leBytes 8 b.toNat) false

/-- `pref` (R303): the line that holds EA goes to the L1 or to Canopy by class; a translation fault discards it (R45), and so does an L1 set in
which no way is free for it (R118). -/
def execPref (u : Fin 2) (m : Mv) (s : State) : Out :=
  s.trig m fun b =>
    let ea := s.me.lsA u + b
    match s.transCore s.ctx.core s.me.domain .load true ea 1 with
    | (.ok [g], s) =>
      if g.cls = 0 || g.cls = 5 then if s.me.fillWaits [g] then s else (s.l1Load s.ctx.core true false g g.pa 1).2.2
      else if (g.cls = 1 || g.cls = 2 || g.cls = 4) && (g.home = 0 || g.home = 14) then
        let r := s.mem.readSeg g
        { s with mem := r.mem }.addRecs (byCore s.ctx.core s.me.domain r.recs)
      else s
    | (_, s) => s

/-- `lds8` (R299). -/
def execLds8 (u : Fin 2) (m : Mv) (s : State) : Out := ldScalar u m 1 true s

/-- `ldz8` (R299). -/
def execLdz8 (u : Fin 2) (m : Mv) (s : State) : Out := ldScalar u m 1 false s

/-- `lds16` (R299). -/
def execLds16 (u : Fin 2) (m : Mv) (s : State) : Out := ldScalar u m 2 true s

/-- `ldz16` (R299). -/
def execLdz16 (u : Fin 2) (m : Mv) (s : State) : Out := ldScalar u m 2 false s

/-- `lds32` (R299). -/
def execLds32 (u : Fin 2) (m : Mv) (s : State) : Out := ldScalar u m 4 true s

/-- `ldz32` (R299). -/
def execLdz32 (u : Fin 2) (m : Mv) (s : State) : Out := ldScalar u m 4 false s

/-- `ld64` (R299). -/
def execLd64 (u : Fin 2) (m : Mv) (s : State) : Out := ldScalar u m 8 false s

/-- `st8` (R299). -/
def execSt8 (u : Fin 2) (m : Mv) (s : State) : Out := stScalar u m 1 s

/-- `st16` (R299). -/
def execSt16 (u : Fin 2) (m : Mv) (s : State) : Out := stScalar u m 2 s

/-- `st32` (R299). -/
def execSt32 (u : Fin 2) (m : Mv) (s : State) : Out := stScalar u m 4 s

/-- `st64` (R299). -/
def execSt64 (u : Fin 2) (m : Mv) (s : State) : Out := stScalar u m 8 s

end Sys2Proof.Machine
end

