-- ==== Sys2Proof/Machine/Scalar.lean ====
section
/-! DEFINITION. Scalar: the meanings of the operations of `sa0` and `sa1` (spec R244 to R251) and of `pr` (R252). -/

namespace Sys2Proof.Machine

open Sys2Proof

/-- A scalar operation on unit u: R := f A B C M on the unit's result port, within the bound of its class (R214, R244). -/
def saOp (u : Fin 2) (m : Mv) (bound : Nat) (f : (a b c mm : W64) → W64) (s : State) : Out :=
  s.trig m fun b =>
    let k := s.me
    let base := 0x200 + 64 * u.val
    s.fly (0x100 + u.val) bound (.w (f (k.latchW base) b (k.latchW (base + 1)) (k.latchW (base + 2))))

def bool64 (b : Bool) : W64 := if b then 1 else 0

/-- Shift counts use only B[5:0] (R247). -/
def shamt (b : W64) : Nat := bits b 0 6

/-- R248. -/
def divS (a b : W64) : W64 := if b = 0 then BitVec.allOnes 64 else BitVec.ofInt 64 (a.toInt.tdiv b.toInt)
def divU (a b : W64) : W64 := if b = 0 then BitVec.allOnes 64 else BitVec.ofNat 64 (a.toNat / b.toNat)
def remS (a b : W64) : W64 := if b = 0 then a else BitVec.ofInt 64 (a.toInt.tmod b.toInt)
def remU (a b : W64) : W64 := if b = 0 then a else BitVec.ofNat 64 (a.toNat % b.toNat)

/-- R249: the truth table of M[7:0] on bit i. -/
def lut3 (a b c mm : W64) : W64 :=
  BitVec.ofNat 64 (lanesNat 1 ((List.range 64).map fun i => bits mm (4 * bits a i 1 + 2 * bits b i 1 + bits c i 1) 1))

/-- The number of one bits. -/
def popcN (n v : Nat) : Nat := (List.range n).foldl (fun acc i => acc + nb v i 1) 0

/-- The number of leading zeros of an n-bit value. -/
def clzN (n v : Nat) : Nat := n - bitLen v

/-- The number of trailing zeros of an n-bit value; n for zero. -/
def ctzN (n v : Nat) : Nat := ((List.range n).find? fun i => nb v i 1 = 1).getD n

def brev64 (b : W64) : W64 := BitVec.ofNat 64 (lanesNat 1 ((List.range 64).map fun i => bits b (63 - i) 1))

def bswap64 (b : W64) : W64 := BitVec.ofNat 64 (leNat (leBytes 8 b.toNat).reverse)

/-- R250. -/
def bfx (a b : W64) : W64 :=
  let w := bits b 8 6 + 1
  let f := a.toNat / 2 ^ bits b 0 6
  if bits b 16 1 = 1 then sextN w f else BitVec.ofNat 64 (f % 2 ^ w)

def bfi (a b c : W64) : W64 :=
  let pos := bits b 0 6
  let mask : W64 := BitVec.ofNat 64 ((2 ^ (bits b 8 6 + 1) - 1) * 2 ^ pos)
  (a &&& ~~~mask) ||| ((c <<< pos) &&& mask)

/-- The width n of `sext` and `zext` (R247): B[5:0], 64 for zero. -/
def extWidth (b : W64) : Nat := if bits b 0 6 = 0 then 64 else bits b 0 6

/-- `RoundNE(x / 2^n, integer)` of R10 on integers. -/
def roundNEshift (x : Int) (n : Nat) : Int :=
  let d : Int := 2 ^ n
  let q := x / d
  let r := x % d
  if 2 * r > d || (2 * r = d && q % 2 = 1) then q + 1 else q

/-- `SatS(v, n)` and `SatZ(v, n)` of R10. -/
def satS (n : Nat) (v : Int) : Int := max (-(2 ^ (n - 1))) (min v (2 ^ (n - 1) - 1))
def satZ (n : Nat) (v : Int) : Int := max 0 (min v (2 ^ n - 1))

/-- R251: a `c16` product in Q15, real and imaginary part, rounded to nearest even and saturated. -/
def cmulQ15 (a b : Nat) (conj : Bool) : Nat :=
  let ar := sint 16 a
  let ai := sint 16 (a / 65536)
  let br := sint 16 b
  let bi := if conj then - sint 16 (b / 65536) else sint 16 (b / 65536)
  low 16 (satS 16 (roundNEshift (ar * br - ai * bi) 15)) + 65536 * low 16 (satS 16 (roundNEshift (ar * bi + ai * br) 15))

def cmul16 (a b c : W64) : W64 :=
  BitVec.ofNat 64 (lanesNat 32 ((List.range 2).map fun e => cmulQ15 (bits a (32 * e) 32) (bits b (32 * e) 32) (bits c 0 1 = 1)))

/-- `add` (R247). -/
def execAdd (u : Fin 2) (m : Mv) (s : State) : Out := saOp u m 1 (fun a b _ _ => a + b) s

/-- `sub` (R247). -/
def execSub (u : Fin 2) (m : Mv) (s : State) : Out := saOp u m 1 (fun a b _ _ => a - b) s

/-- `addw` (R247). -/
def execAddw (u : Fin 2) (m : Mv) (s : State) : Out := saOp u m 1 (fun a b _ _ => sextN 32 (a + b).toNat) s

/-- `subw` (R247). -/
def execSubw (u : Fin 2) (m : Mv) (s : State) : Out := saOp u m 1 (fun a b _ _ => sextN 32 (a - b).toNat) s

/-- `mul` (R247). -/
def execMul (u : Fin 2) (m : Mv) (s : State) : Out := saOp u m 3 (fun a b _ _ => a * b) s

/-- `mulh` (R247). -/
def execMulh (u : Fin 2) (m : Mv) (s : State) : Out := saOp u m 3 (fun a b _ _ => BitVec.ofInt 64 (a.toInt * b.toInt / 2 ^ 64)) s

/-- `mulhz` (R247). -/
def execMulhz (u : Fin 2) (m : Mv) (s : State) : Out := saOp u m 3 (fun a b _ _ => BitVec.ofNat 64 (a.toNat * b.toNat / 2 ^ 64)) s

/-- `div` (R248). -/
def execDiv (u : Fin 2) (m : Mv) (s : State) : Out := saOp u m 18 (fun a b _ _ => divS a b) s

/-- `divz` (R248). -/
def execDivz (u : Fin 2) (m : Mv) (s : State) : Out := saOp u m 18 (fun a b _ _ => divU a b) s

/-- `rem` (R248). -/
def execRem (u : Fin 2) (m : Mv) (s : State) : Out := saOp u m 18 (fun a b _ _ => remS a b) s

/-- `remz` (R248). -/
def execRemz (u : Fin 2) (m : Mv) (s : State) : Out := saOp u m 18 (fun a b _ _ => remU a b) s

/-- `and` (R247). -/
def execAnd (u : Fin 2) (m : Mv) (s : State) : Out := saOp u m 1 (fun a b _ _ => a &&& b) s

/-- `or` (R247). -/
def execOr (u : Fin 2) (m : Mv) (s : State) : Out := saOp u m 1 (fun a b _ _ => a ||| b) s

/-- `xor` (R247). -/
def execXor (u : Fin 2) (m : Mv) (s : State) : Out := saOp u m 1 (fun a b _ _ => a ^^^ b) s

/-- `andn` (R247). -/
def execAndn (u : Fin 2) (m : Mv) (s : State) : Out := saOp u m 1 (fun a b _ _ => a &&& ~~~b) s

/-- `orn` (R247). -/
def execOrn (u : Fin 2) (m : Mv) (s : State) : Out := saOp u m 1 (fun a b _ _ => a ||| ~~~b) s

/-- `lut3` (R249). -/
def execLut3 (u : Fin 2) (m : Mv) (s : State) : Out := saOp u m 1 (fun a b c mm => lut3 a b c mm) s

/-- `shl` (R247). -/
def execShl (u : Fin 2) (m : Mv) (s : State) : Out := saOp u m 1 (fun a b _ _ => a <<< shamt b) s

/-- `shr` (R247). -/
def execShr (u : Fin 2) (m : Mv) (s : State) : Out := saOp u m 1 (fun a b _ _ => a >>> shamt b) s

/-- `sra` (R247). -/
def execSra (u : Fin 2) (m : Mv) (s : State) : Out := saOp u m 1 (fun a b _ _ => a.sshiftRight (shamt b)) s

/-- `rotl` (R247). -/
def execRotl (u : Fin 2) (m : Mv) (s : State) : Out := saOp u m 1 (fun a b _ _ => a.rotateLeft (shamt b)) s

/-- `clz` (R247). -/
def execClz (u : Fin 2) (m : Mv) (s : State) : Out := saOp u m 1 (fun _ b _ _ => BitVec.ofNat 64 (clzN 64 b.toNat)) s

/-- `ctz` (R247). -/
def execCtz (u : Fin 2) (m : Mv) (s : State) : Out := saOp u m 1 (fun _ b _ _ => BitVec.ofNat 64 (ctzN 64 b.toNat)) s

/-- `popc` (R247). -/
def execPopc (u : Fin 2) (m : Mv) (s : State) : Out := saOp u m 1 (fun _ b _ _ => BitVec.ofNat 64 (popcN 64 b.toNat)) s

/-- `brev` (R247). -/
def execBrev (u : Fin 2) (m : Mv) (s : State) : Out := saOp u m 1 (fun _ b _ _ => brev64 b) s

/-- `bswap` (R247). -/
def execBswap (u : Fin 2) (m : Mv) (s : State) : Out := saOp u m 1 (fun _ b _ _ => bswap64 b) s

/-- `min` (R247). -/
def execMin (u : Fin 2) (m : Mv) (s : State) : Out := saOp u m 1 (fun a b _ _ => if a.toInt ≤ b.toInt then a else b) s

/-- `max` (R247). -/
def execMax (u : Fin 2) (m : Mv) (s : State) : Out := saOp u m 1 (fun a b _ _ => if a.toInt ≥ b.toInt then a else b) s

/-- `minz` (R247). -/
def execMinz (u : Fin 2) (m : Mv) (s : State) : Out := saOp u m 1 (fun a b _ _ => if a.toNat ≤ b.toNat then a else b) s

/-- `maxz` (R247). -/
def execMaxz (u : Fin 2) (m : Mv) (s : State) : Out := saOp u m 1 (fun a b _ _ => if a.toNat ≥ b.toNat then a else b) s

/-- `eq` (R247). -/
def execEq (u : Fin 2) (m : Mv) (s : State) : Out := saOp u m 1 (fun a b _ _ => bool64 (a = b)) s

/-- `ne` (R247). -/
def execNe (u : Fin 2) (m : Mv) (s : State) : Out := saOp u m 1 (fun a b _ _ => bool64 (a ≠ b)) s

/-- `lt` (R247). -/
def execLt (u : Fin 2) (m : Mv) (s : State) : Out := saOp u m 1 (fun a b _ _ => bool64 (a.toInt < b.toInt)) s

/-- `le` (R247). -/
def execLe (u : Fin 2) (m : Mv) (s : State) : Out := saOp u m 1 (fun a b _ _ => bool64 (a.toInt ≤ b.toInt)) s

/-- `ltz` (R247). -/
def execLtz (u : Fin 2) (m : Mv) (s : State) : Out := saOp u m 1 (fun a b _ _ => bool64 (a.toNat < b.toNat)) s

/-- `lez` (R247). -/
def execLez (u : Fin 2) (m : Mv) (s : State) : Out := saOp u m 1 (fun a b _ _ => bool64 (a.toNat ≤ b.toNat)) s

/-- `bfx` (R250). -/
def execBfx (u : Fin 2) (m : Mv) (s : State) : Out := saOp u m 1 (fun a b _ _ => bfx a b) s

/-- `bfi` (R250). -/
def execBfi (u : Fin 2) (m : Mv) (s : State) : Out := saOp u m 1 (fun a b c _ => bfi a b c) s

/-- `sext` (R247). -/
def execSext (u : Fin 2) (m : Mv) (s : State) : Out := saOp u m 1 (fun a b _ _ => sextN (extWidth b) a.toNat) s

/-- `zext` (R247). -/
def execZext (u : Fin 2) (m : Mv) (s : State) : Out := saOp u m 1 (fun a b _ _ => BitVec.ofNat 64 (a.toNat % 2 ^ extWidth b)) s

/-- `cmul16` (R251). -/
def execCmul16 (u : Fin 2) (m : Mv) (s : State) : Out := saOp u m 3 (fun a b c _ => cmul16 a b c) s

/-! ### Predicate logic (R252) -/

/-- An operation of `pr`: a 0 or 1 on `pr.r`, from A, B and the predicates as they stood at issue. -/
def prOp (m : Mv) (f : (a b : W64) → Bool) (s : State) : Out :=
  s.trig m fun b => s.fly 0x103 1 (.w (bool64 (f (s.me.latchW 0x2C0) b)))

/-- The predicates f to f + n - 1 of B; where f + n > 96 the trigger is illegal with detail `0x0A`. -/
def prRange (m : Mv) (all : Bool) (s : State) : Out :=
  s.trig m fun b =>
    let f := bits b 0 7
    let n := bits b 8 7 + 1
    if f + n > 96 then s.illegal 0x0A
    else
      let v := (List.range n).map fun i => if h : f + i < 96 then s.me.regs.getP ⟨f + i, h⟩ else false
      s.fly 0x103 1 (.w (bool64 (if all then v.all id else v.any id)))

/-- `pand` (R252). -/
def execPand (m : Mv) (s : State) : Out := prOp m (fun a b => a ≠ 0 && b ≠ 0) s

/-- `por` (R252). -/
def execPor (m : Mv) (s : State) : Out := prOp m (fun a b => a ≠ 0 || b ≠ 0) s

/-- `pxor` (R252). -/
def execPxor (m : Mv) (s : State) : Out := prOp m (fun a b => Bool.xor (a ≠ 0) (b ≠ 0)) s

/-- `pnot` (R252). -/
def execPnot (m : Mv) (s : State) : Out := prOp m (fun _ b => b = 0) s

/-- `pany` (R252). -/
def execPany (m : Mv) (s : State) : Out := prRange m false s

/-- `pall` (R252). -/
def execPall (m : Mv) (s : State) : Out := prRange m true s

end Sys2Proof.Machine
end

