-- ==== Sys2Proof/Machine/Num.lean ====
section
/-! DEFINITION. Num: the number formats, exact arithmetic and rounding of spec R172 to R185, R197 and R305. A finite value is kept
exact, as a sign, a quotient of naturals and a power of two, and is rounded once. -/

namespace Sys2Proof.Machine

open Sys2Proof

/-- The element types of R233. -/
inductive Ty where
  | s8 | z8 | s16 | z16 | s32 | z32 | s64 | z64
  | f32 | f16 | bf16 | c16 | cbf16
  | e4m3 | e5m2 | e3m2 | e2m3 | e2m1 | e8m0
  deriving DecidableEq, Repr, Inhabited

/-- The codes of R233. -/
def Ty.ofCode (n : Nat) : Option Ty :=
  [Ty.s8, .z8, .s16, .z16, .s32, .z32, .s64, .z64, .f32, .f16, .bf16, .c16, .cbf16, .e4m3, .e5m2, .e3m2, .e2m3, .e2m1, .e8m0][n]?

/-- The lane width w of R270. -/
def Ty.width : Ty → Nat
  | .s8 | .z8 | .e4m3 | .e5m2 | .e8m0 | .e3m2 | .e2m3 => 8
  | .e2m1 => 4
  | .s16 | .z16 | .f16 | .bf16 => 16
  | .s32 | .z32 | .f32 | .c16 | .cbf16 => 32
  | .s64 | .z64 => 64

def Ty.lanes (t : Ty) : Nat := 4096 / t.width

/-- The classes I, F, X and N of R270. -/
def Ty.isI : Ty → Bool
  | .s8 | .z8 | .s16 | .z16 | .s32 | .z32 | .s64 | .z64 => true
  | _ => false

def Ty.isF : Ty → Bool
  | .f32 | .f16 | .bf16 => true
  | _ => false

def Ty.isX : Ty → Bool
  | .c16 | .cbf16 => true
  | _ => false

def Ty.isN : Ty → Bool
  | .e4m3 | .e5m2 | .e3m2 | .e2m3 | .e2m1 | .e8m0 => true
  | _ => false

def Ty.signed : Ty → Bool
  | .s8 | .s16 | .s32 | .s64 => true
  | _ => false

/-- Types whose lanes hold a 6-bit code (R270): bits [7:6] are written as zero. -/
def Ty.six : Ty → Bool
  | .e3m2 | .e2m3 => true
  | _ => false

/-! ### Exact values -/

/-- An exact value: a NaN, an infinity, or (-1)^neg × (num / den) × 2^exp. -/
inductive Fv where
  | nan
  | inf (neg : Bool)
  | fin (neg : Bool) (num den : Nat) (exp : Int)
  deriving DecidableEq, Repr, Inhabited

/-- The shape of a floating-point format: exponent and mantissa bits, bias, the largest finite code, its infinity and its NaN. -/
structure Fmt where
  ebits : Nat
  mbits : Nat
  bias : Int
  maxCode : Nat
  infCode : Option Nat
  nanCode : Option Nat
  /-- whether overflow follows IEEE 754-2019 (R180) -/
  ieee : Bool
  deriving DecidableEq, Repr, Inhabited

/-- R175, R177. -/
def fmtF32 : Fmt := ⟨8, 23, 127, 0x7F7FFFFF, some 0x7F800000, some 0x7FC00000, true⟩
def fmtF16 : Fmt := ⟨5, 10, 15, 0x7BFF, some 0x7C00, some 0x7E00, true⟩
def fmtBf16 : Fmt := ⟨8, 7, 127, 0x7F7F, some 0x7F80, some 0x7FC0, true⟩
def fmtE4m3 : Fmt := ⟨4, 3, 7, 0x7E, none, some 0x7F, false⟩
def fmtE5m2 : Fmt := ⟨5, 2, 15, 0x7B, some 0x7C, some 0x7E, false⟩
def fmtE3m2 : Fmt := ⟨3, 2, 3, 0x1F, none, none, false⟩
def fmtE2m3 : Fmt := ⟨2, 3, 1, 0x1F, none, none, false⟩
def fmtE2m1 : Fmt := ⟨2, 1, 1, 0x7, none, none, false⟩

/-- The format of a floating-point element type. -/
def Ty.fmt : Ty → Option Fmt
  | .f32 => some fmtF32
  | .f16 => some fmtF16
  | .bf16 => some fmtBf16
  | .e4m3 => some fmtE4m3
  | .e5m2 => some fmtE5m2
  | .e3m2 => some fmtE3m2
  | .e2m3 => some fmtE2m3
  | .e2m1 => some fmtE2m1
  | _ => none

/-- The bit position of the sign. -/
def Fmt.signPos (f : Fmt) : Nat := f.ebits + f.mbits

/-- The value of a code (R175, R177). -/
def Fmt.decode (f : Fmt) (code : Nat) : Fv :=
  let neg := nb code f.signPos 1 = 1
  let mag := nb code 0 f.signPos
  let e := nb code f.mbits f.ebits
  let m := nb code 0 f.mbits
  if f.infCode = some mag then .inf neg
  else if mag > f.maxCode then .nan
  else if e = 0 then .fin neg m 1 (1 - f.bias - f.mbits)
  else .fin neg (2 ^ f.mbits + m) 1 (e - f.bias - f.mbits)

/-- The exact value of an element of a type (R172, R177, R185, R276); complex types have none. -/
def Ty.value (t : Ty) (x : Nat) : Fv :=
  match t.fmt with
  | some f => f.decode x
  | none =>
    match t with
    | .e8m0 => if x % 256 = 255 then .nan else .fin false 1 1 (((x % 256 : Nat) : Int) - 127)
    | _ =>
      if t.signed then
        let v := sint t.width x
        .fin (decide (v < 0)) v.natAbs 1 0
      else .fin false (x % 2 ^ t.width) 1 0

/-! ### Rounding (R179 to R184) -/

/-- The rounding modes of R179. -/
inductive Rm where
  | rne | rtz | rdn | rup
  /-- stochastic, with the upper half of the hash -/
  | sr (h : Nat)
  deriving DecidableEq, Repr, Inhabited

/-- R183. -/
def srMix (z : W64) : W64 :=
  let z := (z ^^^ (z >>> 30)) * 0xBF58476D1CE4E5B9
  let z := (z ^^^ (z >>> 27)) * 0x94D049BB133111EB
  z ^^^ (z >>> 31)

def srHash (seed : W64) (stream index : Nat) : W64 :=
  let z := seed ^^^ (BitVec.ofNat 64 (stream % 2 ^ 24) * 0x9E3779B97F4A7C15)
  srMix (srMix z ^^^ BitVec.ofNat 64 (index % 2 ^ 40))

/-- The rounding of lane k under mode code rm and SR operand a (R182, R184). -/
def rmOf (rm : Nat) (seed a : W64) (k : Nat) : Rm :=
  match rm with
  | 0 => .rne
  | 1 => .rtz
  | 2 => .rdn
  | 3 => .rup
  | _ => .sr (bits (srHash seed (bits a 40 24) (bits a 0 40 + k)) 32 32)

/-- Floor of log2 of num / den. -/
def log2Q (num den : Nat) : Int :=
  let d : Int := (Nat.log2 num : Int) - Nat.log2 den
  if num * 2 ^ Nat.log2 den ≥ den * 2 ^ Nat.log2 num then d else d - 1

/-- (num / den) × 2^e as a quotient of naturals. -/
def scaleQ (num den : Nat) (e : Int) : Nat × Nat :=
  if e ≥ 0 then (num * 2 ^ e.toNat, den) else (num, den * 2 ^ (-e).toNat)

/-- A non-negative quotient rounded to a natural number, given the sign of the value. -/
def roundQ (rm : Rm) (neg : Bool) (num den : Nat) : Nat :=
  let q := num / den
  let r := num % den
  let up := match rm with
    | .rne => decide (2 * r > den) || (decide (2 * r = den) && q % 2 = 1)
    | .rtz => false
    | .rdn => neg && decide (r ≠ 0)
    | .rup => !neg && decide (r ≠ 0)
    | .sr h => decide (r * 2 ^ 32 / den + h ≥ 2 ^ 32)
  if up then q + 1 else q

/-- The magnitude code of a rounded value, with unbounded exponent range: beyond `maxCode` it overflows. -/
def Fmt.roundMag (f : Fmt) (rm : Rm) (neg : Bool) (num den : Nat) (exp : Int) : Nat :=
  if num = 0 then 0
  else
    let e := max (log2Q num den + exp) (1 - f.bias)
    let u := e - f.mbits
    let (n, d) := scaleQ num den (exp - u)
    (e + f.bias - 1).toNat * 2 ^ f.mbits + roundQ rm neg n d

/-- R180: the magnitude a rounded value above the largest finite one becomes. -/
def Fmt.overflowMag (f : Fmt) (rm : Rm) (neg : Bool) : Nat :=
  if !f.ieee then f.maxCode
  else match rm with
    | .rtz => f.maxCode
    | .rdn => if neg then f.infCode.getD f.maxCode else f.maxCode
    | .rup => if neg then f.maxCode else f.infCode.getD f.maxCode
    | _ => f.infCode.getD f.maxCode

/-- A code with its sign. -/
def Fmt.withSign (f : Fmt) (neg : Bool) (mag : Nat) : Nat := (if neg then 2 ^ f.signPos else 0) + mag

/-- R180: the conversion of an exact value to a floating-point format, with the tag events it sets. -/
def Fmt.encode (f : Fmt) (rm : Rm) (v : Fv) : Nat × Byte :=
  match v with
  | .nan => match f.nanCode with | some c => (c, 0) | none => (0, evNan ||| 1)
  | .inf neg => match f.infCode with
    | some c => (f.withSign neg c, 0)
    | none => (f.withSign neg f.maxCode, evNan ||| 1)
  | .fin neg n d e =>
    let m := f.roundMag rm neg n d e
    (f.withSign neg (if m > f.maxCode then f.overflowMag rm neg else m), 0)

/-- The saturation of R10 to w bits, signed or unsigned. -/
def satTo (signed : Bool) (w : Nat) (v : Int) : Int := if signed then satS w v else satZ w v

/-- An exact value rounded to an integer. -/
def roundInt (rm : Rm) (neg : Bool) (num den : Nat) (exp : Int) : Int :=
  let (n, d) := scaleQ num den exp
  let q := roundQ rm neg n d
  if neg then -(q : Int) else q

/-- R180: the conversion of an exact value to an integer format of w bits. -/
def encodeInt (signed : Bool) (w : Nat) (rm : Rm) (v : Fv) : Nat × Byte :=
  match v with
  | .nan => (0, evNan ||| 1)
  | .inf neg => (low w (satTo signed w (if neg then -(2 ^ 64 : Int) else 2 ^ 64)), evNan ||| 1)
  | .fin neg n d e => (low w (satTo signed w (roundInt rm neg n d e)), 0)

/-- R180 for every target type that has values. -/
def Ty.encode (t : Ty) (rm : Rm) (v : Fv) : Nat × Byte :=
  match t.fmt with
  | some f => f.encode rm v
  | none => encodeInt t.signed t.width rm v

/-! ### Exact arithmetic (R176, R197) -/

def Fv.neg : Fv → Fv
  | .nan => .nan
  | .inf n => .inf (!n)
  | .fin n a d e => .fin (!n) a d e

def Fv.abs : Fv → Fv
  | .nan => .nan
  | .inf _ => .inf false
  | .fin _ a d e => .fin false a d e

def Fv.isNan : Fv → Bool
  | .nan => true
  | _ => false

def Fv.isZero : Fv → Bool
  | .fin _ n _ _ => n = 0
  | _ => false

/-- The product; ∞ × 0 is a NaN. -/
def Fv.mul (a b : Fv) : Fv :=
  match a, b with
  | .nan, _ => .nan
  | _, .nan => .nan
  | .inf m, .inf n => .inf (Bool.xor m n)
  | .inf m, .fin n x _ _ => if x = 0 then .nan else .inf (Bool.xor m n)
  | .fin m x _ _, .inf n => if x = 0 then .nan else .inf (Bool.xor m n)
  | .fin m x d e, .fin n y d' e' => .fin (Bool.xor m n) (x * y) (d * d') (e + e')

/-- A finite dyadic value in units of 2^u, where u is at most its exponent. -/
def Fv.units (u : Int) : Fv → Int
  | .fin neg n _ e => (if neg then -1 else 1) * ((n * 2 ^ (e - u).toNat : Nat) : Int)
  | _ => 0

/-- The exact sum of dyadic values under the special-value rules of R197; `zneg` is the sign of a zero sum of terms that are not all
of one sign (R176: +0 but for rounding toward -∞). -/
def Fv.sum (zneg : Bool) (l : List Fv) : Fv :=
  if l.any Fv.isNan then .nan
  else
    let pos := l.any fun v => v = .inf false
    let ngs := l.any fun v => v = .inf true
    if pos && ngs then .nan
    else if pos then .inf false
    else if ngs then .inf true
    else
      let u := l.foldl (fun u v => match v with | .fin _ _ _ e => min u e | _ => u) 0
      let t : Int := l.foldl (fun t v => t + v.units u) 0
      if t = 0 then
        let allNeg := l.all fun v => match v with | .fin n _ _ _ => n | _ => false
        let allPos := l.all fun v => match v with | .fin n _ _ _ => !n | _ => false
        .fin (if allNeg then true else if allPos then false else zneg) 0 1 0
      else .fin (decide (t < 0)) t.natAbs 1 u

/-- The exact quotient by a finite scale (R278): 0 / 0 is a NaN, a non-zero value over zero an infinity. -/
def Fv.div (a b : Fv) : Fv :=
  match a, b with
  | .nan, _ => .nan
  | _, .nan => .nan
  | .inf _, .inf _ => .nan
  | .inf m, .fin n _ _ _ => .inf (Bool.xor m n)
  | .fin m _ _ _, .inf n => .fin (Bool.xor m n) 0 1 0
  | .fin m x d e, .fin n y d' e' =>
    if y = 0 then (if x = 0 then .nan else .inf (Bool.xor m n))
    else .fin (Bool.xor m n) (x * d') (d * y) (e - e')

/-- Comparison of two values that are not NaN: -1, 0 or 1, with -0 equal to +0. -/
def Fv.cmp (a b : Fv) : Int :=
  let rank : Fv → Int := fun v => match v with | .inf n => (if n then -1 else 1) | _ => 0
  match a, b with
  | .fin _ _ _ e, .fin _ _ _ e' =>
    let u := min e e'
    (a.units u - b.units u).sign
  | _, _ => (rank a - rank b).sign

/-- Rounding toward -∞ gives a zero sum of opposite signs the negative sign. -/
def Rm.zneg : Rm → Bool
  | .rdn => true
  | _ => false

/-- IEEE arithmetic of R176 on codes of a format. -/
def Fmt.add (f : Fmt) (rm : Rm) (a b : Nat) : Nat := (f.encode rm (Fv.sum rm.zneg [f.decode a, f.decode b])).1
def Fmt.sub (f : Fmt) (rm : Rm) (a b : Nat) : Nat := (f.encode rm (Fv.sum rm.zneg [f.decode a, (f.decode b).neg])).1
def Fmt.mul (f : Fmt) (rm : Rm) (a b : Nat) : Nat := (f.encode rm ((f.decode a).mul (f.decode b))).1
def Fmt.fma (f : Fmt) (rm : Rm) (a b c : Nat) : Nat :=
  (f.encode rm (Fv.sum rm.zneg [(f.decode a).mul (f.decode b), f.decode c])).1

/-- The `minimum` and `maximum` of IEEE 754-2019 (R274): a NaN gives the canonical one, and -0 is below +0. -/
def Fmt.minmax (f : Fmt) (mx : Bool) (a b : Nat) : Nat :=
  let x := f.decode a
  let y := f.decode b
  if x.isNan || y.isNan then f.nanCode.getD 0
  else
    let c := x.cmp y
    let aNeg := nb a f.signPos 1 = 1
    let less := if c = 0 then aNeg else decide (c < 0)
    if less = !mx then a else b

/-- R305, R168: the sum of two FP32 codes, rounded once by RNE. -/
def f32Add (a b : W32) : W32 := BitVec.ofNat 32 (fmtF32.add .rne a.toNat b.toNat)

/-! ### Scales (R185) -/

/-- A block-scale code: `e4m3` or `e8m0`; `nan` for a NaN scale. -/
def scaleVal (e4 : Bool) (c : Nat) : Fv :=
  if e4 then (if nb c 7 1 = 1 || c % 256 = 0x7F then .nan else fmtE4m3.decode c)
  else Ty.e8m0.value c

end Sys2Proof.Machine
end

