-- ==== Sys2Proof/Machine/Atomics.lean ====
section
/-! DEFINITION. Atomics: the meanings of the scratch and global atomics (spec R304 to R306, R120, R121). -/

namespace Sys2Proof.Machine

open Sys2Proof

/-- A result of `.g` that a later bundle finds valid; earlier results of the port no longer reach it. -/
def State.soonG (s : State) (port : Nat) (v : W64) : State :=
  (s.modMe fun k => { k with ms.pend := k.ms.pend.map fun (q : Pend) => if q.port = port then { q with dead := true } else q }).soon port v

/-- An atomic with return that is a signal (R306): its result is promised to `.g`. -/
def signalAmo (port : Nat) (place : Place) (ea : W64) (op : AmoOp) (b c : W64) (s : State) : State :=
  let id := s.freshId
  let o := s.origin
  (s.eff place ea (.signal (.amo op b c port))).promise { id := id, org := o, port := port, place := .va, ea := ea, n := 8 }

/-- A withheld atomic on a local granule that is not Pooled: it reads as a load and its new value is withheld as a store (R306). On a bad unit
it performs no write and delivers no value: a read of its port stalls until the report is taken (R121, R400). -/
def localAmo (fadd : FAdd) (ret : Option Nat) (ea : W64) (off : Nat) (op : AmoOp) (b c : W64) (s : State) : State :=
  let (bs, bad, s) := s.localBytesFor off op.width
  let old : W64 := BitVec.ofNat 64 (leNat bs)
  let at_ : W64 := BitVec.ofNat 64 off
  if bad then
    match ret with
    | some port => (((s.modMe fun k => k.report s.origin cPoison 6 ea).addRec (consumeRec s.ctx.core s.me 1 at_)).promise
        { id := s.freshId, org := s.origin, port := port, place := .va, ea := ea, n := 8 }).bumpId
    | none => s.addRec (coreRec s.ctx.core 0x02 2 1 at_ (Config.syndrome 1 off) s.me.domain)
  else
    let (full, s') := (s.withhold (.loc off) at_ (.store (leBytes op.width (op.apply fadd old b c).toNat) false)).overfull
    if full then s'.raise 0x02 0 at_
    else match ret with
      | some port => s'.soonG port old
      | none => s'

/-- A scratch atomic on unit u (R304): EA := A as a remote scratch address. One with return on a Pooled granule is checked at its home core, after
the release (R77). Its address is checked before a clear C (DESIGN CHOICE, log 93). -/
def scratchAmo (fadd : FAdd) (u : Fin 2) (m : Mv) (op : AmoOp) (ret : Bool) (s : State) : Out :=
  s.trig m fun b =>
    let ea := s.me.lsA u
    let c := s.me.lsCW u
    let port := lsPort u 2
    match remoteCheck s 2 op.width op.width ea with
    | some t => s.raiseAt t
    | none =>
      let home := coreId (ea.toNat / 2 ^ 23)
      let off := ea.toNat % 2 ^ 23
      let refused := if home = s.ctx.core && !(ret && s.me.ownState off = 3) then localCheck s.ctx.core s.me 2 op.width op.width false (BitVec.ofNat 64 off) else none
      match refused with
      | some t => s.raiseAt t
      | none =>
        if home = s.ctx.core && s.me.ownState off ≠ 3 then localAmo fadd (if ret then some port else none) ea off op b c s
        else if !ret then s.withhold (.rem home off) ea (.amo op b c)
        else if !s.ctx.hdr.c then s.illegal 0x09
        else signalAmo port (.rem home off) ea op b c s

/-- A global atomic on unit u (R304): EA := A as a virtual address. -/
def globalAmo (u : Fin 2) (m : Mv) (op : AmoOp) (ret : Bool) (s : State) : Out :=
  s.trig m fun b =>
    let ea := s.me.lsA u
    let c := s.me.lsCW u
    if ea.toNat % op.width ≠ 0 then (s.touchStack ea op.width).raise cGalign (preDetail .atomic) ea
    else match s.globalPlace .atomic ea op.width with
      | .error s => s
      | .ok (pl, s) =>
        if ret then signalAmo (lsPort u 2) pl ea op b c s else s.withhold pl ea (.amo op b c)

/-- `amoadd` (R304). -/
def execAmoadd (u : Fin 2) (m : Mv) (s : State) : Out := scratchAmo f32Add u m .add true s

/-- `amomin` (R304). -/
def execAmomin (u : Fin 2) (m : Mv) (s : State) : Out := scratchAmo f32Add u m .min true s

/-- `amomax` (R304). -/
def execAmomax (u : Fin 2) (m : Mv) (s : State) : Out := scratchAmo f32Add u m .max true s

/-- `amoand` (R304). -/
def execAmoand (u : Fin 2) (m : Mv) (s : State) : Out := scratchAmo f32Add u m .and true s

/-- `amoor` (R304). -/
def execAmoor (u : Fin 2) (m : Mv) (s : State) : Out := scratchAmo f32Add u m .or true s

/-- `amoxor` (R304). -/
def execAmoxor (u : Fin 2) (m : Mv) (s : State) : Out := scratchAmo f32Add u m .xor true s

/-- `amoswp` (R304). -/
def execAmoswp (u : Fin 2) (m : Mv) (s : State) : Out := scratchAmo f32Add u m .swp true s

/-- `amocas` (R304). -/
def execAmocas (u : Fin 2) (m : Mv) (s : State) : Out := scratchAmo f32Add u m .cas true s

/-- `amofadd` (R304). -/
def execAmofadd (u : Fin 2) (m : Mv) (s : State) : Out := scratchAmo f32Add u m .fadd true s

/-- `amoaddn` (R304). -/
def execAmoaddn (u : Fin 2) (m : Mv) (s : State) : Out := scratchAmo f32Add u m .add false s

/-- `amominn` (R304). -/
def execAmominn (u : Fin 2) (m : Mv) (s : State) : Out := scratchAmo f32Add u m .min false s

/-- `amomaxn` (R304). -/
def execAmomaxn (u : Fin 2) (m : Mv) (s : State) : Out := scratchAmo f32Add u m .max false s

/-- `amoandn` (R304). -/
def execAmoandn (u : Fin 2) (m : Mv) (s : State) : Out := scratchAmo f32Add u m .and false s

/-- `amoorn` (R304). -/
def execAmoorn (u : Fin 2) (m : Mv) (s : State) : Out := scratchAmo f32Add u m .or false s

/-- `amoxorn` (R304). -/
def execAmoxorn (u : Fin 2) (m : Mv) (s : State) : Out := scratchAmo f32Add u m .xor false s

/-- `amoswpn` (R304). -/
def execAmoswpn (u : Fin 2) (m : Mv) (s : State) : Out := scratchAmo f32Add u m .swp false s

/-- `amocasn` (R304). -/
def execAmocasn (u : Fin 2) (m : Mv) (s : State) : Out := scratchAmo f32Add u m .cas false s

/-- `amofaddn` (R304). -/
def execAmofaddn (u : Fin 2) (m : Mv) (s : State) : Out := scratchAmo f32Add u m .fadd false s

/-- `gamoadd` (R304). -/
def execGamoadd (u : Fin 2) (m : Mv) (s : State) : Out := globalAmo u m .add true s

/-- `gamomin` (R304). -/
def execGamomin (u : Fin 2) (m : Mv) (s : State) : Out := globalAmo u m .min true s

/-- `gamomax` (R304). -/
def execGamomax (u : Fin 2) (m : Mv) (s : State) : Out := globalAmo u m .max true s

/-- `gamoswp` (R304). -/
def execGamoswp (u : Fin 2) (m : Mv) (s : State) : Out := globalAmo u m .swp true s

/-- `gamocas` (R304). -/
def execGamocas (u : Fin 2) (m : Mv) (s : State) : Out := globalAmo u m .cas true s

/-- `gamofadd` (R304). -/
def execGamofadd (u : Fin 2) (m : Mv) (s : State) : Out := globalAmo u m .fadd true s

/-- `gamoaddn` (R304). -/
def execGamoaddn (u : Fin 2) (m : Mv) (s : State) : Out := globalAmo u m .add false s

/-- `gamominn` (R304). -/
def execGamominn (u : Fin 2) (m : Mv) (s : State) : Out := globalAmo u m .min false s

/-- `gamomaxn` (R304). -/
def execGamomaxn (u : Fin 2) (m : Mv) (s : State) : Out := globalAmo u m .max false s

/-- `gamoswpn` (R304). -/
def execGamoswpn (u : Fin 2) (m : Mv) (s : State) : Out := globalAmo u m .swp false s

/-- `gamocasn` (R304). -/
def execGamocasn (u : Fin 2) (m : Mv) (s : State) : Out := globalAmo u m .cas false s

/-- `gamofaddn` (R304). -/
def execGamofaddn (u : Fin 2) (m : Mv) (s : State) : Out := globalAmo u m .fadd false s

end Sys2Proof.Machine
end

