-- ==== Sys2Proof/Machine/Sync.lean ====
section
/-! DEFINITION. Sync: the meanings of the operations of `sy`: ordering (spec R307), flags (R308, R309), groups (R310) and buffer
handles (R311). -/

namespace Sys2Proof.Machine

open Sys2Proof

/-- `drain` (R114, R307); withheld. -/
def execDrain (m : Mv) (s : State) : Out :=
  s.trig m fun b => s.withhold .va 0 (.drain (b.extractLsb' 0 4) (b.extractLsb' 4 2))

/-- `rel` (R118, R307); withheld. -/
def execRel (m : Mv) (s : State) : Out := s.trig m fun b => s.withhold .va 0 (.rel (b.extractLsb' 4 2))

/-- `acq` (R119, R307): at the end of its bundle. -/
def execAcq (m : Mv) (s : State) : Out := s.trig m fun _ => { s with ctx := { s.ctx with acq := true } }

/-- The lowest absent core of a mask (R401). -/
def firstAbsent (s : State) (mask : W64) : Option Nat :=
  (List.range 64).find? fun i => mask.getLsbD i && s.absent (coreId i)

/-- The checks of a flag or collective target mask (R309, R401): absent cores first, whose trap names the mask (R395), then the gang mask, whose
trap names the operand. -/
def targetCheck (s : State) (mask addr : W64) : Option (Byte × Byte × W64) :=
  match firstAbsent s mask with
  | some i => some (cNocore, BitVec.ofNat 8 i, mask)
  | none => if mask &&& ~~~s.me.eng.gangMask ≠ 0 then some (0x0B, 0, addr) else none

/-- FLAG and VALUE of B; `none` where B[63:36] is not zero (R309). -/
def flagOperand (b : W64) : Option (Fin 16 × W32) :=
  if bits b 36 28 ≠ 0 then none else some (⟨bits b 0 4, Nat.mod_lt _ (by decide)⟩, BitVec.ofNat 32 (bits b 4 32))

/-- `fadd` (R309); a signal. -/
def execFadd (m : Mv) (s : State) : Out :=
  s.trig m fun b =>
    let a := s.me.latchW 0x4C0
    match flagOperand b with
    | none => s.illegal 0x0A
    | some (f, v) =>
      if a.toNat ≥ 64 then s.illegal 0x0A
      else match targetCheck s (1 <<< a.toNat) a with
        | some t => s.raiseAt t
        | none => s.signal none (.fadd (coreId a.toNat) f v)

/-- `fset` (R309); a signal; a zero mask does nothing. -/
def execFset (m : Mv) (s : State) : Out :=
  s.trig m fun b =>
    let a := s.me.latchW 0x4C0
    match flagOperand b with
    | none => s.illegal 0x0A
    | some (f, v) => match targetCheck s a a with
      | some t => s.raiseAt t
      | none => s.signal none (.fset a f v)

/-- `fwait` (R309): the stall of R217 has ended when the bundle issues. -/
def execFwait (m : Mv) (s : State) : Out := s.trig m fun b => if (flagOperand b).isNone then s.illegal 0x0A else s

/-- `join` (R310); a signal. -/
def execJoin (m : Mv) (s : State) : Out :=
  s.trig m fun b => if b.toNat ≥ 8 then s.illegal 0x0A else s.signal none (.join (b.extractLsb' 0 3))

/-- `leave` (R310); a signal. -/
def execLeave (m : Mv) (s : State) : Out :=
  s.trig m fun b => if b.toNat ≥ 8 then s.illegal 0x0A else s.signal none (.leave (b.extractLsb' 0 3))

/-- `gmask` (R310): `sy.r` is promised the group's mask, read after every earlier signal of the core. -/
def execGmask (m : Mv) (s : State) : Out :=
  s.trig m fun b =>
    if b.toNat ≥ 8 then s.illegal 0x0A
    else (s.promise { id := s.freshId, org := s.origin, port := 0x130, place := .loc b.toNat, n := 0 }).bumpId

/-- A handle operation (R311): a signal, checked before its release commits (R76). -/
def handleOp (op : HandleOp) (a b : W64) (port : Nat) (s : State) : State := s.signal none (.handle op a b port false)

/-- `hmake` (R311): FIRST and NGM1 of B; `sy.r` is promised the handle. -/
def execHmake (m : Mv) (s : State) : Out :=
  s.trig m fun b =>
    if bits b 10 6 ≠ 0 || bits b 26 38 ≠ 0 then s.illegal 0x0A
    else
      let id := s.freshId
      (handleOp .make 0 b 0x130 s).promise { id := id, org := s.origin, port := 0x130, place := .va, n := 8 }

/-- `hgive` (R311, R401). -/
def execHgive (m : Mv) (s : State) : Out :=
  s.trig m fun b =>
    if b.toNat ≥ 64 then s.illegal 0x0A
    else if s.absent (coreId b.toNat) then s.raise cNocore (b.setWidth 8) (1 <<< b.toNat)
    else handleOp .give (s.me.latchW 0x4C0) b 0 s

/-- `hlend` (R311). -/
def execHlend (m : Mv) (s : State) : Out := s.trig m fun b => handleOp .lend (s.me.latchW 0x4C0) b 0 s

/-- `hpool` (R311). -/
def execHpool (m : Mv) (s : State) : Out := s.trig m fun b => handleOp .pool (s.me.latchW 0x4C0) b 0 s

/-- `hreclaim` (R311): the handle is B. -/
def execHreclaim (m : Mv) (s : State) : Out := s.trig m fun b => handleOp .reclaim b 0 0 s

/-- `hfree` (R311): the handle is B. -/
def execHfree (m : Mv) (s : State) : Out := s.trig m fun b => handleOp .free b 0 0 s

end Sys2Proof.Machine
end

