-- ==== Sys2Proof/Machine/EngineOps.lean ====
section
/-! DEFINITION. EngineOps: the bundle-side meanings of the engines: copies and Carafes (spec R312 to R314, R155), near-memory streams
(R158 to R163, R315), pops (R230), `aq.push` (R334), collectives (R316) and the CIM engine (R340 to R343). -/

namespace Sys2Proof.Machine

open Sys2Proof

/-! ### Copies and Carafes -/

/-- `ce.cpy` (R312): a signal; the packet image is bytes 0 to 63 of the row. -/
def execCeCpy (m : Mv) (s : State) : Out :=
  s.trigRS 3 m fun r =>
    let w := s.me.latchW 0x504
    let k := s.me.latchW 0x505
    if engineLatchesOk s.me s.ctx true w k then s.signal (produceToken k) (.cpy (r.data.extractLsb' 0 512) w k) else s.illegal 0x0A

/-- The Carafe named by B[3:0]. -/
def cafOf (b : W64) : Fin 16 := ⟨bits b 0 4, Nat.mod_lt _ (by decide)⟩

/-- Whether a packet waits for a slot of a Carafe (R155): its turn has not come. -/
def Engines.cafWaits (e : Engines) (f : Nat) : Bool :=
  e.copies.any fun c => match c.words with | w :: _ => bits w 24 8 = 3 && bits w 8 8 = f && c.caf.isNone && c.early.isNone | [] => false

/-- R154: BASE, SLOTSZ, slots of a configuration word. -/
def cafConfig (a : W64) : Nat × Nat × Nat := (bits a 20 14, bits a 6 14, bits a 0 6 + 1)

/-- `ce.cinit` (R313): performed at the release of its bundle. -/
def execCeCinit (m : Mv) (s : State) : Out :=
  s.trig m fun b =>
    let a := s.me.latchW 0x500
    let (base, sz, n) := cafConfig a
    if b.toNat ≥ 16 || bits a 34 30 ≠ 0 || sz = 0 || (base + n * sz) * 512 > 0x400000 then s.illegal 0x0A
    else if (s.me.eng.carafes.get (cafOf b)).nasgn ≠ 0 || s.me.eng.cafWaits b.toNat then s.raise 0x0C (b.setWidth 8)
    else s.eff .va 0 (.cinit (cafOf b) a)

/-- `cf.release`s of the open interval not yet committed (R155). -/
def Core.cafReleases (k : Core) (n : Nat) (f : Fin 16) : Nat :=
  ((k.ms.wh.take n).filter fun w => w.what = .cfRelease f).length

/-- The slot word of R314: every field stays in its own bits, BYTES as the count modulo 2^24 (log 76). -/
def Carafe.slotWord (f : Carafe) : W64 :=
  let sl := mrd {} f.slots f.p
  BitVec.ofNat 64 (sl.status.toNat * 2 ^ 56 + f.p % 64 * 2 ^ 48 + sl.bytes % 2 ^ 24 * 2 ^ 24 +
    (f.base + f.p * f.slotsz) * 512 % 2 ^ 23)

/-- R155: the pour of `cf.await`. -/
def Carafe.pour (f : Carafe) : Carafe :=
  { f with p := (f.p + 1) % f.n, nfill := f.nfill - 1, nheld := f.nheld + 1, spec := f.spec + 1 }

/-- `cf.await` (R314, R155): the stall of R217 has ended when the bundle issues. -/
def execCfAwait (m : Mv) (s : State) : Out :=
  s.trig m fun b =>
    let f := s.me.eng.carafes.get (cafOf b)
    if b.toNat ≥ 16 then s.illegal 0x0A
    else if !f.act then s.raise 0x0C (b.setWidth 8)
    else (s.modMe fun k => { k with eng.carafes := k.eng.carafes.set (cafOf b) f.pour }).soon 0x138 f.slotWord

/-- `cf.release` (R314, R155): checked at issue, withheld. -/
def execCfRelease (m : Mv) (s : State) : Out :=
  s.trig m fun b =>
    let f := s.me.eng.carafes.get (cafOf b)
    if b.toNat ≥ 16 then s.illegal 0x0A
    else if !f.act || f.nheld ≤ s.me.cafReleases s.me.ms.wh.length (cafOf b) then s.raise 0x0C (b.setWidth 8)
    else s.withhold .va 0 (.cfRelease (cafOf b))

/-- The state word of R154 with `r` releases counted. -/
def Carafe.stateWord (f : Carafe) (r : Nat) : W64 :=
  if !f.act then 0
  else
    let nfree := f.n - f.nasgn - f.nfill - f.nheld
    BitVec.ofNat 64 (2 ^ 63 + (f.q + r) % f.n * 2 ^ 56 + f.p * 2 ^ 48 + f.f * 2 ^ 40 + (nfree + r) * 2 ^ 32 + f.nasgn * 2 ^ 24 +
      f.nfill * 2 ^ 16 + (f.nheld - r) * 2 ^ 8)

/-- `cf.stat` (R314): counts every earlier await and release, speculative ones included. -/
def execCfStat (m : Mv) (s : State) : Out :=
  s.trig m fun b =>
    if b.toNat ≥ 16 then s.illegal 0x0A
    else s.soon 0x138 ((s.me.eng.carafes.get (cafOf b)).stateWord (s.me.cafReleases s.me.ms.wh.length (cafOf b)))

/-! ### Pops (R230) -/

/-- The value a pop takes becomes the source of its slot; a plain destination takes it as any move does (R203). -/
def State.popTo (s : State) (dst : Dst) (r : RowT) : State :=
  let s := { s with ctx := { s.ctx with caught := (s.cur.slot, .r r) :: s.ctx.caught } }
  s.makeMove dst (.r r)

/-- A pop of `yq` (R230): the oldest unpopped row; the pointer advances at issue and goes back by a rollback. -/
def execYqPop (gs : BitVec 2) (dst : Dst) (s : State) : Out :=
  if guardOf s.ctx.hdr s.me.regs gs then
    let r := (s.me.popRow .yqPop 0).getD RowT.zero
    .next ((s.modMe fun k => { k with eng.yqSpec := k.eng.yqSpec + 1 }).popTo dst r)
  else .next s

/-- A pop of a near-memory stream (R159, R230). -/
def execNmPop (u : Fin 4) (gs : BitVec 2) (dst : Dst) (s : State) : Out :=
  if guardOf s.ctx.hdr s.me.regs gs then
    let r := (s.me.popRow (.nmPop u) 0).getD RowT.zero
    .next ((s.modMe fun k => { k with eng.nm := k.eng.nm.set u { k.eng.nm.get u with spec := (k.eng.nm.get u).spec + 1 } }).popTo dst r)
  else .next s

/-- `aq.push` (R334): withheld; the stall of R217 has ended when the bundle issues. -/
def execAqPush (m : Mv) (s : State) : Out := s.trigR m fun r => s.withhold .va 0 (.aqPush r)

/-! ### Near-memory commands (R161 to R163) -/

/-- Word w of a command row. -/
def nmWord (r : Row) (w : Nat) : W64 := r.extractLsb' (64 * w) 64

/-- The fields of a command row (R161). -/
def nmLen (r : Row) : Nat := bits (nmWord r 0) 40 7 + 1
def nmOpr (r : Row) : Nat := bits (nmWord r 0) 38 2
def nmEf (r : Row) : Nat := bits (nmWord r 0) 36 2
def nmNidx (r : Row) : Nat := bits (nmWord r 0) 30 6 + 1
def nmNrows (r : Row) : Nat := bits (nmWord r 2) 32 32
def nmStride (r : Row) : Nat := bits (nmWord r 2) 0 32
def nmIdx (r : Row) (k : Nat) : Nat := lane 32 r (16 + k)
/-- Element bytes of the table or target (R162). -/
def nmElem (r : Row) : Nat := match nmEf r with | 0 => 4 | 1 => 2 | _ => 8

/-- R161, R162: check 2 of R163. -/
def nmFieldsOk (r : Row) : Bool :=
  let op := nmOpOf r
  let ef := nmEf r
  let len := nmLen r
  let w0 := nmWord r 0
  let addr := bits (nmWord r 1) 0 60
  bits w0 47 9 = 0 && bits w0 0 30 = 0 && bits (nmWord r 3) 32 32 = 0 && [4, 5, 6, 7].all (fun i => nmWord r i = 0) &&
  (match op with
   | 1 => nmOpr r ≤ 2 && ef ≤ 1 && len ≤ 128 && nmNrows r ≥ 1 && nmStride r ≠ 0 && nmStride r % 64 = 0 && addr % 64 = 0 &&
      (nmOpr r = 2 || bits (nmWord r 3) 0 32 = 0) &&
      (List.range (nmNidx r)).all fun k => nmIdx r k = 0xFFFFFFFF || nmIdx r k < nmNrows r
   | 2 => nmOpr r = 0 && ef = 0 && len ≤ 112 && bits w0 30 6 = 0 && nmWord r 2 = 0 && nmWord r 3 = 0 && addr % 4 = 0
   | 3 => nmOpr r = 0 && (ef = 0 || ef = 2) && len ≤ (if ef = 2 then 56 else 112) && bits w0 30 6 = 0 && nmWord r 2 = 0 &&
      nmWord r 3 = 0 && addr % nmElem r = 0
   | _ => false)

/-- The byte ranges a command touches, in the order of check 5: each indexed row in ascending k, or the target range. -/
def nmRanges (r : Row) : List (Nat × Nat) :=
  let a := bits (nmWord r 1) 0 56
  if nmOpOf r = 1 then
    (List.range (nmNidx r)).filterMap fun k =>
      if nmIdx r k = 0xFFFFFFFF then none else some (a + nmIdx r k * nmStride r, nmElem r * nmLen r)
  else [(a, nmElem r * nmLen r)]

/-- The kind of a command's accesses: adds count as stores (R163). -/
def nmKind (r : Row) : AccKind := if nmOpOf r = 1 then .near else .nearStore

/-- The translation of check 5, through the core's TLB as any core access (R44): segments, or a cause, detail and address. -/
def nmTranslate (s : State) (r : Row) : Except (Byte × Byte × W64) (List Seg) × State :=
  (nmRanges r).foldl (fun acc p =>
    match acc.1 with
    | .error e => (.error e, acc.2)
    | .ok l =>
      if p.1 ≥ 2 ^ 56 then (.error (cXlrange, xlDetail (nmKind r) 0, BitVec.ofNat 64 p.1), acc.2)
      else match acc.2.transCore s.ctx.core s.me.domain (nmKind r) true (BitVec.ofNat 64 p.1) p.2 with
      | (.ok segs, s') => (.ok (l ++ segs), s')
      | (.fault c d a, s') => (.error (c, d, a), s')
      | (.miss, s') => (.error (cXlinval, xlDetail .near 0, 0), s')) (.ok [], s)

/-- The address of byte o of the bytes that some ranges hold one after the other. -/
def rangeAt : List (Nat × Nat) → Nat → Nat
  | [], _ => 0
  | p :: t, o => if o < p.2 then p.1 + o else rangeAt t (o - p.2)

/-- The lowest byte address of a command outside class 3 (check 6). -/
def nmClassFault (r : Row) (segs : List Seg) : Option W64 :=
  (leastOf (((segOffsets segs 0).filter fun g => g.1.cls ≠ 3).map fun g => rangeAt (nmRanges r) g.2)).map (BitVec.ofNat 64)

/-- A near-memory command on stream u (R163): the checks in order, then a signal. Checks 1 to 4 and 6 are made at issue; the
translation of check 5 is made there too, so the release never waits for it. -/
def nmCommand (u : Fin 4) (m : Mv) (s : State) : Out :=
  s.trigR m fun rt =>
    let r := rt.data
    let det : Byte := BitVec.ofNat 8 u.val
    let tag := bits (nmWord r 1) 60 4
    if rt.tag.getLsbD 0 then s.raise cPoison 2
    else if !nmFieldsOk r then s.raise 0x0D det
    else if (if nmOpOf r = 1 then s.me.nmOut u ≥ 16 else s.me.nrf ≥ 64) then s.raise 0x0E det
    else if tag ≥ 2 || (tag = 0 && bits (nmWord r 1) 56 4 ≠ 0) || (tag = 1 && bits (nmWord r 1) 29 31 ≠ 0) then
      s.raise cXlrange (preDetail .near)
    else if tag = 1 then s.raise 0x0F det
    else
      match nmTranslate s r with
      | (.error (c, d, a), s) => s.raiseXl c d a
      | (.ok segs, s) =>
        match nmClassFault r segs with
        | some a => s.raise 0x0F det a
        | none => s.signal none (.nmCmd u r segs)

/-- `NM_IRED` (R161 to R165, R315): an indexed reduce on a stream; a reserved OP is refused by the same checks (R163). -/
def execNmIred (u : Fin 4) (m : Mv) (s : State) : Out := nmCommand u m s

/-- `NM_FADD` (R161 to R163, R168): a return-free FP32 add. -/
def execNmFadd (u : Fin 4) (m : Mv) (s : State) : Out := nmCommand u m s

/-- `NM_IADD` (R161 to R163, R168): a return-free integer add. -/
def execNmIadd (u : Fin 4) (m : Mv) (s : State) : Out := nmCommand u m s

/-- `nfence` (R127, R315): produces the token of `nm.k`; it has no wait latch. -/
def execNfence (m : Mv) (s : State) : Out :=
  s.trig m fun _ =>
    let k := s.me.latchW 0x5C0
    if engineLatchesOk s.me s.ctx false 0 k then s.signal (produceToken k) (.nfence k) else s.illegal 0x0A

/-! ### Collectives (R316) -/

/-- Kinds of a collective: 0 `allred`, 1 `bcast`, 2 `rgather`. A `bcast` whose ROOT is no participant is illegal (DEDUCED, log 96). -/
def collFieldsOk (kind : Nat) (a c : W64) (mask : W64) (me : CoreId) : Bool :=
  let nr := bits a 32 7 + 1
  let op := bits a 46 2
  let ty := bits a 40 5
  let root := bits a 48 6
  let src := bits a 0 23
  let dst := bits c 0 23
  let drows := if kind = 2 then nr * ((List.range 64).filter fun i => mask.getLsbD i).length else nr
  bits a 54 10 = 0 && bits a 45 1 = 0 && bits a 39 1 = 0 && bits a 23 9 = 0 && bits c 23 41 = 0 &&
  (if kind = 0 then op ≠ 3 && (ty = 0x04 || ty = 0x08) && root = 0
   else op = 0 && ty = 0 && (if kind = 1 then mask.getLsbD root else root = 0)) &&
  src % 512 = 0 && dst % 512 = 0 && src + nr * 512 ≤ 0x400000 && dst + drows * 512 ≤ 0x400000 && mask.getLsbD me.val

/-- A collective trigger (R316): a signal. -/
def collTrigger (kind : Nat) (m : Mv) (s : State) : Out :=
  s.trig m fun b =>
    let a := s.me.latchW 0x590
    let c := s.me.latchW 0x591
    let w := s.me.latchW 0x594
    let k := s.me.latchW 0x595
    if !collFieldsOk kind a c b s.ctx.core || !engineLatchesOk s.me s.ctx true w k then s.illegal 0x0A
    else match targetCheck s b b with
      | some t => s.raiseAt t
      | none => s.signal (produceToken k) (.coll kind a c b w k)

/-- `allred` (R316, R317). -/
def execAllred (m : Mv) (s : State) : Out := collTrigger 0 m s

/-- `bcast` (R316, R317). -/
def execBcast (m : Mv) (s : State) : Out := collTrigger 1 m s

/-- `rgather` (R316, R317). -/
def execRgather (m : Mv) (s : State) : Out := collTrigger 2 m s

/-! ### The CIM engine (R340 to R343) -/

/-- `mp0` to `mp7`. -/
def Core.mps (k : Core) : List W64 := (List.range 8).map fun i => k.latchW (0x540 + i)

/-- `cim.call` (R340). -/
def execCimCall (m : Mv) (s : State) : Out :=
  s.trig m fun b =>
    let k := s.me
    let a := k.latchW 0x548
    let w := k.latchW 0x54C
    let kk := k.latchW 0x54D
    let prog := (List.range 32).filter fun t => bits a t 1 = 1
    if b.toNat ≥ 256 || bits a 32 32 ≠ 0 || !engineLatchesOk k s.ctx true w kk ||
        prog.any (fun t => k.token t = 1 || s.ctx.produced.contains t || some t = produceToken kk) then s.illegal 0x0A
    else
      let s := s.signal (produceToken kk) (.cimCall (b.setWidth 8) (a.setWidth 32) w kk k.mps)
      { s with ctx := { s.ctx with produced := s.ctx.produced ++ prog } }

/-- `cim.step` (R341): the words it rejects are `mjmp`, `mlpi`, `mlpe`, `mend`, `mtok` and reserved encodings. -/
def stepOk (b : W64) : Bool := (decodeMicro b).isSome && !([0x01, 0x02, 0x03, 0x04, 0x19].contains (bits b 58 6))

def execCimStep (m : Mv) (s : State) : Out :=
  s.trig m fun b =>
    let w := s.me.latchW 0x54C
    let kk := s.me.latchW 0x54D
    if stepOk b && engineLatchesOk s.me s.ctx true w kk then s.signal (produceToken kk) (.cimStep b w kk s.me.mps)
    else s.illegal 0x0A

/-- The word of R342, sampled at issue. -/
def Core.cimStat (k : Core) : W64 :=
  let c := k.eng.cim
  let mpc := match c.run with | some r => r.mpc | none => c.mpc
  BitVec.ofNat 64 (flag c.run.isSome 63 + k.cimQueued * 2 ^ 57 + c.ent * 2 ^ 47 + flag c.stp 46 + mpc % 4096 * 2 ^ 32 + c.cause * 2 ^ 24 +
    c.mlc.toNat * 2 ^ 16 + min c.ckmis 255 * 256 + min c.ckskp 255)

/-- `cim.stat` (R342). -/
def execCimStat (m : Mv) (s : State) : Out := s.trig m fun _ => s.soon 0x140 s.me.cimStat

/-- `cim.mpsw` (R343): performed at the release of its bundle. -/
def execCimMpsw (m : Mv) (s : State) : Out :=
  s.trig m fun b =>
    let a := s.me.latchW 0x548
    if a.toNat ≥ 4096 then s.illegal 0x0A
    else if s.me.eng.cim.pinned a.toNat then s.raise 0x06 0 a
    else s.eff .va 0 (.mpsw a.toNat b)

end Sys2Proof.Machine
end

