-- ==== Sys2Proof/Machine/Sfu.lean ====
section
/-! DEFINITION. Sfu: the special-function unit (spec R290 to R294). The seven exact functions are enclosed between two rationals in
fixed point with 320 fraction bits; where both ends round to one code, that code is the exact value rounded once. -/

namespace Sys2Proof.Config

/-- The rounding of an exact function value that the enclosure of `roundBetween` does not decide, by operation and input; no
input is known to need it (notes/assumptions/16.md). -/
opaque undecidedRound : (op : Nat) → (x : Nat) → Sys2Proof.W32

end Sys2Proof.Config

namespace Sys2Proof.Machine

open Sys2Proof

/-! ### The rules of R290 -/

/-- A subnormal input is read as zero of the same sign. -/
def sfIn (x : Nat) : Nat := if nb x 23 8 = 0 then nb x 31 1 * 2 ^ 31 else x

/-- A rounded result below 2^-126 becomes zero of the same sign. -/
def sfOut (r : Nat) : Nat := if nb r 23 8 = 0 then nb r 31 1 * 2 ^ 31 else r

/-- An exact value rounded to `f32`, with the flush of R290. -/
def sfRound (v : Fv) : Nat := sfOut (fmtF32.encode .rne v).1

def qnan : Nat := 0x7FC00000
def pinf : Nat := 0x7F800000
def ninf : Nat := 0xFF800000

def isNanCode (x : Nat) : Bool := nb x 0 31 > pinf
def isInfCode (x : Nat) : Bool := nb x 0 31 = pinf
def isZeroCode (x : Nat) : Bool := nb x 0 31 = 0
def isNegCode (x : Nat) : Bool := nb x 31 1 = 1

/-! ### Estimates (R291, R292) -/

/-- The integer square root below 2^b, bit by bit. -/
def isqrtFrom (n : Nat) : Nat → Nat → Nat
  | 0, r => r
  | b + 1, r => isqrtFrom n b (if (r + 2 ^ b) * (r + 2 ^ b) ≤ n then r + 2 ^ b else r)

/-- The integer square root. -/
def isqrt (n : Nat) : Nat := isqrtFrom n (Nat.log2 n / 2 + 1) 0

/-- T[i] of R292. -/
def rcpTable (i : Nat) : Nat := roundQ .rne false (2 ^ 31) (128 + i)

/-- Q[b][i] of R292: 2^24 / √((1 + i/128) × 2^b) to the nearest integer, ties to even. -/
def rsqTable (b i : Nat) : Nat :=
  let d := (128 + i) * 2 ^ b
  let s := isqrt (2 ^ 55 / d)
  let c := (2 * s + 1) * (2 * s + 1) * d
  if c < 4 * 2 ^ 55 || (c = 4 * 2 ^ 55 && s % 2 = 1) then s + 1 else s

/-- The interpolation of R292. -/
def interp (t0 t1 t : Nat) : Nat := t0 - ((t0 - t1) * t + 32768) / 65536

/-- `rcp` of a lane. -/
def sfRcp (b : Nat) : Nat :=
  let x := sfIn b
  if isNanCode x then qnan
  else if isZeroCode x then (if isNegCode x then ninf else pinf)
  else if isInfCode x then nb x 31 1 * 2 ^ 31
  else
    let i := nb x 16 7
    let e : Int := (nb x 23 8 : Int) - 127
    sfRound (.fin (isNegCode x) (interp (rcpTable i) (rcpTable (i + 1)) (nb x 0 16)) 1 (-24 - e))

/-- `rsq` of a lane. -/
def sfRsq (x : Nat) : Nat :=
  let x := sfIn x
  if isNanCode x then qnan
  else if isZeroCode x then (if isNegCode x then ninf else pinf)
  else if isNegCode x then qnan
  else if isInfCode x then 0
  else
    let i := nb x 16 7
    let e : Int := (nb x 23 8 : Int) - 127
    let b := (e % 2).toNat
    sfRound (.fin false (interp (rsqTable b i) (rsqTable b (i + 1)) (nb x 0 16)) 1 (-24 - (e - b) / 2))

/-! ### Refinement (R293) -/

/-- Whether a refinement step passes its estimate through. -/
def stepPasses (x y : Nat) : Bool := isZeroCode x || isZeroCode y || isInfCode x || isInfCode y || isNanCode x || isNanCode y

/-- y times an exact difference; a zero difference is +0. -/
def stepResult (y d : Fv) (scale : Int) : Nat :=
  match y.mul (if d.isZero then .fin false 0 1 0 else d) with
  | .fin n a b e => sfRound (.fin n a b (e + scale))
  | v => sfRound v

/-- A zero, infinite or NaN estimate passes through, a NaN as the canonical one. -/
def passEstimate (y : Nat) : Nat := if isNanCode y then qnan else y

/-- `rcpstep`: x from A, y from B. -/
def sfRcpStep (a b : Nat) : Nat :=
  let x := sfIn a
  let y := sfIn b
  if stepPasses x y then passEstimate y
  else
    let fx := fmtF32.decode x
    let fy := fmtF32.decode y
    stepResult fy (Fv.sum false [.fin false 2 1 0, (fx.mul fy).neg]) 0

/-- `rsqstep`. -/
def sfRsqStep (a b : Nat) : Nat :=
  let x := sfIn a
  let y := sfIn b
  if stepPasses x y then passEstimate y
  else
    let fx := fmtF32.decode x
    let fy := fmtF32.decode y
    stepResult fy (Fv.sum false [.fin false 3 1 0, ((fx.mul fy).mul fy).neg]) (-1)

/-! ### Fixed point with 320 fraction bits (R294) -/

def fxP : Nat := 320
def fxOne : Nat := 2 ^ 320
def fxMul (a b : Nat) : Nat := a * b / 2 ^ 320

/-- Σ of a power series whose term k + 1 is term k times z × num k / den k, for n terms; alternating where `alt`. The even and
odd terms are kept apart, so that each sum is monotone. -/
def fxSeries (z : Nat) (den : Nat → Nat) : Nat → Nat → Nat → Nat × Nat
  | 0, _, _ => (0, 0)
  | n + 1, k, t =>
    let r := fxSeries z den n (k + 1) (fxMul t z / den k)
    (t + r.2, r.1)

/-- 2 × atanh(a / b) for a / b at most 1/3, with 110 terms: 2 Σ (a/b)^(2k+1) / (2k+1). -/
def fxAtanh2 (a b : Nat) : Nat :=
  let z := fxOne * a / b
  let zz := fxMul z z
  let rec go : Nat → Nat → Nat → Nat
    | 0, _, _ => 0
    | n + 1, k, t => t / (2 * k + 1) + go n (k + 1) (fxMul t zz)
  2 * go 110 0 z

/-- ln 2 = 2 atanh(1/3). -/
def fxLn2 : Nat := fxAtanh2 1 3

/-- atan(1 / n): alternating series of 150 terms. -/
def fxAtanInv (n : Nat) : Nat :=
  let rec go : Nat → Nat → Nat → Nat × Nat
    | 0, _, _ => (0, 0)
    | m + 1, k, t =>
      let r := go m (k + 1) (t / (n * n))
      (t / (2 * k + 1) + r.2, r.1)
  let r := go 150 0 (fxOne / n)
  r.1 - r.2

/-- π = 16 atan(1/5) - 4 atan(1/239). -/
def fxPi : Nat := 16 * fxAtanInv 5 - 4 * fxAtanInv 239

/-- e^z for z below 1 in fixed point: 80 terms. -/
def fxExp (z : Nat) : Nat :=
  let r := fxSeries z (fun k => k + 1) 80 0 fxOne
  r.1 + r.2

/-- e^-y for y in fixed point: e^-y = 2^-n e^-(y - n ln 2), formed as 2^-(n+1) e^(ln 2 - (y - n ln 2)). -/
def fxExpNeg (y : Nat) : Nat :=
  let n := y / fxLn2
  fxExp (fxLn2 - y % fxLn2) / 2 ^ (n + 1)

/-- sin z for z at most π/2: terms z^(2k+1) / (2k+1)!. -/
def fxSin (z : Nat) : Nat :=
  let r := fxSeries (fxMul z z) (fun k => (2 * k + 2) * (2 * k + 3)) 60 0 z
  r.1 - r.2

/-- The magnitude of a finite code in fixed point, exact for normal inputs below 2^128. -/
def fxOf (x : Nat) : Nat := (2 ^ 23 + nb x 0 23) * 2 ^ (nb x 23 8 + 170)

/-- The value of a fixed-point magnitude that lies within `fxErr` of the exact one, rounded once: one code where both ends of the
enclosure round alike. -/
def fxErr : Nat := 2 ^ 24

def roundBetween (op x : Nat) (neg : Bool) (v : Nat) : Nat :=
  let lo := sfRound (.fin neg (v - fxErr) 1 (-320))
  let hi := sfRound (.fin neg (v + fxErr) 1 (-320))
  if lo = hi then lo else (Config.undecidedRound op x).toNat

/-! ### The exact functions -/

/-- `sqrt`: the integer square root with a sticky bit, rounded once. -/
def sfSqrt (b : Nat) : Nat :=
  let x := sfIn b
  if isNanCode x then qnan
  else if isZeroCode x then x
  else if isNegCode x then qnan
  else if isInfCode x then pinf
  else
    let e : Int := (nb x 23 8 : Int) - 127 - 23
    let odd := (e % 2).toNat
    let n := (2 ^ 23 + nb x 0 23) * 2 ^ (40 + odd)
    let s := isqrt n
    sfRound (.fin false (2 * s + (if s * s = n then 0 else 1)) 1 ((e - odd) / 2 - 20 - 1))

/-- `exp2`. -/
def sfExp2 (b : Nat) : Nat :=
  let x := sfIn b
  if isNanCode x then qnan
  else if isInfCode x then (if isNegCode x then 0 else pinf)
  else if nb x 23 8 ≥ 127 + 8 then (if isNegCode x then 0 else pinf)
  else if isZeroCode x then 0x3F800000
  else
    let v := fxOf x
    let whole := v / fxOne
    let frac := v % fxOne
    if frac = 0 then sfRound (.fin false 1 1 (if isNegCode x then -(whole : Int) else whole))
    else
      let n : Int := if isNegCode x then -(whole : Int) - 1 else whole
      let f := if isNegCode x then fxOne - frac else frac
      let m := fxExp (fxMul f fxLn2)
      let lo := sfRound (.fin false (m - fxErr) 1 (n - 320))
      let hi := sfRound (.fin false (m + fxErr) 1 (n - 320))
      if lo = hi then lo else (Config.undecidedRound 0x3CD x).toNat

/-- `log2`. -/
def sfLog2 (b : Nat) : Nat :=
  let x := sfIn b
  if isNanCode x then qnan
  else if isZeroCode x then ninf
  else if isNegCode x then qnan
  else if isInfCode x then pinf
  else
    let e : Int := (nb x 23 8 : Int) - 127
    if nb x 0 23 = 0 then sfRound (.fin (decide (e < 0)) e.natAbs 1 0)
    else
      let f := nb x 0 23
      let v : Int := e * fxOne + ((fxAtanh2 f (2 ^ 24 + f) * fxOne / fxLn2 : Nat) : Int)
      roundBetween 0x3CE x (decide (v < 0)) v.natAbs

/-- sin(π r) for r in [0, 1] in fixed point. -/
def fxSinPi (r : Nat) : Nat := fxSin (fxMul fxPi (if 2 * r > fxOne then fxOne - r else r))

/-- `sinp`. -/
def sfSinp (b : Nat) : Nat :=
  let x := sfIn b
  if isNanCode x || isInfCode x then qnan
  else if isZeroCode x then x
  else
    let v := fxOf x
    let r := v % fxOne
    let neg := Bool.xor (isNegCode x) (v / fxOne % 2 = 1)
    if r = 0 then 0
    else if 2 * r = fxOne then sfRound (.fin neg 1 1 0)
    else roundBetween 0x3CF x neg (fxSinPi r)

/-- `cosp`: cos(πx) = sin(π(|x| + 1/2)). -/
def sfCosp (b : Nat) : Nat :=
  let x := sfIn b
  if isNanCode x || isInfCode x then qnan
  else if isZeroCode x then 0x3F800000
  else
    let v := fxOf x + fxOne / 2
    let r := v % fxOne
    let neg := v / fxOne % 2 = 1
    if r = 0 then 0
    else if 2 * r = fxOne then sfRound (.fin neg 1 1 0)
    else roundBetween 0x3D0 x neg (fxSinPi r)

/-- `tanh`: (1 - E) / (1 + E) with E = e^(-2|x|). -/
def sfTanh (b : Nat) : Nat :=
  let x := sfIn b
  if isNanCode x then qnan
  else if isZeroCode x then x
  else if isInfCode x || nb x 23 8 ≥ 127 + 7 then nb x 31 1 * 2 ^ 31 + 0x3F800000
  else
    let e := fxExpNeg (2 * fxOf x)
    roundBetween 0x3D1 x (isNegCode x) ((fxOne - e) * fxOne / (fxOne + e))

/-- `sigm`: 1 / (1 + e^-x), formed as E / (1 + E) with E = e^-|x| for negative x. -/
def sfSigm (b : Nat) : Nat :=
  let x := sfIn b
  if isNanCode x then qnan
  else if isZeroCode x then 0x3F000000
  else if isInfCode x || nb x 23 8 ≥ 127 + 7 then (if isNegCode x then 0 else 0x3F800000)
  else
    let e := fxExpNeg (fxOf x)
    roundBetween 0x3D2 x false ((if isNegCode x then e else fxOne) * fxOne / (fxOne + e))

/-! ### The triggers of `sf` -/

/-- Lanes of a mask row that are enabled (R235), and the bits of a row that its disabled lanes hold. -/
def laneOn (m : Row) (j : Nat) : Bool := !m.getLsbD j

/-- The bits of a row that a mask keeps (R272). -/
def keepMask (w n : Nat) (m : Row) : Row :=
  if nb m.toNat 0 n = 0 then 0 else ofLanes w ((List.range n).map fun j => if laneOn m j then 0 else 2 ^ w - 1)

/-- An `sf` trigger (R290, R216): 128 lanes under `.m`; the row sources are B, `.m` and, where it is read, `.a`. -/
def sfOp (m : Mv) (useA : Bool) (f : (a b : Nat) → Nat) (s : State) : Out :=
  s.trigR m fun b =>
    let k := s.me
    if k.tr.sfWait ≠ 0 then s.illegal 0x0B
    else
      let a := k.latchR 0x3C0
      let mm := k.latchR 0x3C2
      let data := ofLanes 32 ((List.range 128).map fun j => if laneOn mm.data j then f (lane 32 a.data j) (lane 32 b.data j) else 0)
      let tag := tagOf ([b.tag, mm.tag] ++ (if useA then [a.tag] else [])) 0
      s.modMe fun k => { k.fly 0x113 8 8 (.r ⟨data, tag⟩) (keepMask 32 128 mm.data) with tr.sfWait := 4 }

/-- `rcp` (R292). -/
def execRcp (m : Mv) (s : State) : Out := sfOp m false (fun _ b => sfRcp b) s

/-- `rsq` (R292). -/
def execRsq (m : Mv) (s : State) : Out := sfOp m false (fun _ b => sfRsq b) s

/-- `rcpstep` (R293). -/
def execRcpstep (m : Mv) (s : State) : Out := sfOp m true sfRcpStep s

/-- `rsqstep` (R293). -/
def execRsqstep (m : Mv) (s : State) : Out := sfOp m true sfRsqStep s

/-- `sqrt` (R294). -/
def execSqrt (m : Mv) (s : State) : Out := sfOp m false (fun _ b => sfSqrt b) s

/-- `exp2` (R294). -/
def execExp2 (m : Mv) (s : State) : Out := sfOp m false (fun _ b => sfExp2 b) s

/-- `log2` (R294). -/
def execLog2 (m : Mv) (s : State) : Out := sfOp m false (fun _ b => sfLog2 b) s

/-- `sinp` (R294). -/
def execSinp (m : Mv) (s : State) : Out := sfOp m false (fun _ b => sfSinp b) s

/-- `cosp` (R294). -/
def execCosp (m : Mv) (s : State) : Out := sfOp m false (fun _ b => sfCosp b) s

/-- `tanh` (R294). -/
def execTanh (m : Mv) (s : State) : Out := sfOp m false (fun _ b => sfTanh b) s

/-- `sigm` (R294). -/
def execSigm (m : Mv) (s : State) : Out := sfOp m false (fun _ b => sfSigm b) s

end Sys2Proof.Machine
end

