-- ==== Sys2Proof/Machine/Vector.lean ====
section
/-! DEFINITION. Vector: the operations of `va0` to `va2` (spec R270 to R289). -/

namespace Sys2Proof.Machine

open Sys2Proof

/-- Fields of the type latch (R233). -/
structure TyFields where
  ta : Option Ty
  td : Option Ty
  rm : Nat
  tt : Nat
  taCode : Nat
  tdCode : Nat
  deriving DecidableEq, Repr

/-- R233: `none` where a reserved field is not zero. -/
def tyFields (v : W64) : Option TyFields :=
  if bits v 5 3 ≠ 0 || bits v 24 40 ≠ 0 then none
  else some ⟨Ty.ofCode (bits v 0 5), Ty.ofCode (bits v 8 5), bits v 13 3, bits v 16 8, bits v 0 5, bits v 8 5⟩

/-- What a vector operation works on (R271): rows A, B, C and M, the type fields, and the core's SR seed. -/
structure VCtx where
  a : RowT
  b : RowT
  c : RowT
  m : RowT
  ta : Ty
  td : Option Ty
  rm : Nat
  tt : Nat
  seed : W64

/-- The lanes of a row in the layout of TA. -/
def VCtx.w (x : VCtx) : Nat := x.ta.width
def VCtx.n (x : VCtx) : Nat := x.ta.lanes
/-- A lane as read: bits [7:6] above a six-bit code are ignored (R270). -/
def VCtx.code (x : VCtx) (v : Nat) : Nat := if x.ta.six then v % 64 else v
def VCtx.la (x : VCtx) (j : Nat) : Nat := x.code (lane x.w x.a.data j)
def VCtx.lb (x : VCtx) (j : Nat) : Nat := x.code (lane x.w x.b.data j)
def VCtx.lc (x : VCtx) (j : Nat) : Nat := x.code (lane x.w x.c.data j)
def VCtx.on (x : VCtx) (j : Nat) : Bool := laneOn x.m.data j
/-- Bits [63:0] of a row read for a parameter (R271). -/
def VCtx.pa (x : VCtx) : W64 := x.a.data.extractLsb' 0 64
def VCtx.pc (x : VCtx) : W64 := x.c.data.extractLsb' 0 64
/-- A lane as an integer of TA, signed or unsigned. -/
def VCtx.int (x : VCtx) (v : Nat) : Int := if x.ta.signed then sint x.w v else (v : Int)

/-- A result: its lane width, its lanes, the events of its enabled lanes, and which of A and C it read. -/
structure VRes where
  w : Nat
  lanes : List Nat
  ev : Byte := 0
  readA : Bool := true
  readC : Bool := false
  /-- whether lanes of 8 bits hold 6-bit codes, written with zeros above (R270) -/
  six : Bool := false

/-- The float codes of R234. -/
def floatCode (c : Nat) : Bool := (0x08 ≤ c && c ≤ 0x0A) || (0x0C ≤ c && c ≤ 0x12)

/-- The latency class of R234: `vdot`, vector integer, or by type. -/
inductive VClass where
  | int | dot
  | byType (readsTd : Bool)
  deriving DecidableEq, Repr

def VClass.bound (c : VClass) (f : TyFields) : Nat :=
  match c with
  | .int => 2
  | .dot => 5
  | .byType td => if floatCode f.taCode || (td && floatCode f.tdCode) then 4 else 2

/-- A vector trigger (R271 to R273): the operation answers `none` where the trigger is illegal with detail `0x0A`. Under `.m`
disabled lanes keep what the port holds (R272); the tag is that of R199. -/
def vaOp (u : Fin 3) (m : Mv) (cls : VClass) (masked : Bool) (f : VCtx → Option VRes) (s : State) : Out :=
  s.trigR m fun b =>
    let k := s.me
    let base := 0x300 + 64 * u.val
    match tyFields (k.latchW (base + 3)) with
    | none => s.illegal 0x0A
    | some ty =>
      match ty.ta with
      | none => s.illegal 0x0A
      | some ta =>
        let x : VCtx := ⟨k.latchR base, b, k.latchR (base + 1), k.latchR (base + 2), ta, ty.td, ty.rm, ty.tt, k.regs.srseed⟩
        match f x with
        | none => s.illegal 0x0A
        | some r =>
          let lanes := if r.six then r.lanes.map fun v => v % 64 else r.lanes
          let tags := [b.tag] ++ (if masked then [x.m.tag] else []) ++ (if r.readA then [x.a.tag] else []) ++ (if r.readC then [x.c.tag] else [])
          let keep := if masked then keepMask r.w (4096 / r.w) x.m.data else 0
          let bound := cls.bound ty
          s.modMe fun k => k.fly (0x110 + u.val) bound bound (.r ⟨ofLanes r.w lanes, tagOf tags r.ev⟩) keep

/-- The type of an operation that ignores TA (R285, R286) still reads lanes of its own. -/
def vaRaw (u : Fin 3) (m : Mv) (f : (a b c : RowT) → Row) (readC : Bool) (s : State) : Out :=
  s.trigR m fun b =>
    let k := s.me
    let base := 0x300 + 64 * u.val
    match tyFields (k.latchW (base + 3)) with
    | none => s.illegal 0x0A
    | some _ =>
      let a := k.latchR base
      let c := k.latchR (base + 1)
      s.modMe fun k => k.fly (0x110 + u.val) 2 2
        (.r ⟨f a b c, tagOf ([a.tag, b.tag] ++ (if readC then [c.tag] else [])) 0⟩) 0

/-! ### Element-wise operations (R274) -/

/-- An element-wise operation by class: on integers, on a float format, on the halves of a complex lane; `none` where TA is not
accepted. Only enabled lanes are formed. -/
def lanewise (x : VCtx) (readA readC : Bool) (f : Nat → Nat) : Option VRes :=
  some { w := x.w, lanes := (List.range x.n).map fun j => if x.on j then f j else 0, readA := readA, readC := readC, six := x.ta.six }

/-- An operation of I and F; on a float type only RM 0 to 3 are legal. -/
def ewIF (readA readC : Bool) (fi : VCtx → (a b c : Nat) → Int) (ff : Fmt → Rm → (a b c : Nat) → Nat) (x : VCtx) : Option VRes :=
  if x.ta.isI then lanewise x readA readC fun j => low x.w (fi x (x.la j) (x.lb j) (x.lc j))
  else match (if x.ta.isF then x.ta.fmt else none) with
    | some fm => if x.rm > 3 then none else lanewise x readA readC fun j => ff fm (rmOf x.rm 0 0 0) (x.la j) (x.lb j) (x.lc j)
    | none => none

/-- An operation of I, F and X; X works on each 16-bit part. -/
def ewIFX (readA : Bool) (fi : VCtx → (a b c : Nat) → Int) (ff : Fmt → Rm → (a b c : Nat) → Nat) (x : VCtx) : Option VRes :=
  let halves := fun (g : (a b : Nat) → Nat) =>
    lanewise x readA false fun j => g (x.la j % 65536) (x.lb j % 65536) + 65536 * g (x.la j / 65536) (x.lb j / 65536)
  match x.ta with
  | .c16 => halves fun a b => low 16 (fi { x with ta := .s16 } a b 0)
  | .cbf16 => if x.rm > 3 then none else halves fun a b => ff fmtBf16 (rmOf x.rm 0 0 0) a b 0
  | _ => ewIF readA false fi ff x

/-- An operation of I alone. -/
def ewI (readA : Bool) (f : VCtx → (a b : Nat) → Int) (x : VCtx) : Option VRes :=
  if x.ta.isI then lanewise x readA false fun j => low x.w (f x (x.la j) (x.lb j)) else none

/-- A logic operation or `vsel`: TA only sets the lane width, so every bit of a lane counts. -/
def ewAny (readC : Bool) (f : VCtx → (a b c : Nat) → Nat) (x : VCtx) : Option VRes :=
  (lanewise x true readC fun j => f x (lane x.w x.a.data j) (lane x.w x.b.data j) (lane x.w x.c.data j)).map fun r => { r with six := false }

/-- NaN results are canonical (R176, R274). -/
def Fmt.canon (f : Fmt) (v r : Nat) : Nat := if (f.decode v).isNan then f.nanCode.getD 0 else r

/-- All ones where a comparison holds. -/
def cmpLane (w : Nat) (b : Bool) : Nat := if b then 2 ^ w - 1 else 0

/-- A comparison of I and F (R274): `un` is its answer for NaN operands. -/
def ewCmp (fi : Int → Bool) (un : Bool) (x : VCtx) : Option VRes :=
  if x.ta.isI then lanewise x true false fun j => cmpLane x.w (fi (x.int (x.la j) - x.int (x.lb j)))
  else match (if x.ta.isF then x.ta.fmt else none) with
    | some fm => if x.rm > 3 then none else lanewise x true false fun j =>
        let a := fm.decode (x.la j)
        let b := fm.decode (x.lb j)
        cmpLane x.w (if a.isNan || b.isNan then un else fi (a.cmp b))
    | none => none

/-- R274, R249: the truth table TT on every bit of a lane. -/
def vlut (w tt a b c : Nat) : Nat := lanesNat 1 ((List.range w).map fun i => nb tt (4 * nb a i 1 + 2 * nb b i 1 + nb c i 1) 1)

/-- The shift count of R274: B_j[log2 w - 1:0]. -/
def vshamt (w b : Nat) : Nat := b % w

/-! ### Conversion and scaling (R275 to R278) -/

/-- The placement of R275: each result lane with the source lane it converts, `none` where it is 0. -/
def placement (ta td : Ty) (part : Nat) : List (Option Nat) :=
  let n := min ta.lanes td.lanes
  (List.range td.lanes).map fun k =>
    if td.lanes > ta.lanes then (if part * n ≤ k && k < part * n + n then some (k - part * n) else none)
    else some (part * n + k)

/-- A conversion: the parameter PART, the target, and the result with the events of the enabled lanes. -/
def convertRow (x : VCtx) (td : Ty) (readA : Bool) (f : (src dst : Nat) → Nat × Byte) : Option VRes :=
  let part := bits x.pc 8 3
  if part ≥ max x.ta.lanes td.lanes / min x.ta.lanes td.lanes then none
  else
    let r := (placement x.ta td part).zip (List.range td.lanes) |>.map fun p =>
      match p.1 with | some src => if x.on p.2 then f src p.2 else (0, 0) | none => (0, 0)
    some { w := td.width, lanes := r.map Prod.fst, ev := r.foldl (fun e v => e ||| v.2) 0, readA := readA, readC := true }

/-- Types that `vcvt` and `ttcvt` convert to (R276). -/
def Ty.cvtTarget (t : Ty) : Bool := (t.isI || t.isF || t.isN) && t ≠ .e8m0

/-- `vcvt` (R276). -/
def vcvtRow (x : VCtx) : Option VRes :=
  match x.td with
  | some td =>
    if !(x.ta.isI || x.ta.isF || x.ta.isN) || !td.cvtTarget || x.rm > 4 then none
    else convertRow x td (x.rm = 4) fun src dst => td.encode (rmOf x.rm x.seed x.pa dst) (x.ta.value (x.lb src))
  | none => none

/-- `vsatq` (R277). -/
def vsatqRow (x : VCtx) : Option VRes :=
  match x.td with
  | some td =>
    if !x.ta.isI || !td.isI || x.rm > 4 then none
    else convertRow x td (x.rm = 4) fun src dst =>
      match x.ta.value (x.lb src) with
      | .fin n a d e => td.encode (rmOf x.rm x.seed x.pa dst) (.fin n a d (e - bits x.pc 0 6))
      | v => td.encode .rne v
  | none => none

/-- `vscale` (R278, R186). -/
def vscaleRow (x : VCtx) : Option VRes :=
  match x.td with
  | some td =>
    if !(x.ta.isI || x.ta.isF || x.ta.isN) || x.ta = .e8m0 || !td.cvtTarget || x.rm > 3 then none
    else convertRow x td true fun src _ =>
      let e4 := bits x.pc 0 1 = 1
      let sc := scaleVal e4 (lane 8 x.a.data (if e4 then src / 16 else src / 32))
      let v := x.ta.value (x.lb src)
      if sc.isNan then ((td.encode .rne .nan).1, evNan ||| 1)
      else td.encode (rmOf x.rm 0 0 0) (if bits x.pc 1 1 = 1 then v.div sc else v.mul sc)
  | none => none

/-! ### Dot products, reductions and min-sum (R279 to R281) -/

/-- The TD that a dot product of k elements needs for TA (R279). -/
def dotTarget (k : Nat) (t : Ty) : Option Ty :=
  match k, t with
  | 2, .f16 => some .f32
  | 2, .bf16 => some .f32
  | 2, .s16 => some .s32
  | 4, .e4m3 => some .f32
  | 4, .e5m2 => some .f32
  | 4, .e3m2 => some .f32
  | 4, .e2m3 => some .f32
  | 4, .s8 => some .s32
  | 4, .z8 => some .s32
  | _, _ => none

/-- `vdot2` and `vdot4` (R279, R197). -/
def vdotRow (k : Nat) (x : VCtx) : Option VRes :=
  match dotTarget k x.ta with
  | none => none
  | some td =>
    if x.td ≠ some td then none
    else
      let v := fun j =>
        let c := lane 32 x.c.data j
        if td = .s32 then
          low 32 ((List.range k).foldl (fun (t : Int) e => t + x.int (x.la (k * j + e)) * x.int (x.lb (k * j + e))) (c : Int))
        else
          (fmtF32.encode .rne (Fv.sum false (fmtF32.decode c ::
            (List.range k).map fun e => (x.ta.value (x.la (k * j + e))).mul (x.ta.value (x.lb (k * j + e)))))).1
      some { w := 32, lanes := (List.range 128).map fun j => if x.on j then v j else 0, readC := true }

/-- The sum of lanes (R280): modulo 2^w, or exact and rounded once. -/
def sumLanes (x : VCtx) (l : List Nat) : Nat :=
  match (if x.ta.isF then x.ta.fmt else none) with
  | some fm => (fm.encode .rne (Fv.sum false (l.map fun j => fm.decode (x.lb j)))).1
  | none => (l.foldl (fun t j => t + x.lb j) 0) % 2 ^ x.w

/-- The minimum or maximum of lanes, as in R274. -/
def bestLanes (mx : Bool) (x : VCtx) (l : List Nat) : Nat :=
  match l with
  | [] => 0
  | j :: t =>
    match (if x.ta.isF then x.ta.fmt else none) with
    | some fm => t.foldl (fun r i => fm.minmax mx r (x.lb i)) (fm.minmax mx (x.lb j) (x.lb j))
    | none => t.foldl (fun r i => if decide (x.int (x.lb i) < x.int r) = !mx then (if x.int (x.lb i) = x.int r then r else x.lb i) else r) (x.lb j)

/-- The enabled lanes of a group of 2^lg lanes from lane g0. -/
def enabledOf (x : VCtx) (lg g0 : Nat) : List Nat := ((List.range (2 ^ lg)).map fun i => g0 + i).filter x.on

/-- A grouped operation (R280): the lanes of each group in order; illegal where the group exceeds the row. -/
def grouped (x : VCtx) (least : Nat) (f : (lg g0 : Nat) → List Nat) : Option VRes :=
  let lg := bits x.pa 0 4
  if 2 ^ lg > x.n || lg < least then none
  else some { w := x.w, lanes := (List.range (x.n / 2 ^ lg)).flatMap fun g => f lg (g * 2 ^ lg) }

/-- `vsum`, `vrmax`, `vrmin`: the first lane of each group takes the result, every other one 0. -/
def vreduceRow (f : VCtx → List Nat → Nat) (x : VCtx) : Option VRes :=
  if !(x.ta.isI || x.ta.isF) then none
  else grouped x 0 fun lg g0 => (if x.on g0 then f x (enabledOf x lg g0) else 0) :: List.replicate (2 ^ lg - 1) 0

/-- `vscan` (R280). -/
def vscanRow (x : VCtx) : Option VRes :=
  if !(x.ta.isI || x.ta.isF) then none
  else grouped x 0 fun lg g0 => (List.range (2 ^ lg)).map fun i =>
    if x.on (g0 + i) then sumLanes x ((enabledOf x lg g0).filter (· ≤ g0 + i)) else 0

/-- The magnitude of R281: of a signed integer, the most negative giving the largest; of a float, its code without the sign. -/
def magOf (x : VCtx) (v : Nat) : Nat :=
  if x.ta.isF then v % 2 ^ (x.w - 1)
  else min (2 ^ (x.w - 1) - 1) (x.int v).natAbs

/-- The least of a list of pairs by its first part, the earliest on a tie. -/
def leastPair : List (Nat × Nat) → Option (Nat × Nat)
  | [] => none
  | p :: t => match leastPair t with | some q => if q.1 < p.1 then some q else some p | none => some p

/-- MIN1, MIN2, ARG and SGN of a group (R281). -/
def min2Group (x : VCtx) (g0 : Nat) (l : List Nat) : List Nat :=
  let sgn := l.foldl (fun t j => (t + nb (x.lb j) (x.w - 1) 1) % 2) 0
  let top := if x.ta.isF then (x.ta.fmt.bind Fmt.infCode).getD 0 else 2 ^ (x.w - 1) - 1
  let isNan := fun j => match (if x.ta.isF then x.ta.fmt else none) with | some fm => (fm.decode (x.lb j)).isNan | none => false
  match l.find? isNan with
  | some j => let q := (x.ta.fmt.bind Fmt.nanCode).getD 0; [q, q, (j - g0) % 2 ^ x.w, sgn]
  | none =>
    let ms := l.map fun j => (magOf x (x.lb j), j)
    match leastPair ms with
    | none => [0, 0, 0, 0]
    | some (m, j) => [m, ((leastPair (ms.filter fun p => p.2 ≠ j)).map Prod.fst).getD top, (j - g0) % 2 ^ x.w, sgn]

/-- `vmin2` (R281). -/
def vmin2Row (x : VCtx) : Option VRes :=
  if !([Ty.s8, .s16, .s32, .f16, .bf16, .f32].contains x.ta) then none
  else grouped x 2 fun lg g0 => min2Group x g0 (enabledOf x lg g0) ++ List.replicate (2 ^ lg - 4) 0

/-! ### Complex operations (R282) -/

/-- A `bf16` part: a sum of terms formed exactly and rounded once. -/
def cbfSum (l : List Fv) : Nat := (fmtBf16.encode .rne (Fv.sum false l)).1

/-- An operation of X on lanes of 32 bits. -/
def complexRow (x : VCtx) (readA readC : Bool) (fc fb : (a b c : Nat) → Nat) : Option VRes :=
  match x.ta with
  | .c16 => lanewise x readA readC fun j => fc (x.la j) (x.lb j) (x.lc j)
  | .cbf16 => lanewise x readA readC fun j => fb (x.la j) (x.lb j) (x.lc j)
  | _ => none

/-- The terms of a complex product of two `cbf16` lanes: those of the real part and those of the imaginary part. -/
def cbfTerms (a b : Nat) : List Fv × List Fv :=
  let d := fun v => fmtBf16.decode (v % 65536)
  let ar := d a
  let ai := d (a / 65536)
  let br := d b
  let bi := d (b / 65536)
  ([ar.mul br, (ai.mul bi).neg], [ar.mul bi, ai.mul br])

/-- `vcmul` (R282). -/
def vcmulRow (x : VCtx) : Option VRes :=
  complexRow x true false (fun a b _ => cmulQ15 a b false)
    fun a b _ => let t := cbfTerms a b; cbfSum t.1 + 65536 * cbfSum t.2

/-- `vcmac` (R282). -/
def vcmacRow (x : VCtx) : Option VRes :=
  complexRow x true true
    (fun a b c =>
      let ar := sint 16 a
      let ai := sint 16 (a / 65536)
      let br := sint 16 b
      let bi := sint 16 (b / 65536)
      let part := fun (c p : Int) => low 16 (satS 16 (roundNEshift (c * 2 ^ 15 + p) 15))
      part (sint 16 c) (ar * br - ai * bi) + 65536 * part (sint 16 (c / 65536)) (ar * bi + ai * br))
    fun a b c =>
      let t := cbfTerms a b
      cbfSum (fmtBf16.decode (c % 65536) :: t.1) + 65536 * cbfSum (fmtBf16.decode (c / 65536) :: t.2)

/-- `vconj` (R282). -/
def vconjRow (x : VCtx) : Option VRes :=
  complexRow x false false
    (fun _ b _ => b % 65536 + 65536 * low 16 (satS 16 (-(sint 16 (b / 65536)))))
    fun _ b _ => fmtBf16.canon (b % 65536) (b % 65536) + 65536 * fmtBf16.canon (b / 65536) ((b / 65536) ^^^ 0x8000)

/-- `vcabs2` (R282). -/
def vcabs2Row (x : VCtx) : Option VRes :=
  complexRow x false false
    (fun _ b _ => low 32 (sint 16 b * sint 16 b + sint 16 (b / 65536) * sint 16 (b / 65536)))
    fun _ b _ =>
      let re := fmtBf16.decode (b % 65536)
      let im := fmtBf16.decode (b / 65536)
      (fmtF32.encode .rne (Fv.sum false [re.mul re, im.mul im])).1

/-! ### Permutations (R283 to R288) -/

/-- `vperm` (R283). -/
def vpermRow (x : VCtx) : Option VRes :=
  let n := x.n
  if x.w ≥ 16 then lanewise x true true fun j => let i := x.lb j % (2 * n); if i < n then x.la i else x.lc (i - n)
  else if x.w = 8 then lanewise x true false fun j => x.la (j / 256 * 256 + x.lb j)
  else lanewise x true false fun j => x.la (j / 256 * 256 + x.lb j)

/-- `vshuf` (R284). -/
def vshufRow (x : VCtx) : Option VRes :=
  let h := x.n / 2
  let mode := bits x.pc 0 2
  lanewise x true true fun j =>
    if mode < 2 then (if j % 2 = 0 then x.la (mode * h + j / 2) else x.lb (mode * h + j / 2))
    else if j < h then x.la (2 * j + (mode - 2)) else x.lb (2 * (j - h) + (mode - 2))

/-- The lane number s of R284. -/
def VCtx.sel (x : VCtx) (v : W64) : Nat := bits v 0 16 % x.n

/-- The order of `totalOrder` of IEEE 754-2019 on codes, and of integers by value (R287). -/
def sortKey (x : VCtx) (v : Nat) : Int :=
  if x.ta.isF then (if nb v (x.w - 1) 1 = 1 then -((v % 2 ^ (x.w - 1) : Nat) : Int) - 1 else (v : Int)) else x.int v

/-- `vsort2` (R287). -/
def vsort2Row (x : VCtx) : Option VRes :=
  let d := bits x.pa 0 4
  if !(x.ta.isI || x.ta.isF) || 2 ^ d ≥ x.n then none
  else lanewise x true false fun i =>
    let hiLane := nb i d 1 = 1
    let j := if hiLane then i - 2 ^ d else i
    let bj := x.lb j
    let bp := x.lb (j + 2 ^ d)
    let asc := (nb j (bits x.pa 8 4) 1 + bits x.pa 12 1) % 2 = 0
    let swap := decide (sortKey x bp < sortKey x bj)
    let lo := if swap then bp else bj
    let hi := if swap then bj else bp
    if asc = hiLane then hi else lo

/-- `vext` (R288). -/
def vextRow (x : VCtx) : Option VRes :=
  let v := x.lb (x.sel x.pa)
  some { w := 64, lanes := [if x.ta.signed then (sextN x.w v).toNat else v] }

/-- `vins` (R288). -/
def vinsRow (x : VCtx) : Option VRes :=
  let s := x.sel x.pc
  some { w := x.w, lanes := (List.range x.n).map fun j => if j = s then x.lb 0 else x.la j, readC := true }

/-- `vbperm` (R285). -/
def vbpermRow (a b : RowT) : Row :=
  ofLanes 1 ((List.range 256).map fun i =>
    let x := lane 16 a.data i
    if nb x 15 1 = 1 then 0 else (b.data.getLsbD (nb x 0 12)).toNat)

/-- `vbmat8` (R286). -/
def vbmat8Row (a b c : RowT) : Row :=
  let orMode := c.data.getLsbD 0
  ofLanes 1 ((List.range 4096).map fun t =>
    let v := lane 8 a.data (t / 64 * 8 + t % 8) &&& lane 8 b.data (t / 8)
    if orMode then (if v ≠ 0 then 1 else 0) else popcN 8 v % 2)

/-! ### Poison operations (R289) -/

/-- A poison operation: `.m` and `.ty` are ignored, and the tag replaces the rule of R199. -/
def vaPoison (u : Fin 3) (m : Mv) (f : RowT → W64 → RowT) (s : State) : Out :=
  s.trigR m fun b =>
    let a := s.me.latchW (0x300 + 64 * u.val)
    s.modMe fun k => k.fly (0x110 + u.val) 2 2 (.r (f b a)) 0

/-- The tag bits of A[5:0]. -/
def poisonBits (a : W64) : Byte := BitVec.ofNat 8 (bits a 0 6)

/-! ### The triggers -/

/-- `vadd` (R274). -/
def execVadd (u : Fin 3) (m : Mv) (s : State) : Out :=
  vaOp u m (.byType false) true (ewIFX true (fun x a b _ => x.int a + x.int b) fun f rm a b _ => f.add rm a b) s

/-- `vsub` (R274). -/
def execVsub (u : Fin 3) (m : Mv) (s : State) : Out :=
  vaOp u m (.byType false) true (ewIFX true (fun x a b _ => x.int a - x.int b) fun f rm a b _ => f.sub rm a b) s

/-- `vmul` (R274). -/
def execVmul (u : Fin 3) (m : Mv) (s : State) : Out :=
  vaOp u m (.byType false) true (ewIF true false (fun x a b _ => x.int a * x.int b) fun f rm a b _ => f.mul rm a b) s

/-- `vmulh` (R274). -/
def execVmulh (u : Fin 3) (m : Mv) (s : State) : Out :=
  vaOp u m (.byType false) true (ewI true fun x a b => x.int a * x.int b / 2 ^ x.w) s

/-- `vfma` (R274). -/
def execVfma (u : Fin 3) (m : Mv) (s : State) : Out :=
  vaOp u m (.byType false) true (ewIF true true (fun x a b c => x.int a * x.int b + x.int c) fun f rm a b c => f.fma rm a b c) s

/-- `vabs` (R274). -/
def execVabs (u : Fin 3) (m : Mv) (s : State) : Out :=
  vaOp u m (.byType false) true (ewIF false false (fun x _ b _ => ((x.int b).natAbs : Int)) fun f _ _ b _ => f.canon b (b % 2 ^ f.signPos)) s

/-- `vneg` (R274). -/
def execVneg (u : Fin 3) (m : Mv) (s : State) : Out :=
  vaOp u m (.byType false) true (ewIFX false (fun x _ b _ => -(x.int b)) fun f _ _ b _ => f.canon b (b ^^^ 2 ^ f.signPos)) s

/-- `vmin` (R274). -/
def execVmin (u : Fin 3) (m : Mv) (s : State) : Out :=
  vaOp u m (.byType false) true (ewIF true false (fun x a b _ => min (x.int a) (x.int b)) fun f _ a b _ => f.minmax false a b) s

/-- `vmax` (R274). -/
def execVmax (u : Fin 3) (m : Mv) (s : State) : Out :=
  vaOp u m (.byType false) true (ewIF true false (fun x a b _ => max (x.int a) (x.int b)) fun f _ a b _ => f.minmax true a b) s

/-- `vclamp` (R274). -/
def execVclamp (u : Fin 3) (m : Mv) (s : State) : Out :=
  vaOp u m (.byType false) true (ewIF true true (fun x a b c => min (max (x.int b) (x.int a)) (x.int c)) fun f _ a b c => f.minmax false (f.minmax true b a) c) s

/-- `vand` (R274). -/
def execVand (u : Fin 3) (m : Mv) (s : State) : Out :=
  vaOp u m .int true (ewAny false fun _ a b _ => a &&& b) s

/-- `vor` (R274). -/
def execVor (u : Fin 3) (m : Mv) (s : State) : Out :=
  vaOp u m .int true (ewAny false fun _ a b _ => a ||| b) s

/-- `vxor` (R274). -/
def execVxor (u : Fin 3) (m : Mv) (s : State) : Out :=
  vaOp u m .int true (ewAny false fun _ a b _ => a ^^^ b) s

/-- `vlut3` (R274). -/
def execVlut3 (u : Fin 3) (m : Mv) (s : State) : Out :=
  vaOp u m .int true (ewAny true fun x a b c => vlut x.w x.tt a b c) s

/-- `vshl` (R274). -/
def execVshl (u : Fin 3) (m : Mv) (s : State) : Out :=
  vaOp u m .int true (ewI true fun x a b => ((a * 2 ^ vshamt x.w b : Nat) : Int)) s

/-- `vshr` (R274). -/
def execVshr (u : Fin 3) (m : Mv) (s : State) : Out :=
  vaOp u m .int true (ewI true fun x a b => ((a / 2 ^ vshamt x.w b : Nat) : Int)) s

/-- `vsra` (R274). -/
def execVsra (u : Fin 3) (m : Mv) (s : State) : Out :=
  vaOp u m .int true (ewI true fun x a b => sint x.w a / 2 ^ vshamt x.w b) s

/-- `vclz` (R274). -/
def execVclz (u : Fin 3) (m : Mv) (s : State) : Out :=
  vaOp u m .int true (ewI false fun x _ b => ((clzN x.w b : Nat) : Int)) s

/-- `vpopc` (R274). -/
def execVpopc (u : Fin 3) (m : Mv) (s : State) : Out :=
  vaOp u m .int true (ewI false fun x _ b => ((popcN x.w b : Nat) : Int)) s

/-- `vcmpeq` (R274). -/
def execVcmpeq (u : Fin 3) (m : Mv) (s : State) : Out :=
  vaOp u m (.byType false) true (ewCmp (fun c => decide (c = 0)) false) s

/-- `vcmpne` (R274). -/
def execVcmpne (u : Fin 3) (m : Mv) (s : State) : Out :=
  vaOp u m (.byType false) true (ewCmp (fun c => decide (c ≠ 0)) true) s

/-- `vcmplt` (R274). -/
def execVcmplt (u : Fin 3) (m : Mv) (s : State) : Out :=
  vaOp u m (.byType false) true (ewCmp (fun c => decide (c < 0)) false) s

/-- `vcmple` (R274). -/
def execVcmple (u : Fin 3) (m : Mv) (s : State) : Out :=
  vaOp u m (.byType false) true (ewCmp (fun c => decide (c ≤ 0)) false) s

/-- `vsel` (R274). -/
def execVsel (u : Fin 3) (m : Mv) (s : State) : Out :=
  vaOp u m (.byType false) true (ewAny true fun _ a b c => if c ≠ 0 then a else b) s

/-- `vcvt` (R276). -/
def execVcvt (u : Fin 3) (m : Mv) (s : State) : Out :=
  vaOp u m (.byType true) true (vcvtRow) s

/-- `vsatq` (R277). -/
def execVsatq (u : Fin 3) (m : Mv) (s : State) : Out :=
  vaOp u m (.byType true) true (vsatqRow) s

/-- `vscale` (R278). -/
def execVscale (u : Fin 3) (m : Mv) (s : State) : Out :=
  vaOp u m (.byType true) true (vscaleRow) s

/-- `vdot2` (R279). -/
def execVdot2 (u : Fin 3) (m : Mv) (s : State) : Out :=
  vaOp u m .dot true (vdotRow 2) s

/-- `vdot4` (R279). -/
def execVdot4 (u : Fin 3) (m : Mv) (s : State) : Out :=
  vaOp u m .dot true (vdotRow 4) s

/-- `vsum` (R280). -/
def execVsum (u : Fin 3) (m : Mv) (s : State) : Out :=
  vaOp u m (.byType false) true (vreduceRow sumLanes) s

/-- `vrmax` (R280). -/
def execVrmax (u : Fin 3) (m : Mv) (s : State) : Out :=
  vaOp u m (.byType false) true (vreduceRow (bestLanes true)) s

/-- `vrmin` (R280). -/
def execVrmin (u : Fin 3) (m : Mv) (s : State) : Out :=
  vaOp u m (.byType false) true (vreduceRow (bestLanes false)) s

/-- `vscan` (R280). -/
def execVscan (u : Fin 3) (m : Mv) (s : State) : Out :=
  vaOp u m (.byType false) true (vscanRow) s

/-- `vmin2` (R281). -/
def execVmin2 (u : Fin 3) (m : Mv) (s : State) : Out :=
  vaOp u m (.byType false) true (vmin2Row) s

/-- `vcmul` (R282). -/
def execVcmul (u : Fin 3) (m : Mv) (s : State) : Out :=
  vaOp u m (.byType false) true (vcmulRow) s

/-- `vcmac` (R282). -/
def execVcmac (u : Fin 3) (m : Mv) (s : State) : Out :=
  vaOp u m (.byType false) true (vcmacRow) s

/-- `vconj` (R282). -/
def execVconj (u : Fin 3) (m : Mv) (s : State) : Out :=
  vaOp u m (.byType false) true (vconjRow) s

/-- `vcabs2` (R282). -/
def execVcabs2 (u : Fin 3) (m : Mv) (s : State) : Out :=
  vaOp u m (.byType false) true (vcabs2Row) s

/-- `vperm` (R283). -/
def execVperm (u : Fin 3) (m : Mv) (s : State) : Out :=
  vaOp u m .int true (vpermRow) s

/-- `vbperm` (R285). -/
def execVbperm (u : Fin 3) (m : Mv) (s : State) : Out := vaRaw u m (fun a b _ => vbpermRow a b) false s

/-- `vbmat8` (R286). -/
def execVbmat8 (u : Fin 3) (m : Mv) (s : State) : Out := vaRaw u m vbmat8Row true s

/-- `vshuf` (R284). -/
def execVshuf (u : Fin 3) (m : Mv) (s : State) : Out :=
  vaOp u m .int true (vshufRow) s

/-- `vrot` (R284). -/
def execVrot (u : Fin 3) (m : Mv) (s : State) : Out :=
  vaOp u m .int true (fun x => lanewise x true false fun j => x.lb ((j + x.sel x.pa) % x.n)) s

/-- `vsort2` (R287). -/
def execVsort2 (u : Fin 3) (m : Mv) (s : State) : Out :=
  vaOp u m (.byType false) true (vsort2Row) s

/-- `vbcast` (R284). -/
def execVbcast (u : Fin 3) (m : Mv) (s : State) : Out :=
  vaOp u m .int true (fun x => lanewise x true false fun _ => x.lb (x.sel x.pa)) s

/-- `vext` (R288). -/
def execVext (u : Fin 3) (m : Mv) (s : State) : Out :=
  vaOp u m .int false (vextRow) s

/-- `vins` (R288). -/
def execVins (u : Fin 3) (m : Mv) (s : State) : Out :=
  vaOp u m .int false (vinsRow) s

/-- `vptest` (R289): the tag of B as data, in a row with a clear tag. -/
def execVptest (u : Fin 3) (m : Mv) (s : State) : Out := vaPoison u m (fun b _ => ⟨b.tag.setWidth 4096, 0⟩) s

/-- `vpset` (R289). -/
def execVpset (u : Fin 3) (m : Mv) (s : State) : Out :=
  vaPoison u m (fun b a => ⟨b.data, (b.tag ||| events (poisonBits a)) &&& 0x3F⟩) s

/-- `vpclr` (R289). -/
def execVpclr (u : Fin 3) (m : Mv) (s : State) : Out := vaPoison u m (fun b a => ⟨b.data, b.tag &&& ~~~poisonBits a &&& 0x3F⟩) s

end Sys2Proof.Machine
end

