-- ==== Sys2Proof/Machine/Transpose.lean ====
section
/-! DEFINITION. Transpose: the transpose unit `tt` (spec R295, R296). -/

namespace Sys2Proof.Machine

open Sys2Proof

/-- A tile row: 64 elements in the low half of the row. -/
def Core.tileRow (k : Core) (tile r : Nat) : RowT := mrd RowT.zero k.tr.tiles (tile * 64 + r)

def Core.setTileRow (k : Core) (tile r : Nat) (v : RowT) : Core :=
  { k with tr.tiles := mwr RowT.zero k.tr.tiles (tile * 64 + r) v, tr.tileLog := (tile * 64 + r, v) :: k.tr.tileLog }

/-- Element k of the columns from COL of a tile. -/
def Core.tileElem (c : Core) (tile col k : Nat) : Nat := lane 32 (c.tileRow tile (k % 64)).data ((col + k / 64) % 64)

/-- The tags of all 64 rows of a tile. -/
def Core.tileTags (c : Core) (tile : Nat) : List Byte := (List.range 64).map fun r => (c.tileRow tile r).tag

/-- `ttw` (R295). It names no type latch: what `tt.ty` holds does not make it illegal (DEDUCED, log 95). -/
def execTtw (m : Mv) (s : State) : Out :=
  s.trigR m fun b =>
    let a := s.me.latchW 0x400
    if a &&& ~~~(0x13F03 : W64) ≠ 0 then s.illegal 0x0A
    else s.modMe fun k => k.setTileRow (bits a 0 2) (bits a 8 6)
      ⟨((b.data >>> (2048 * bits a 16 1)).setWidth 2048).setWidth 4096, b.tag⟩

/-- `ttr` (R295). It names no type latch: what `tt.ty` holds does not make it illegal (DEDUCED, log 95). -/
def execTtr (m : Mv) (s : State) : Out :=
  s.trig m fun b =>
    if b &&& ~~~(0x3F03 : W64) ≠ 0 then s.illegal 0x0A
    else
      let k := s.me
      let t := bits b 0 2
      s.fly 0x114 3 (.r ⟨ofLanes 32 ((List.range 128).map fun i => k.tileElem t (bits b 8 6) i), tagOf (k.tileTags t) 0⟩)

/-- `ttclr` (R295). It names no type latch: what `tt.ty` holds does not make it illegal (DEDUCED, log 95). -/
def execTtclr (m : Mv) (s : State) : Out :=
  s.trig m fun b =>
    if b &&& ~~~(0x3 : W64) ≠ 0 then s.illegal 0x0A
    else s.modMe fun k => (List.range 64).foldl (fun k r => k.setTileRow (bits b 0 2) r RowT.zero) k

/-- `ttcvt` (R295, R296). -/
def execTtcvt (m : Mv) (s : State) : Out :=
  s.trig m fun b =>
    let k := s.me
    if b &&& ~~~(0x3F03 : W64) ≠ 0 then s.illegal 0x0A
    else match tyFields (k.latchW 0x403) with
      | none => s.illegal 0x0A
      | some f => match f.ta, f.td with
        | some ta, some td =>
          if !([Ty.s32, .z32, .f32].contains ta) || !td.cvtTarget || f.rm > 4 then s.illegal 0x0A
          else
            let t := bits b 0 2
            let r := (List.range td.lanes).map fun i =>
              td.encode (rmOf f.rm k.regs.srseed (k.latchW 0x400) i) (ta.value (k.tileElem t (bits b 8 6) i))
            s.fly 0x114 3 (.r ⟨ofLanes td.width (r.map Prod.fst), tagOf (k.tileTags t) (r.foldl (fun e v => e ||| v.2) 0)⟩)
        | _, _ => s.illegal 0x0A

end Sys2Proof.Machine
end

