-- ==== Sys2Proof/Machine/Cim.lean ====
section
/-! DEFINITION. Cim: the micro-sequencer and its micro-operations (spec R321 to R334, R344 to R351). A word that waits leaves the
state as it is; a word's effects are whole (log 17). -/

namespace Sys2Proof.Machine

open Sys2Proof

/-! ### Formats and the configuration (R338, R339) -/

/-- The element type of a format code of R338, where it is a floating-point one. -/
def cimTy (f : Nat) : Option Ty :=
  match f with
  | 4 => some .e2m1
  | 5 => some .e2m3
  | 6 => some .e3m2
  | 7 => some .e4m3
  | 8 => some .e5m2
  | 9 => some .bf16
  | 10 => some .f16
  | _ => none

/-- Block-aligned formats (R189). -/
def cimBlock (f : Nat) : Bool := 6 ≤ f && f ≤ 10

/-- R339: the widths a format takes. -/
def widthOk (f w mx : Nat) : Bool :=
  match f with
  | 0 => 1 ≤ w && w ≤ 8
  | 1 => w = 1
  | 2 => w = 1
  | 3 => w = 2
  | 4 => w = 5
  | 5 => w = 7
  | _ => 2 ≤ w && w ≤ mx

/-- The weight fields are valid for weights (R339). -/
def CimCfg.weightOk (c : CimCfg) : Bool := c.wfmt ≤ 8 && widthOk c.wfmt c.ww 8 && c.wbs ≠ 3

/-- R339: the cause of an invalid configuration. R194 accepts no `g1` operand under the sum tree in integer promotion and gives no cause for
one: DESIGN CHOICE `CIMILL` (log 72). -/
def CimCfg.invalid (c : CimCfg) : Option Nat :=
  if !c.weightOk || c.afmt > 10 || !widthOk c.afmt c.wa 12 || c.prm = 3 || c.abs = 3 then some 1
  else
    let par := c.wfmt = 1 && c.afmt = 1
    if c.tree ≠ par || (par && (c.prm ≠ 0 || c.wbs ≠ 0 || c.abs ≠ 0)) then some 1
    else if c.prm < 2 && (cimBlock c.wfmt || cimBlock c.afmt) then some 2
    else if c.prm < 2 && !par && (c.wfmt = 1 || c.afmt = 1) then some 1
    else none

/-- Outputs of a macro (R322). -/
def CimCfg.nout (c : CimCfg) : Nat := 256 / c.ww

/-- R328. -/
def CimCfg.blockMode (c : CimCfg) : Bool := c.prm = 2 && (cimBlock c.wfmt || cimBlock c.afmt || c.wbs ≠ 0 || c.abs ≠ 0)

/-- The run block of R192. -/
def CimCfg.runBlock (c : CimCfg) : Nat := if c.wbs = 2 || c.abs = 2 then 16 else 32

/-- The weight block of R359 and the activation alignment block of R323. -/
def CimCfg.wBlock (c : CimCfg) : Nat := if c.wbs = 2 then 16 else 32
def CimCfg.aBlock (c : CimCfg) : Nat := if c.abs = 2 then 16 else 32

/-- Whether operands are signed (R322, R324). -/
def CimCfg.wSigned (c : CimCfg) : Bool := c.wfmt ≠ 1 && (c.wfmt ≠ 0 || c.wsg)
def CimCfg.aSigned (c : CimCfg) : Bool := c.afmt ≠ 1 && (c.afmt ≠ 0 || c.asg)

/-- The code of 1.0 of a block-scale format (R359). -/
def oneCode (fmt : Nat) : Byte := if fmt = 2 then 0x38 else 0x7F

/-- N and M of a pattern code (R326, R347). -/
def patNM (p : Nat) : Nat × Nat :=
  match p with
  | 1 => (1, 2)
  | 2 => (2, 4)
  | 3 => (1, 4)
  | 4 => (2, 8)
  | 5 => (4, 8)
  | _ => (1, 1)

/-! ### Alignment (R187 to R191) -/

/-- The exponent of a finite non-zero value. -/
def Fv.log2 : Fv → Option Int
  | .fin _ n d e => if n = 0 then none else some (Machine.log2Q n d + e)
  | _ => none

/-- R189: the aligned integers of a block and its shift. -/
def alignBlock (w : Nat) (l : List Fv) : List Int × Int :=
  match (l.filterMap Fv.log2).foldl (fun (m : Option Int) e => match m with | none => some e | some x => some (max x e)) none with
  | none => (l.map fun _ => 0, 0)
  | some emax =>
    let k := emax - (w - 2)
    let top : Int := 2 ^ (w - 1) - 1
    (l.map fun v => match v with
      | .fin neg n d e => max (-top) (min top (roundInt .rne neg n d (e - k)))
      | _ => 0, k)

/-- Whether a value is a NaN or an infinity. -/
def Fv.special : Fv → Bool
  | .fin .. => false
  | _ => true

/-- R173: a `t2` code. -/
def t2Value (x : Nat) : Int := match x % 4 with | 1 => 1 | 3 => -1 | _ => 0

/-- The aligned integers of a block of codes under a format, its shift, and which elements are NaN or infinite. -/
def alignCodes (f w : Nat) (sg : Bool) (l : List Nat) : List Int × Int × List Bool :=
  let clear := l.map fun _ => false
  match cimTy f with
  | some ty =>
    let vs := l.map ty.value
    if f = 4 then (vs.map fun v => v.units (-1), -1, clear)
    else if f = 5 then (vs.map fun v => v.units (-3), -3, clear)
    else
      let (q, k) := alignBlock w vs
      (q, k, vs.map Fv.special)
  | none =>
    (l.map fun x => match f with
      | 1 => ((x % 2 : Nat) : Int)
      | 2 => if x % 2 = 1 then 1 else -1
      | 3 => t2Value x
      | _ => if sg then sint w x else ((x % 2 ^ w : Nat) : Int), 0, clear)

/-- A list cut into runs of n, for at most `fuel` runs. -/
def chunks {α : Type} (n : Nat) : Nat → List α → List (List α)
  | 0, _ => []
  | fuel + 1, l => match l with | [] => [] | _ => l.take n :: chunks n fuel (l.drop n)

/-- The lane width of an activation format (R323). -/
def actWidth (f : Nat) : Nat := if f = 4 then 4 else if f = 9 || f = 10 then 16 else 8

/-- The activation latch after a load (R323): aligned lanes, the shift of each block, and the tag with the events of R191. -/
structure Latched where
  q : List Int
  k : List Int
  ba : Nat
  tag : Byte
  deriving DecidableEq, Repr

def latchRow (c : CimCfg) (r : RowT) : Latched :=
  let w := actWidth c.afmt
  let lanes := (List.range (4096 / w)).map fun j => lane w r.data j
  let bl := (chunks c.aBlock 1024 lanes).map (alignCodes c.afmt c.wa c.asg)
  ⟨bl.flatMap fun b => b.1, bl.map fun b => b.2.1, c.aBlock, if bl.any (fun b => b.2.2.any id) then r.tag ||| 3 else r.tag⟩

/-! ### A broadcast into one macro (R324 to R328, R331) -/

/-- The shift and the scale code that a half holds for an output and a block. -/
def Half.shiftAt (h : Half) (o b : Nat) : Int := mrd h.shift0 h.shifts (o * 256 + b)
def Half.scaleAt (h : Half) (o b : Nat) : Scale := mrd h.scale0 h.scales (o * 256 + b)

/-- The code that an entry of a scale store gives under a format, where a fill gave it one. -/
def Scale.codeIn (x : Scale) (fmt : Nat) : Option Byte :=
  match x with
  | .none => Option.none
  | .one => some (oneCode fmt)
  | .code b => some b

/-- The sum of two bits on bit 0 of an integer (R325). -/
def xorBit (v : Int) (b : Nat) : Int := if b % 2 = 0 then v else if v % 2 = 0 then v + 1 else v - 1

/-- The bits of stored row r of a half. -/
def Half.rowBits (h : Half) (r : Nat) : Nat := rdNat h.cells (r * 32) 32

/-- The aligned weight of output o in the bits of a row (R322). -/
def weightOf (c : CimCfg) (bits o : Nat) : Int :=
  let v := nb bits (c.ww * o) c.ww
  if c.wfmt = 2 then (if v = 1 then 1 else -1)
  else if c.wfmt = 3 then t2Value v
  else if c.wSigned then sint c.ww v else (v : Int)

/-- Slices of an aligned activation (R324). -/
def slices (c : CimCfg) (q : Int) : List Int :=
  if c.afmt = 2 then [q]
  else
    let u := low c.wa q
    (List.range c.wa).map fun j => if nb u j 1 = 0 then 0 else if c.aSigned && j + 1 = c.wa then -(2 ^ j : Int) else 2 ^ j

/-- A 26-bit add (R327): the wrapped sum, and whether it wrapped. -/
def wrap26 (x : Int) : Int × Bool :=
  if -(2 ^ 25 : Int) ≤ x ∧ x < 2 ^ 25 then (x, false) else (sint 26 (low 26 x), true)

/-- Rows of a broadcast: the stored row, the latch lane it takes and its block (R324, R326). -/
def mbcRows (h : Half) (pat g lane0 : Nat) (bm : Bool) (b : Nat) : List (Nat × Nat × Nat) :=
  let (n, m) := patNM pat
  (List.range 64).map fun r =>
    let row := 64 * g + r
    let s := if pat = 0 then lane0 + r else lane0 + r / n * m + mrd 0 h.sels row % m
    (row, s, if bm then (s - lane0) / b else 0)

/-- The span of a window in latch lanes (R326). -/
def mbcSpan (pat : Nat) : Nat := 64 * (patNM pat).2 / (patNM pat).1

/-- One slice added into every output of block b. -/
def Macro.addSlice (m : Macro) (c : CimCfg) (b : Nat) (parts : List (Nat × Int)) : Macro :=
  (List.range c.nout).foldl (fun (m : Macro) o =>
    let d := parts.foldl (fun (t : Int) p => t + weightOf c p.1 o * p.2) 0
    let (v, w) := wrap26 (mrd 0 m.na (o * 8 + b) + d)
    { m with na := mwr 0 m.na (o * 8 + b) v, ovf := if w && !m.ovf.contains o then m.ovf ++ [o] else m.ovf }) m

/-- The broadcast of a row group into a macro whose checks have passed; `code` gives the activation scale code of a lane. The run tag takes
`Inherit` of the latch tag, which holds the events of R191 (R323, R327); R199 would set bit 5 for a poisoned row only (DEDUCED, log 70). -/
def Macro.mbc (m : Macro) (c : CimCfg) (lat : Latched) (code : Nat → Option Byte) (g lane0 : Nat) : Macro :=
  let h := m.half 0
  let bm := c.blockMode
  let bl := c.runBlock
  let rows := mbcRows h m.pat g lane0 bm bl
  let blocks := (rows.map fun r => r.2.2).eraseDups
  let (n, mm) := patNM m.pat
  let k0 := 64 * g * mm / n
  -- the runs the broadcast opens
  let m := blocks.foldl (fun (m : Macro) b =>
    if !bm && (m.runs.lookup b).isSome then m
    else
      let k := if bm then lane0 + b * bl else lane0
      let wb := (k0 + (if bm then b * bl else 0)) / c.wBlock
      { m with runs := minsert b ⟨k, lat.k.getD (k / lat.ba) 0, code k,
          (List.range c.nout).map fun o => h.shiftAt o wb,
          (List.range c.nout).map fun o => h.scaleAt o wb⟩ (m.runs.filter fun r => r.1 ≠ b) }) m
  -- the sums
  let m := if c.tree then
      let x := rows.foldl (fun x r => if (lat.q.getD r.2.1 0) % 2 = 1 then x ^^^ h.rowBits r.1 else x) 0
      let ck := rows.foldl (fun (x : Nat) r => if (lat.q.getD r.2.1 0) % 2 = 1 then x + (mrd 0 h.checks r.1).toNat else x) 0
      { m with
        na := (List.range c.nout).foldl (fun na o => mwr 0 na (o * 8) (xorBit (mrd 0 na (o * 8)) (nb x o 1))) m.na
        ckAcc := mwr 0 m.ckAcc 0 (xorBit (mrd 0 m.ckAcc 0) ck) }
    else
      blocks.foldl (fun (m : Macro) b =>
        let mine := (rows.filter fun r => r.2.2 = b).map fun r => (h.rowBits r.1, lat.q.getD r.2.1 0, mrd 0 h.checks r.1)
        let ns := if c.afmt = 2 then 1 else c.wa
        let m := (List.range ns).foldl (fun (m : Macro) j =>
          m.addSlice c b (mine.map fun r => (r.1, (slices c r.2.1).getD j 0))) m
        { m with ckAcc := mwr 0 m.ckAcc b (mrd 0 m.ckAcc b + mine.foldl (fun (t : Int) r => t + r.2.1 * r.2.2.toInt) 0) }) m
  { m with
    runTag := m.runTag ||| inherit lat.tag
    count := m.count + 1
    data := List.range c.nout ++ m.data.filter fun o => decide (c.nout ≤ o)
    nanMet := m.nanMet ++ h.nanMet.filter fun o => !m.nanMet.contains o
    memErr := m.memErr ++ h.memErr.filter fun o => !m.memErr.contains o
    ckBad := m.ckBad || !h.ckValid }

/-- R327: what `mclr` and an emptying promotion clear. -/
def Macro.cleared (m : Macro) : Macro :=
  { m with na := [], ckAcc := [], ovf := [], runTag := 0, count := 0, runs := [], data := [], promoted := false, nanMet := [], memErr := [], ckBad := false }

/-! ### The routine in execution -/

/-- What a word does: it waits, it goes on at a word, it ends the routine, or it fails with a cause and an address. -/
inductive MicroRes where
  | wait (s : State)
  | next (s : State) (r : Routine) (mpc : Nat)
  | stop (s : State) (r : Routine)
  | fail (cause : Nat) (addr : W64) (detail : Byte := 0)

def State.modCim (s : State) (c : CoreId) (f : Cim → Cim) : State := s.modCore c fun k => { k with eng.cim := f k.eng.cim }

/-- Tokens of a mask. -/
def maskTokens (m : W32) : List Nat := (List.range 32).filter fun t => m.getLsbD t

/-- A list of tokens ended as done or failed (R402); a token that ends here is owed no more. -/
def Core.endTokens (k : Core) (l : List Nat) (ok : Bool) : Core :=
  let k := l.foldl (fun k t => k.endToken t ok) k
  { k with eng.cim.owed := k.eng.cim.owed.filter fun o => !l.contains o.1 }

/-- R350: a failure of a call: its tokens fail, CAUSE and MPC are recorded, and for every cause but 7 and 8 a trap follows. -/
def Core.cimFail (k : Core) (call : CimCall) (mpc cause : Nat) (addr : W64) (detail : Byte := 0) : Core :=
  let k := k.endTokens (call.token.toList ++ maskTokens call.progress) false
  { k with
    eng.cim.run := none
    eng.cim.cause := cause
    eng.cim.mpc := mpc
    eng.cim.fails := if cause = 7 || cause = 8 then k.eng.cim.fails else k.eng.cim.fails ++ [⟨cause, call, mpc, addr, detail⟩] }

/-- The state of a wait token: 32 stands for one that had failed when its name was used again (R122). -/
def Core.waitState (k : Core) (t : Nat) : Nat := if t ≥ 32 then 3 else (k.token t).toNat

/-- A token becomes done once every fill handed over so far has ended (R123, R344). -/
def Core.owe (k : Core) (t : Nat) : Core :=
  if k.eng.cim.fills.isEmpty then k.endToken t true else { k with eng.cim.owed := k.eng.cim.owed ++ [(t, k.eng.cim.mlds)] }

/-- R344, R350: the end of a routine at `mend` or after the word of a step. -/
def Core.cimEnd (k : Core) (r : Routine) : Core :=
  let k := k.endTokens (maskTokens r.call.progress) true
  if r.wpois then { k.cimFail { r.call with progress := 0 } r.mpc 4 0 with eng.cim.run := none }
  else { (match r.call.token with | some t => k.owe t | none => k) with eng.cim.run := none, eng.cim.mpc := r.mpc }

/-- R353: a task that is killed or discarded stops its routine with CAUSE 8, and its queued calls do not start. -/
def Core.cimStops (k : Core) : Bool := match k.ending with | some (.done _) => false | some _ => true | none => false

def Core.stopCim (k : Core) : Core :=
  let k := match k.eng.cim.run with
    | some r => k.cimFail r.call r.mpc 8 0
    | none => k
  let k := k.eng.cim.queue.foldl (fun (k : Core) q => k.endTokens (q.token.toList ++ maskTokens q.progress) false) k
  { k with eng.cim.queue := [] }

/-- The word in execution of the routine of the core that moves; a micro-word number has 12 bits (R344, R394). -/
def State.micro (s : State) (f : State → Core → Routine → MicroRes) : Out :=
  let c := s.cur.core
  match (s.core c).eng.cim.run with
  | none => .next s
  | some r => if (s.core c).cimStops then .next (s.modCore c Core.stopCim) else .next (match f s (s.core c) r with
    | .wait s => s
    | .next s r' n =>
      if r.call.step.isSome then s.modCore c fun k => k.cimEnd { r' with mpc := r.mpc }
      else s.modCim c fun x => { x with run := some { r' with mpc := n % 4096 }, mpc := n % 4096 }
    | .stop s r' => s.modCore c fun k => k.cimEnd r'
    | .fail cause a d => s.modCore c fun k => k.cimFail r.call r.mpc cause a d)

/-- A word that only changes the routine and the core. -/
def microPlain (s : State) (f : Core → Routine → Core × Routine) : Out :=
  s.micro fun s k r => let (k', r') := f k r; .next (s.setCore s.cur.core k') r' (r.mpc + 1)

/-- The macros of a range (R346), or the cause that refuses them. -/
def macroRange (k : Core) (mf mnm1 : BitVec 7) (scratchOk : Bool) : Except Nat (List Nat) :=
  if mf.toNat + mnm1.toNat > 127 then .error 1
  else
    let ms := (List.range (mnm1.toNat + 1)).map fun i => mf.toNat + i
    let standby := fun m => match k.standby with | some b => b.macroFirst ≤ m && m < b.macroFirst + b.macroCount | none => false
    if ms.any fun m => (k.eng.cim.macro' m).retired || standby m || (!scratchOk && (k.eng.cim.macro' m).scratch) then .error 3
    else .ok ms

/-- A word over a range of macros. -/
def State.microRange (s : State) (mf mnm1 : BitVec 7) (scratchOk : Bool) (f : State → Core → Routine → List Nat → MicroRes) : Out :=
  s.micro fun s k r => match macroRange k mf mnm1 scratchOk with
    | .error c => .fail c 0
    | .ok ms => f s k r ms

/-- A word over a range that changes each of its macros. -/
def State.microEach (s : State) (mf mnm1 : BitVec 7) (scratchOk : Bool) (f : Macro → Macro) : Out :=
  s.microRange mf mnm1 scratchOk fun s _ r ms =>
    .next (s.modCim s.cur.core fun x => ms.foldl (fun x m => x.putMacro m (f (x.macro' m))) x) r (r.mpc + 1)

/-- A step is validated only for `mbc`, `mprm` and `mchk` (R339). -/
def stepInvalid (k : Core) (r : Routine) : Option Nat := if r.call.step.isSome then k.eng.cim.active.invalid else none

/-- ma[R]. -/
def Routine.reg (r : Routine) (i : BitVec 3) : W32 := r.ma.get ⟨i.toNat, i.isLt⟩
/-- A row named by ma[R][12:0], and the row i beyond it (R344). -/
def Routine.row (r : Routine) (x : BitVec 3) (i : Nat) : Nat := ((r.reg x).toNat + i) % 8192

/-- A scratch offset of ma[R] (R344): the failure where its address or its granules are refused. -/
def scratchOff (c : CoreId) (k : Core) (r : Routine) (x : BitVec 3) (align n : Nat) : Except (Nat × W64 × Byte) Nat :=
  match localCheck c k 0 align n false ((r.reg x).setWidth 64) with
  | some (cc, d, ad) => .error (if cc = cScratchown then 6 else 5, ad, d)
  | none => .ok (r.reg x).toNat

/-- Bytes of a bank that an engine reads, each with whether its word was uncorrectable or marked (R55); corrected words are repaired. -/
def State.bankRead (s : State) (h : CoreId) (a n : Nat) : List (Byte × Bool) × State :=
  let (_, k, rs) := (s.core h).scrubScratch h a n
  let bad := (bankWords a n).filter fun x => k.loc.badWords.contains x
  ((List.range n).map fun i => (mrd 0 k.loc.scratch (a + i), bad.contains ((a + i) / 8)),
    ((s.setCore h k).addRecs rs).addRecs (bad.map fun x => coreRec h 0x02 2 1 (BitVec.ofNat 64 (x * 8)) (Config.syndrome 1 x) k.domain))

/-! ### Accumulator rows (R56, R62, R352) -/

/-- A row that the engine writes: a core read of this cycle may still meet it as it was (R62). -/
def Core.engSetRow (k : Core) (r : Nat) (v : RowT) : Core :=
  { k.setRow r v with eng.cim.fresh := k.eng.cim.fresh ++ [(r, k.rowAt r)] }

/-- Rows that the engine reads: a row that a release wrote in this cycle may be met as it was, element by element (R62, R126); an error of its
code leaves a record (R56). -/
def State.engRows (s : State) (c : CoreId) (l : List Nat) : List RowT × State :=
  let k := s.core c
  let vs := (l.zip (List.range l.length)).map fun p => match freshRow k.loc.fresh p.1 with
    | some o => mixRows s.freeCtr (p.2 * 129) o (k.rowAt p.1)
    | none => k.rowAt p.1
  let s := s.addRecs (l.flatMap (rowRec c k))
  let s := if k.loc.ceRows.isEmpty then s else s.modCore c fun k => k.repairRows l
  (vs, if k.loc.fresh.isEmpty then s else s.bump.bump)

/-! ### Control and register words (R348) -/

/-- `mnop` (R347). -/
def execMnop (s : State) : Out := microPlain s fun k r => (k, r)

/-- `mend` (R344, R350). -/
def execMend (s : State) : Out := s.micro fun s _ r => .stop s r

/-- `mjmp` (R348). -/
def execMjmp (cnd : BitVec 2) (r : BitVec 3) (tgt : BitVec 12) (s : State) : Out :=
  s.micro fun s _ x =>
    if cnd = 3 then .fail 1 0
    else
      let z := decide (x.reg r = 0)
      let take := cnd = 0 || (cnd = 1 && z) || (cnd = 2 && !z)
      .next s x (if take then tgt.toNat else x.mpc + 1)

/-- `mlpi` (R348). -/
def execMlpi (l : BitVec 2) (src : BitVec 1) (r : BitVec 3) (cnt : BitVec 24) (s : State) : Out :=
  microPlain s fun k x =>
    (k, { x with ml := x.ml.set l.toNat (if src = 0 then cnt else (x.reg r).setWidth 24) l.isLt, beg := x.beg.set l.toNat (x.mpc + 1) l.isLt })

/-- `mlpe` (R348): without its `mlpi` it goes to word 0, since `beg` is then zero. -/
def execMlpe (l : BitVec 2) (s : State) : Out :=
  s.micro fun s _ x =>
    let n := x.ml.get ⟨l.toNat, l.isLt⟩
    let b := x.beg.get ⟨l.toNat, l.isLt⟩
    if b = 0 then .next s x 0
    else if n.toNat > 1 then .next s { x with ml := x.ml.set l.toNat (n - 1) l.isLt } b
    else .next s { x with ml := x.ml.set l.toNat 0 l.isLt } (x.mpc + 1)

/-- `mset` (R348). -/
def execMset (d : BitVec 3) (src : BitVec 1) (p : BitVec 3) (hi : BitVec 1) (imm : BitVec 32) (s : State) : Out :=
  microPlain s fun k x =>
    let mp := x.call.mps.getD p.toNat 0
    (k, { x with ma := x.ma.set d.toNat (if src = 0 then imm else if hi = 1 then mp.extractLsb' 32 32 else mp.setWidth 32) d.isLt })

/-- `madd` (R348). -/
def execMadd (d : BitVec 3) (sreg : BitVec 3) (imm : BitVec 32) (s : State) : Out :=
  microPlain s fun k x => (k, { x with ma := x.ma.set d.toNat (x.reg sreg + imm) d.isLt })

/-! ### Configuration words (R338, R349) -/

/-- `mmod`: the pending bank mode. -/
def execMmod (mf : BitVec 7) (mnm1 : BitVec 7) (mode : BitVec 1) (s : State) : Out :=
  s.microEach mf mnm1 true fun m => { m with pendScratch := mode = 1 }

/-- The fields of R338 in an `mprc` word, bits [57:24]; the tensor scales are kept. -/
def CimCfg.withFields (c : CimCfg) (v : BitVec 34) : CimCfg :=
  let f := fun lo n => nb v.toNat lo n
  { c with wfmt := f 30 4, afmt := f 26 4, ww := f 22 4, wa := f 18 4, wsg := f 17 1 = 1, asg := f 16 1 = 1, tree := f 15 1 = 1, prm := f 13 2, cke := f 12 1 = 1, wbs := f 10 2, abs := f 8 2, pint := f 0 8 }

/-- `mprc`. -/
def execMprc (cfg : BitVec 34) (s : State) : Out :=
  microPlain s fun k x => ({ k with eng.cim.pending := k.eng.cim.pending.withFields cfg }, x)

/-- `mscl`. -/
def execMscl (sel : BitVec 2) (r : BitVec 3) (imm : BitVec 32) (s : State) : Out :=
  s.micro fun s k x =>
    let put := fun (f : Cim → Cim) => MicroRes.next (s.modCim s.cur.core f) x (x.mpc + 1)
    if sel = 0 then put fun c => { c with pending := { c.pending with tw := imm } }
    else if sel = 1 then put fun c => { c with pending := { c.pending with ta := imm } }
    else if sel = 3 || imm.toNat ≥ 2 then .fail 1 0
    else match scratchOff s.cur.core k x r 8 32 with
      | .error (c, a, d) => .fail c a d
      | .ok o =>
        let (bs, s) := (List.range 4).foldl (fun (acc : List (Byte × Bool) × State) i => match mrd none x.part i with
          | some l => (acc.1 ++ l, acc.2)
          | none => let r := acc.2.bankRead s.cur.core (o + 8 * i) 8; (acc.1 ++ r.1, r.2)) ([], s)
        let half := some (bs.map Prod.fst)
        .next (s.modCim s.cur.core fun c => if imm = 0 then { c with scaleLo := half } else { c with scaleHi := half }) { x with part := [] } (x.mpc + 1)

/-- `msel`. -/
def execMsel (mf : BitVec 7) (mnm1 : BitVec 7) (pat : BitVec 3) (s : State) : Out :=
  s.microRange mf mnm1 false fun s _ r ms =>
    if pat.toNat > 5 then .fail 1 0
    else .next (s.modCim s.cur.core fun x => ms.foldl (fun x m => x.putMacro m { x.macro' m with pat := pat.toNat }) x) r (r.mpc + 1)

/-! ### Broadcast -/

/-- The activation scale code of a lane of the latch (R323); `none` reads as 1.0. -/
def Cim.actCode (c : Cim) (ba lane : Nat) : Option Byte :=
  let i := lane / ba
  if i < 32 then c.scaleLo.map fun l => l.getD i 0 else c.scaleHi.map fun l => l.getD (i - 32) 0

/-- The codes that a broadcast brings for each operand (R328): of the activation blocks its window touches, and of the weight blocks
its row group holds. -/
def mbcCodes (x : Cim) (c : CimCfg) (lat : Latched) (m : Macro) (g lane0 : Nat) : List Byte × List Byte :=
  let span := mbcSpan m.pat
  let (n, mm) := patNM m.pat
  let k0 := 64 * g * mm / n
  let i0 := lane0 / lat.ba
  let ca := (List.range ((lane0 + span - 1) / lat.ba + 1 - i0)).map fun i => (x.actCode lat.ba ((i0 + i) * lat.ba)).getD (oneCode c.abs)
  let b0 := k0 / c.wBlock
  let h := m.half 0
  let cw := (List.range ((k0 + span - 1) / c.wBlock + 1 - b0)).flatMap fun i =>
    (List.range c.nout).filterMap fun o => (h.scaleAt o (b0 + i)).codeIn c.wbs
  (if c.abs = 0 then [] else ca, if c.wbs = 0 then [] else cw)

/-- The first code of an operand and whether every code so far equals it (R194). -/
def sameCode (first : Option Byte) (l : List Byte) : Option Byte × Bool :=
  let f := first.or l.head?
  (f, l.all fun c => some c = f)

/-- The checks of one macro (R327, R328, R349); the routine then remembers the first codes. -/
def mbcCheck (x : Cim) (c : CimCfg) (lat : Latched) (g lane0 : Nat) (r : Routine) (m : Macro) : Except Nat Routine :=
  let span := mbcSpan m.pat
  if lane0 + span > lat.q.length then .error 1
  else if c.blockMode && (lane0 % c.runBlock ≠ 0 || span > 8 * c.runBlock || !m.data.isEmpty) then .error 1
  else if !c.blockMode && c.pint ≠ 0 && m.count + 1 > c.pint then .error 1
  else if c.prm < 2 && (c.wbs ≠ 0 || c.abs ≠ 0) then
    let (ca, cw) := mbcCodes x c lat m g lane0
    let (fa, oa) := sameCode r.codeA ca
    let (fw, ow) := sameCode r.codeW cw
    if oa && ow then .ok { r with codeA := fa, codeW := fw } else .error 2
  else .ok r

/-- `mbc` (R323 to R328). -/
def execMbc (mf : BitVec 7) (mnm1 : BitVec 7) (g : BitVec 3) (lane0 : BitVec 10) (src : BitVec 2) (r : BitVec 3) (s : State) : Out :=
  s.microRange mf mnm1 false fun s k x ms =>
    let c := k.eng.cim
    match stepInvalid k x with
    | some e => .fail e 0
    | none =>
      if src = 3 then .fail 1 0
      else
        let read := s.engRows s.cur.core (if src = 2 then [x.row r 0] else [])
        let row := if src = 1 then k.eng.aq.head? else read.1.head?
        if src = 1 && row.isNone then .wait s
        else
          let lat := match row with
            | some v => latchRow c.active v
            | none => if c.latchQ.isEmpty then latchRow c.active c.latch else ⟨c.latchQ, c.latchK, c.latchBa, c.latch.tag⟩
          match ms.foldl (fun (a : Except Nat Routine) m => a.bind fun y => mbcCheck c c.active lat g.toNat lane0.toNat y (c.macro' m)) (.ok x) with
          | .error e => .fail e 0
          | .ok x' =>
            let s := read.2.modCore s.cur.core fun k => { k with
              eng.aq := if src = 1 then k.eng.aq.tail else k.eng.aq
              eng.cim.latch := ⟨(row.getD c.latch).data, lat.tag⟩
              eng.cim.latchQ := lat.q, eng.cim.latchK := lat.k, eng.cim.latchBa := lat.ba }
            .next (s.modCim s.cur.core fun y => ms.foldl (fun y m =>
              y.putMacro m ((c.macro' m).mbc c.active lat (c.actCode lat.ba) g.toNat lane0.toNat)) y) x' (x.mpc + 1)

/-! ### Promotion (R329, R330) -/

/-- The lane of output o of the i-th macro of the range. -/
def prmLane (c : CimCfg) (stk : Bool) (lo onm1 i o : Nat) : Nat :=
  (if c.tree then 32 * lo else lo) + (if stk then 0 else i * (onm1 + 1)) + o

def prmLanes (c : CimCfg) : Nat := if c.tree then 4096 else if c.prm = 1 then 64 else 128

/-- One block-run to apply: its lane, its K, its macro, its block, its integer, its captured scales and its output. -/
structure Contribution where
  lane : Nat
  k : Nat
  mac : Nat
  b : Nat
  i : Int
  run : RunInfo
  o : Nat
  deriving DecidableEq, Repr

/-- R330: ascending K, then ascending macro, then ascending block. -/
def Contribution.before (a b : Contribution) : Bool :=
  a.k < b.k || (a.k = b.k && (a.mac < b.mac || (a.mac = b.mac && a.b ≤ b.b)))

/-- Insertion into a sorted list, and the sorted list: equal elements keep their order. -/
def insertBy {α : Type} (le : α → α → Bool) (x : α) : List α → List α
  | [] => [x]
  | y :: t => if le x y then x :: y :: t else y :: insertBy le x t

def sortBy {α : Type} (le : α → α → Bool) : List α → List α
  | [] => []
  | x :: t => insertBy le x (sortBy le t)

/-- A block-scale value of R196: 1 where the operand has none. -/
def scaleFv (fmt : Nat) (code : Option Byte) : Fv :=
  if fmt = 0 then .fin false 1 1 0 else scaleVal (fmt = 2) (code.getD (oneCode fmt)).toNat

/-- R196, R186: an FP32 promotion step, with its tag events. -/
def promoteF32 (c : CimCfg) (acc : Nat) (p : Contribution) : Nat × Byte :=
  let ss := [scaleFv c.wbs ((p.run.sw.getD p.o .none).codeIn c.wbs), scaleFv c.abs p.run.sa, fmtF32.decode c.tw.toNat, fmtF32.decode c.ta.toNat]
  if ss.any Fv.special then (qnan, evNan ||| 1)
  else
    let v := ss.foldl Fv.mul (.fin (decide (p.i < 0)) p.i.natAbs 1 (p.run.kw.getD p.o 0 + p.run.ka))
    let v := if v.isZero then Fv.fin false 0 1 0 else v
    (fmtF32.add .rne acc (fmtF32.encode .rne v).1, 0)

/-- R195: an integer promotion step of w bits. -/
def promoteInt (w acc : Nat) (p : Contribution) : Nat × Byte :=
  let x := sint w acc + p.i
  (low w (satS w x), if satS w x = x then 0 else evOvf ||| 1)

/-- The row data after a list of contributions, with the events. Under the parity tree sub-accumulator 0 alone counts (R330). -/
def applyRuns (c : CimCfg) (r : Row) (l : List Contribution) : Row × Byte :=
  if c.tree then (BitVec.ofNat 4096 (l.foldl (fun x p => if p.b = 0 && p.i % 2 = 1 then x ^^^ 2 ^ p.lane else x) r.toNat), 0)
  else
    let w := if c.prm = 1 then 64 else 32
    let res := (List.range (4096 / w)).map fun j =>
      (l.filter fun p => p.lane = j).foldl (fun (a : Nat × Byte) p =>
        let (v, e) := if c.prm = 2 then promoteF32 c a.1 p else promoteInt w a.1 p
        (v, a.2 ||| e)) (lane w r j, 0)
    (ofLanes w (res.map Prod.fst), res.foldl (fun e v => e ||| v.2) 0)

/-- The promoted outputs of a macro: those of the range that hold data. -/
def Macro.promotes (m : Macro) (lo n : Nat) : List Nat := ((List.range n).map fun i => lo + i).filter fun o => m.data.contains o

/-- R330: the flags of a promoted output. -/
def Macro.promoTag (m : Macro) (o : Nat) : Byte :=
  (if m.nanMet.contains o then 3 else 0) ||| (if m.memErr.contains o then 5 else 0) ||| (if m.ovf.contains o then 9 else 0)

/-- A macro after the capture of some of its outputs. -/
def Macro.captured (m : Macro) (outs : List Nat) : Macro :=
  if outs.isEmpty then m
  else
    let rest := m.data.filter fun o => !outs.contains o
    if rest.isEmpty then m.cleared
    else { m with
      na := m.na.filter fun e => !outs.contains (e.1 / 8)
      ovf := m.ovf.filter fun o => !outs.contains o
      nanMet := m.nanMet.filter fun o => !outs.contains o
      memErr := m.memErr.filter fun o => !outs.contains o
      data := rest
      promoted := true }

/-- `mprm` (R329, R330). -/
def execMprm (mf : BitVec 7) (mnm1 : BitVec 7) (stk : BitVec 1) (r : BitVec 3) (lo : BitVec 7) (of_ : BitVec 8) (onm1 : BitVec 8)
    (s : State) : Out :=
  s.microRange mf mnm1 false fun s k x ms =>
    match stepInvalid k x with
    | some e => .fail e 0
    | none =>
      let c := k.eng.cim.active
      let n := onm1.toNat + 1
      let last := prmLane c (stk = 1) lo.toNat onm1.toNat (ms.length - 1) onm1.toNat
      if of_.toNat + onm1.toNat ≥ c.nout || last ≥ prmLanes c then .fail 1 0
      else
        let idx := ms.zip (List.range ms.length)
        let outs := fun m => (k.eng.cim.macro' m).promotes of_.toNat n
        let l := idx.flatMap fun mi => (outs mi.1).flatMap fun o =>
          let m := k.eng.cim.macro' mi.1
          m.runs.map fun b => (⟨prmLane c (stk = 1) lo.toNat onm1.toNat mi.2 (o - of_.toNat), b.2.k, mi.1, b.1, mrd 0 m.na (o * 8 + b.1), b.2, o⟩ : Contribution)
        let row := x.row r 0
        let (olds, s) := s.engRows s.cur.core [row]
        let old := olds.getD 0 RowT.zero
        let (d, ev) := applyRuns c old.data (sortBy Contribution.before l)
        let tags := ms.foldl (fun (t : Byte) m =>
          let mm := k.eng.cim.macro' m
          (outs m).foldl (fun t o => t ||| mm.promoTag o) (t ||| mm.runTag)) 0
        let wp := ms.any fun m => (outs m).any fun o => (k.eng.cim.macro' m).memErr.contains o
        let s := s.modCore s.cur.core fun k => k.engSetRow row ⟨d, (old.tag ||| tags ||| ev) &&& 0x3F⟩
        let s := s.modCim s.cur.core fun y => ms.foldl (fun y m => y.putMacro m ((y.macro' m).captured (outs m))) y
        .next s { x with wpois := x.wpois || wp } (x.mpc + 1)

/-- `mclr` (R349). -/
def execMclr (mf : BitVec 7) (mnm1 : BitVec 7) (rows : BitVec 1) (r : BitVec 3) (nrm1 : BitVec 7) (s : State) : Out :=
  s.microRange mf mnm1 false fun s _ x ms =>
    let s := s.modCim s.cur.core fun y => ms.foldl (fun y m => y.putMacro m (y.macro' m).cleared) y
    .next (if rows = 1 then s.modCore s.cur.core fun k => (List.range (nrm1.toNat + 1)).foldl (fun k i => k.engSetRow (x.row r i) RowT.zero) k else s)
      x (x.mpc + 1)

/-! ### The checksum (R332) -/

/-- Blocks of a macro whose sum and checksum differ, with the difference. -/
def Macro.mismatches (m : Macro) (c : CimCfg) : List (Nat × Int) :=
  m.runs.filterMap fun b =>
    let sum := (List.range c.nout).foldl (fun (t : Int) o => t + mrd 0 m.na (o * 8 + b.1)) 0
    let sum := if c.tree then sum % 2 else sum
    let ck := if c.tree then mrd 0 m.ckAcc b.1 % 2 else mrd 0 m.ckAcc b.1
    if sum = ck then none else some (b.1, sum - ck)

/-- R332: whether the comparison of a macro is skipped: its column was invalid at a broadcast, or is now. -/
def Macro.ckSkipped (m : Macro) : Bool := m.ckBad || !(m.half 0).ckValid || !m.ovf.isEmpty || m.promoted

/-- `mchk` (R332). -/
def execMchk (mf : BitVec 7) (mnm1 : BitVec 7) (s : State) : Out :=
  s.microRange mf mnm1 false fun s k x ms =>
    match stepInvalid k x with
    | some e => .fail e 0
    | none =>
      let cfg := k.eng.cim.active
      .next (ms.foldl (fun s m =>
        let mm := k.eng.cim.macro' m
        if mm.ckSkipped then s.modCim s.cur.core fun y => { y with ckskp := min 255 (y.ckskp + 1) }
        else
          let bad := mm.mismatches cfg
          if bad.isEmpty then s
          else
            let s := s.modCim s.cur.core fun y =>
              { y.putMacro m { mm with runTag := mm.runTag ||| evCk ||| 1 } with ckmis := min 255 (y.ckmis + bad.length) }
            s.addRecs (bad.map fun b =>
              { coreRec s.cur.core 0x04 2 4 0 (BitVec.ofNat 64 (b.1 * 2 ^ 48 + low 48 b.2)) k.domain with macr := some (m, x.mpc % 4096) })) s)
        x (x.mpc + 1)

/-! ### Fill and swap (R333) -/

/-- `mld`: hands the Grinder one descriptor per macro; their reads are the Grinder's (R355). -/
def execMld (mf : BitVec 7) (mnm1 : BitVec 7) (r : BitVec 3) (s : State) : Out :=
  s.microRange mf mnm1 false fun s k x ms =>
    let a := (x.reg r).toNat
    if a ≥ 2 ^ 23 then .fail 5 (BitVec.ofNat 64 a)
    else
      let g := k.eng.cim.mlds + 1
      let fs := (ms.zip (List.range ms.length)).map fun m => ({ macr := m.1, cfg := k.eng.cim.active, group := g, descOff := a + 64 * m.2, domain := k.domain } : Fill)
      .next (s.modCim s.cur.core fun y => { y with fills := y.fills ++ fs, mlds := g }) x (x.mpc + 1)

/-- `mswp`: waits for the fills of its macros, then swaps; IDLE counts the waiting cycles of the routine that issued them (R368). -/
def execMswp (mf : BitVec 7) (mnm1 : BitVec 7) (s : State) : Out :=
  s.microRange mf mnm1 false fun s k x ms =>
    let waited := fun (f : Fill) => if ms.contains f.macr && decide (x.mlds < f.group) then { f with idle := min 65535 (f.idle + 1) } else f
    if k.eng.cim.fills.any (fun f => ms.contains f.macr) then .wait (s.modCim s.cur.core fun y => { y with fills := y.fills.map waited })
    else if ms.any fun m => ((k.eng.cim.macro' m).half 1).bad then .fail 9 0
    else .next (s.modCim s.cur.core fun y => ms.foldl (fun y m => y.putMacro m { y.macro' m with swapped := !(y.macro' m).swapped }) y) x (x.mpc + 1)

/-! ### Rows, queues and tokens (R334, R349) -/

/-- `mout`: appends rows while `yq` has room, and waits for the rest. -/
def execMout (r : BitVec 3) (nrm1 : BitVec 7) (s : State) : Out :=
  s.micro fun s k x =>
    let n := nrm1.toNat + 1 - x.rowsOut
    let fit := min n (16 - k.eng.yq.length)
    let rows := (List.range fit).map fun i => x.row r (x.rowsOut + i)
    let (vs, s) := s.engRows s.cur.core rows
    let s := s.modCore s.cur.core fun k => { k with eng.yq := k.eng.yq ++ vs }
    if fit = n then .next s { x with rowsOut := 0 } (x.mpc + 1)
    else .wait (s.modCim s.cur.core fun y => { y with run := some { x with rowsOut := x.rowsOut + fit } })

/-- `mpoi`. -/
def execMpoi (r : BitVec 3) (nrm1 : BitVec 7) (clr : BitVec 1) (bits : BitVec 6) (s : State) : Out :=
  s.micro fun s _ x =>
    let rows := (List.range (nrm1.toNat + 1)).map (x.row r)
    let (vs, s) := s.engRows s.cur.core rows
    let b : Byte := bits.setWidth 8
    .next (s.modCore s.cur.core fun k => (rows.zip vs).foldl (fun k p =>
      k.engSetRow p.1 { p.2 with tag := (if clr = 1 then p.2.tag &&& ~~~b else p.2.tag ||| events b) &&& 0x3F }) k) x (x.mpc + 1)

/-- `mwtq`. -/
def execMwtq (q : BitVec 1) (n : BitVec 5) (s : State) : Out :=
  s.micro fun s k x =>
    if n.toNat > 16 then .fail 1 0
    else if (if q = 0 then k.eng.aq.length ≥ n.toNat else 16 - k.eng.yq.length ≥ n.toNat) then .next s x (x.mpc + 1)
    else .wait s

/-- A progress token that is done is pending of the routine no more, whatever produces it again (R123, R344). -/
def Routine.settled (r : Routine) (t : Nat) : Routine := { r with call := { r.call with progress := r.call.progress &&& ~~~((1 : W32) <<< t) } }

/-- `mtok`. -/
def execMtok (tok : BitVec 5) (s : State) : Out :=
  s.micro fun s k x =>
    if !(x.call.progress.getLsbD tok.toNat) || k.token tok.toNat ≠ 1 then .fail 1 0
    else
      let now := k.eng.cim.fills.isEmpty
      .next (s.modCore s.cur.core fun k => k.owe tok.toNat) (if now then x.settled tok.toNat else x) (x.mpc + 1)

/-- `mtkw`. -/
def execMtkw (tok : BitVec 5) (s : State) : Out :=
  s.micro fun s k x =>
    match k.token tok.toNat with
    | 1 => .wait s
    | 3 => .fail 7 0
    | _ => .next s x (x.mpc + 1)

/-! ### Starts (R335, R338 to R341) -/

/-- R335: FIRST and the last word of an entry; `none` where the entry is unusable. -/
def entryRange (v : W64) : Option (Nat × Nat) :=
  let first := bits v 0 12
  let lenm1 := bits v 16 12
  if bits v 63 1 = 0 || bits v 28 35 ≠ 0 || bits v 12 4 ≠ 0 || first < 256 || first + lenm1 > 4095 then none else some (first, first + lenm1)

/-- R338, R65: pending bank modes become active; a macro that leaves scratch mode has both checksum columns invalid. -/
def Cim.activateModes (c : Cim) : Cim :=
  { c with macros := c.macros.map fun e =>
      let m := e.2
      (e.1, if m.pendScratch = m.scratch then m
        else if m.pendScratch then { m with scratch := true }
        else { m with scratch := false, h0 := { m.h0 with checks := [], ckValid := false }, h1 := { m.h1 with checks := [], ckValid := false } }) }

/-- A macro map in canonical form after a map over its entries. -/
def Cim.tidy (c : Cim) : Cim := { c with macros := c.macros.filter fun e => e.2 ≠ ({} : Macro) }

/-- One of two values of an item, by a free choice (R366). -/
def eitherOf {β : Type} (ctr i : Nat) (old new : β) : β := if pickOf ctr i 2 = 0 then old else new

/-- R366: what a failed fill leaves: each item old or, where the fill formed it, new. -/
def mixedHalf (ctr : Nat) (old new : Half) : Half :=
  let keys := fun {β : Type} (a b : SMap β) => (a.map Prod.fst ++ b.map Prod.fst).eraseDups
  let entries := fun {β : Type} (a b : SMap β) (same : Bool) => if same then keys a b else List.range 65536
  let mask := fun k => BitVec.ofNat 8 (pickOf ctr k 256)
  { cells := (keys old.cells new.cells).foldl (fun m k => mwr 0 m k ((mrd 0 old.cells k &&& mask k) ||| (mrd 0 new.cells k &&& ~~~(mask k)))) []
    checks := (keys old.checks new.checks).foldl (fun m k => mwr 0 m k (eitherOf (ctr + 2) k (mrd 0 old.checks k) (mrd 0 new.checks k))) []
    ckValid := eitherOf (ctr + 2) 1024 old.ckValid new.ckValid
    shifts := (entries old.shifts new.shifts (decide (old.shift0 = new.shift0))).foldl (fun m k =>
      mwr new.shift0 m k (eitherOf (ctr + 3) k (mrd old.shift0 old.shifts k) (mrd new.shift0 new.shifts k))) []
    shift0 := new.shift0
    scales := (entries old.scales new.scales (decide (old.scale0 = new.scale0))).foldl (fun m k =>
      mwr new.scale0 m k (eitherOf (ctr + 7) k (mrd old.scale0 old.scales k) (mrd new.scale0 new.scales k))) []
    scale0 := new.scale0
    sels := (keys old.sels new.sels).foldl (fun m k => mwr 0 m k (eitherOf (ctr + 11) k (mrd 0 old.sels k) (mrd 0 new.sels k))) []
    nanMet := (List.range 256).filter fun o => eitherOf (ctr + 12) o (old.nanMet.contains o) (new.nanMet.contains o)
    memErr := (List.range 256).filter fun o => eitherOf (ctr + 12) (256 + o) (old.memErr.contains o) (new.memErr.contains o)
    bad := true }

/-- A half of which nothing is known: what a fill that could not read its operands would have written (R366). -/
def freeHalf (ctr : Nat) : Half :=
  { cells := (List.range 16384).filterMap fun i => let b := BitVec.ofNat 8 (pickOf ctr i 256); if b = 0 then none else some (i, b)
    checks := (List.range 512).filterMap fun i => let b := BitVec.ofNat 16 (pickOf (ctr + 1) i 65536); if b = 0 then none else some (i, b)
    ckValid := pickOf (ctr + 1) 512 2 = 1
    shifts := (List.range 65536).filterMap fun i => let v : Int := (pickOf (ctr + 2) i 4096 : Int) - 2048; if v = 0 then none else some (i, v)
    scales := (List.range 65536).map fun i => (i, .code (BitVec.ofNat 8 (pickOf (ctr + 6) i 256)))
    sels := (List.range 512).filterMap fun i => let v := pickOf (ctr + 1) (i + 1024) 8; if v = 0 then none else some (i, v)
    nanMet := (List.range 256).filter fun o => pickOf (ctr + 1) (o + 2048) 2 = 1
    memErr := (List.range 256).filter fun o => pickOf (ctr + 1) (o + 4096) 2 = 1
    bad := true }

/-- The shadow half of a macro replaced. -/
def State.putShadow (s : State) (c : CoreId) (m : Nat) (f : Half → Half) : State :=
  s.modCim c fun x => let v := x.macro' m; x.putMacro m (v.putHalf 1 (f (v.half 1)))

/-- R387: a standby invalidated: its tile is queued again, and its shadow halves are old or as filled, item by item. -/
def State.dropStandby (s : State) (c : CoreId) : State :=
  match (s.core c).standby with
  | none => s
  | some b =>
    let s := { s with sched := { s.sched with insts := s.sched.insts.map fun (i : Inst) =>
      let n := i.base.getD b.node 0 + b.tile
      let x : Tile := mrd {} i.tiles n
      if i.slot = b.inst ∧ i.gen = b.gen ∧ x.st = TileSt.preloaded then { i with tiles := mwr {} i.tiles n { x with st := TileSt.queued } } else i } }
    let s := b.old.foldl (fun s p => { s.putShadow c p.1 fun now => { mixedHalf s.freeCtr p.2 now with bad := eitherOf (s.freeCtr + 13) 0 p.2.bad now.bad } with freeCtr := s.freeCtr + 16 }) s
    s.modCore c fun k => { k with standby := none }

/-- R387: whether a routine start changes the bank mode of a standby macro. -/
def Core.standbyModes (k : Core) : Bool :=
  match k.standby with
  | none => false
  | some b => k.eng.cim.macros.any fun e => e.2.pendScratch ≠ e.2.scratch && b.macroFirst ≤ e.1 && e.1 < b.macroFirst + b.macroCount

/-- The word the micro-sequencer fetches (R335, R344): the micro-operation, or `none` where the routine fails with `CIMILL`. -/
def Routine.word (c : Cim) (r : Routine) : Option Instr :=
  match r.call.step with
  | some w => decodeMicro w
  | none => if r.first ≤ r.mpc && r.mpc ≤ r.last then decodeMicro (mrd 0 c.store r.mpc) else none

/-- R54, R126: one bank word of the `mscl` in execution read before the rest of its four. -/
def State.msclAhead (s : State) (c : CoreId) (i : Nat) : State :=
  let k := s.core c
  match k.eng.cim.run with
  | none => s
  | some x => match x.word k.eng.cim with
    | some (.mscl sel r imm) =>
      if k.cimStops || sel ≠ 2 || imm.toNat ≥ 2 || i ≥ 4 || (mrd none x.part i).isSome then s
      else match scratchOff c k x r 8 32 with
        | .error _ => s
        | .ok o =>
          let b := s.bankRead c (o + 8 * i) 8
          b.2.modCim c fun y => { y with run := some { x with part := mwr none x.part i (some b.1) } }
    | _ => s

/-- CIM_ROUTINE_START: the next queued call or step starts (R338 to R341, R344). With the flag the routine in execution reads bank word `v` of its
`mscl` ahead (R126). -/
def execCimRoutineStart (s : State) : Out :=
  let c := s.cur.core
  let k := s.core c
  let x := k.eng.cim
  if s.cur.flag then .next (s.msclAhead c s.cur.v.toNat) else
  if k.cimStops then .next (s.modCore c Core.stopCim) else
  match x.run, x.queue with
  | none, call :: rest =>
    if call.waits.any (fun t => k.waitState t = 1) then .next s
    else if x.macros.any (fun e => e.2.pendScratch ≠ e.2.scratch && x.fills.any fun f => f.macr = e.1) then .next s
    else
      let k : Core := { k with eng.cim.queue := rest, eng.cim.stp := call.step.isSome, eng.cim.ent := if call.step.isSome then 0 else call.entry }
      if call.waits.any (fun t => k.waitState t = 3) then .next (s.setCore c (k.cimFail call call.entry 7 0))
      else
        let s := if k.standbyModes then (s.setCore c k).dropStandby c else s.setCore c k
        let k := s.core c
        let k : Core := { k with loc.fresh := [], eng.cim := { k.eng.cim.activateModes.tidy with active := k.eng.cim.pending } }
        let run := fun (first last : Nat) => { k with eng.cim.run := some { call := call, first := first, last := last, mpc := first, ma := Vector.replicate 8 0, ml := Vector.replicate 4 0, beg := Vector.replicate 4 0, mlds := k.eng.cim.mlds }, eng.cim.mpc := first }
        match call.step with
        | some _ => .next (s.setCore c (run 0 0))
        | none =>
          match entryRange (mrd 0 k.eng.cim.store call.entry) with
          | none => .next (s.setCore c (k.cimFail call call.entry 1 0))
          | some (first, last) => match k.eng.cim.active.invalid with
            | some e => .next (s.setCore c (k.cimFail call call.entry e 0))
            | none => .next (s.setCore c (run first last))
  | _, _ => .next s

/-- ENGINE_TOKEN_DONE: tokens that waited for fills become done when those have ended (R123, R344, R365). -/
def execEngineTokenDone (s : State) : Out :=
  .next (s.modCore s.cur.core fun k =>
    let ready := k.eng.cim.owed.filter fun o => !(k.eng.cim.fills.any fun f => f.group ≤ o.2)
    { (ready.foldl (fun k o => k.endToken o.1 true) k) with
      eng.cim.owed := k.eng.cim.owed.filter fun o => !ready.contains o
      eng.cim.run := k.eng.cim.run.map fun r => ready.foldl (fun r o => r.settled o.1) r })

/-- A fetch that fails (R335, R346). -/
def State.microFail (s : State) (c : CoreId) (r : Routine) : State :=
  s.modCore c fun k => if k.cimStops then k.stopCim else k.cimFail r.call r.mpc 1 0

end Sys2Proof.Machine
end

