-- ==== Sys2Proof/Machine/Grinder.lean ====
section
/-! DEFINITION. Grinder: fill descriptors, tiles and their alignment, sparse decomposition, the residual list, the shadow half and the
status record (spec R355 to R369); static fills (R386) read and write global memory through the same functions. -/

namespace Sys2Proof.Machine

open Sys2Proof

/-! ### Engine reads and writes of a fill -/

/-- Where the operands of a fill lie: the scratch of its core, of which it may have read bank words before the rest (R369), or global memory in
a domain (R386). -/
inductive FillMem where
  | scratch (got : SMap (Option (Bool × List (Byte × Bool))))
  | global (domain : Nat)
  deriving DecidableEq, Repr

/-- R366: the code of a refused scratch access. -/
def fillCode (t : Byte × Byte × W64) : Nat := if t.1 = cScratchown then 5 else 4

/-- What a fill read: each byte with whether its word or block was uncorrectable or marked (R55, R98), whether any was, and the code of the
first refusal, before which the ranges were read. -/
structure FillRead where
  byte : Nat → Byte × Bool
  merr : Bool
  err : Option Nat
  st : State

/-- A byte that a failed fill did not read: the fill would have written what it holds, which nothing says (R366). -/
def unreadByte (ctr i : Nat) : Byte × Bool := let v := pickOf ctr (i % 2 ^ 28) 512; (BitVec.ofNat 8 v, v ≥ 256)

/-- A list without equal neighbours. -/
def destutter : List Nat → List Nat
  | a :: b :: t => if a = b then destutter (b :: t) else a :: destutter (b :: t)
  | l => l

/-- The ranges of bytes that a fill reads, each bank word or 64-byte block once (R369). A word read ahead leaves its record now. -/
def State.fillReads (s : State) (c : CoreId) (w : FillMem) (align : Nat) (ranges : List (Nat × Nat)) : FillRead :=
  let base := (ranges.headD (0, 0)).1
  match w with
  | .scratch got =>
    let k := s.core c
    let check := fun (r : Nat × Nat) => localCheck c k 0 align r.2 false (BitVec.ofNat 64 r.1)
    let ws := destutter ((ranges.takeWhile fun r => (check r).isNone).flatMap fun r => bankWords r.1 r.2)
    let now := ws.filter fun x => (mrd none got x).isNone
    let bad := ws.filter fun x => match mrd none got x with | some l => l.2.any Prod.snd | none => k.loc.badWords.contains x
    let ce := ws.filter fun x => match mrd none got x with | some l => l.1 | none => k.loc.ceWords.contains x
    let s := (if ce.isEmpty then s else s.setCore c { k with loc.ceWords := k.loc.ceWords.filter fun x => !now.contains x }).addRecs
      (ce.map (fun x => coreRec c 0x01 1 1 (BitVec.ofNat 64 (x * 8)) (Config.syndrome 1 x) k.domain) ++
       bad.map fun x => coreRec c 0x02 2 1 (BitVec.ofNat 64 (x * 8)) (Config.syndrome 1 x) k.domain)
    let err := ranges.findSome? fun r => (check r).map fillCode
    { byte := fun a =>
        if err.isSome && !ws.contains (a / 8) then unreadByte s.freeCtr (a - base)
        else match mrd none got (a / 8) with
        | some l => l.2.getD (a % 8) (0, true)
        | none => (mrd 0 k.loc.scratch a, bad.contains (a / 8))
      merr := !bad.isEmpty
      err := err
      st := s }
  | .global dom =>
    let bl := destutter (ranges.flatMap fun r => (pieces 64 (r.2 + 1) r.1 r.2).map fun p => p.1 / 64)
    let out := bl.foldl (fun (acc : List (Nat × List Byte × Bool) × Bool × Option Nat × State) b =>
      if acc.2.2.1.isSome then acc else
      match acc.2.2.2.transX dom .copySrc (b * 64) 64 with
      | (.ok segs, s) =>
        let r := s.mem.readSegs segs
        (acc.1 ++ [(b, r.bytes, r.bad)], acc.2.1 || r.bad, none, { s with mem := r.mem }.addRecs (inDomain dom r.recs))
      | (_, s) => (acc.1, acc.2.1, some 6, s)) ([], false, none, s)
    { byte := fun a => match out.1.lookup (a / 64) with
        | some l => (l.1.getD (a % 64) 0, l.2)
        | none => unreadByte s.freeCtr (a - base)
      merr := out.2.1, err := out.2.2.1, st := out.2.2.2 }

/-- The bytes of a range. -/
def FillRead.bytes (r : FillRead) (a n : Nat) : List (Byte × Bool) := (List.range n).map fun i => r.byte (a + i)

/-- The code of a refused write (R366). -/
def State.fillCheck (s : State) (c : CoreId) (w : FillMem) (align a n : Nat) : Option Nat × State :=
  match w with
  | .scratch _ => ((localCheck c (s.core c) 1 align n false (BitVec.ofNat 64 a)).map fillCode, s)
  | .global dom =>
    if a % align ≠ 0 then (some 4, s) else
    match s.transX dom .copyDst a n with
    | (.ok _, s) => (none, s)
    | (_, s) => (some 6, s)

/-- Bytes a fill stores (R364, R365): the code of a refusal, which stores nothing. -/
def State.fillWrite (s : State) (c : CoreId) (w : FillMem) (align a : Nat) (bs : List Byte) : Option Nat × State :=
  match w with
  | .scratch _ =>
    match localCheck c (s.core c) 1 align bs.length false (BitVec.ofNat 64 a) with
    | some t => (some (fillCode t), s)
    | none => (none, s.modCore c fun k => k.storeLocal a bs false)
  | .global dom =>
    if a % align ≠ 0 then (some 4, s) else
    match s.transX dom .copyDst a bs.length with
    | (.ok segs, s) =>
      let (m, rs) := s.mem.writeSegs segs bs false
      (none, { s with mem := m }.addRecs (inDomain dom rs))
    | (_, s) => (some 6, s)

/-! ### Descriptors (R356, R357) -/

structure FillDesc where
  kind : Nat
  img : Bool
  term : Nat
  ntm1 : Nat
  pats : Nat
  eps : Nat
  kd : Nat
  src : Nat
  rstride : Nat
  nout : Nat
  scl : Nat
  res : Nat
  stv : Bool
  stat : Nat
  deriving DecidableEq, Repr

def FillDesc.ofWords (w : List W64) : FillDesc :=
  let g := fun i lo n => bits (w.getD i 0) lo n
  { kind := g 0 60 4, img := g 0 59 1 = 1, term := g 0 54 2, ntm1 := g 0 52 2, pats := g 0 32 16, eps := g 0 16 16, kd := g 0 0 12 + 1, src := g 1 0 23, rstride := g 2 16 16, nout := g 2 0 8 + 1, scl := g 3 0 23, res := g 4 0 23, stv := g 5 63 1 = 1, stat := g 5 0 23 }

/-- The pattern code of term t. -/
def FillDesc.pat (d : FillDesc) (t : Nat) : Nat := nb d.pats (12 - 4 * t) 4

/-- Bytes that one row of a number of outputs occupies (R358). -/
def tileRowBytes (wfmt nout : Nat) : Nat := if wfmt = 1 || wfmt = 2 then (nout + 7) / 8 else if wfmt = 4 then (nout + 1) / 2 else nout

/-- R356: a reserved field of words 0 to 7 is set. -/
def fillReserved (w : List W64) : Bool :=
  let g := fun i lo n => bits (w.getD i 0) lo n
  g 0 56 3 ≠ 0 || g 0 48 4 ≠ 0 || g 0 12 4 ≠ 0 || g 1 23 41 ≠ 0 || g 2 32 32 ≠ 0 || g 2 8 8 ≠ 0 || g 3 23 41 ≠ 0 || g 4 23 41 ≠ 0 ||
    g 5 23 40 ≠ 0 || g 6 0 64 ≠ 0 || g 7 0 64 ≠ 0

/-- R357, but for words that cannot be read. -/
def fillMalformed (w : List W64) (c : CimCfg) : Bool :=
  let d := FillDesc.ofWords w
  if !c.weightOk || d.kind > 2 then true
  else if d.kind = 2 then false
  else
    fillReserved w || (List.range 4).any (fun t => t > d.ntm1 && d.pat t ≠ 0) || d.nout > c.nout ||
    d.rstride < max 1 (tileRowBytes c.wfmt d.nout) ||
    (if d.kind = 0 then d.kd > 512
     else d.term > d.ntm1 || d.kd % 8 ≠ 0 || (List.range (d.ntm1 + 1)).any fun t => d.pat t = 0 || d.pat t > 5 || d.kd * (patNM (d.pat t)).1 / (patNM (d.pat t)).2 > 512)

/-- R361: the fields on which the members of a tile group agree. -/
def fillGroupKey (w : List W64) : List Nat :=
  let d := FillDesc.ofWords w
  [d.kind, if d.img then 1 else 0, d.ntm1, d.pats, d.eps, d.kd, (w.getD 1 0).toNat, (w.getD 2 0).toNat, (w.getD 3 0).toNat]

/-! ### Tiles (R358, R359) -/

/-- Element o of a row: its code, and whether its byte could not be read. -/
def tileElem (c : CimCfg) (row : List (Byte × Bool)) (o : Nat) : Nat × Bool :=
  match c.wfmt with
  | 1 => let b := row.getD (o / 8) (0, true); (nb b.1.toNat (o % 8) 1, b.2)
  | 2 => let b := row.getD (o / 8) (0, true); (nb b.1.toNat (o % 8) 1, b.2)
  | 4 => let b := row.getD (o / 2) (0, true); (nb b.1.toNat (4 * (o % 2)) 4, b.2)
  | _ => let b := row.getD o (0, true); (b.1.toNat, b.2)

/-- R149, R367: for each byte of a decoded block, whether it was read from a byte that could not be: of a sparse bitmap its bit and, where
that is set, the map before it and its element; of bit-plane delta the elements before it too. -/
def etbUnread (h : Nat) (slot : List (Byte × Bool)) : List Bool :=
  let p := nb h 10 6
  let e := 2 ^ nb h 8 2
  let n := 256 / e
  let bad := fun i => (slot.getD i (0, true)).2
  let els : List Bool := match nb h 0 4 with
    | 1 => List.replicate n false
    | 2 => ((List.range n).foldl (fun (acc : List Bool × Bool) i =>
        let b := acc.2 || (if i = 0 then (List.range e).any fun j => bad (4 + j) else (List.range p).any fun q => bad (8 + (q * (n - 1) + (i - 1)) / 8))
        (acc.1 ++ [b], b)) ([], false)).1
    | _ => ((List.range n).foldl (fun (acc : List Bool × Bool × Nat) i =>
        let byte := slot.getD (4 + i / 8) (0, true)
        let pre := acc.2.1 || byte.2
        if nb byte.1.toNat (i % 8) 1 = 1 then
          (acc.1 ++ [pre || (List.range e).any fun j => bad (4 + n / 8 + e * acc.2.2 + j)], pre, acc.2.2 + 1)
        else (acc.1 ++ [byte.2], pre, acc.2.2)) ([], false, 0)).1
  els.flatMap fun b => List.replicate e b

/-- R148: what makes the header of an encoded block of an image invalid by itself. -/
def etbHeaderOk (h : Nat) : Bool :=
  decide (h < 65536) && nb h 7 1 = 0 && nb h 8 2 ≠ 3 && nb h 0 4 ≤ 3 && nb h 4 3 ≠ 7 && nb h 10 6 ≤ 8 * 2 ^ nb h 8 2 && (nb h 0 4 = 2 || nb h 10 6 = 0)

/-- R152, R358: block j of an image from its header table and slot; `none` where it is invalid. An unreadable header leaves all of the
block unreadable, an unreadable word of its slot the elements read from it (R367). -/
def imageBlock (hdr slot : List (Byte × Bool)) : Option (List (Byte × Bool)) :=
  let h := leNat (hdr.map Prod.fst)
  if hdr.any Prod.snd then some (slot.map fun _ => (0, true))
  else if nb h 0 4 = 0 then
    if nb h 4 3 = 7 && nb h 7 1 = 0 && nb h 8 2 ≠ 3 && nb h 10 22 = 0 then some slot else none
  else if !etbHeaderOk h then none
  else match etbDecode true (hdr.map Prod.fst ++ (slot.drop 4).map Prod.fst) with
    | some l => some ((l.zip (etbUnread h slot)).map fun x => if x.2 then (0, true) else x)
    | none => if nb h 0 4 = 3 && ((slot.drop 4).take (32 / 2 ^ nb h 8 2)).any Prod.snd then some (slot.map fun _ => (0, true)) else none

/-- The ranges of a tile, one for each row, or those of its image: the header table and the slots (R152, R358). -/
def tileRanges (cfg : CimCfg) (d : FillDesc) (src : Nat) : List (Nat × Nat) :=
  let rb := tileRowBytes cfg.wfmt d.nout
  if d.img then
    let n := ((d.kd - 1) * d.rstride + rb + 255) / 256
    [(src, 4 * n), (src + (4 * n + 63) / 64 * 64, 256 * n)]
  else (List.range d.kd).map fun k => (src + k * d.rstride, rb)

/-- The rows of a tile (R358), each the bytes its elements occupy, and whether a block of an image is invalid: what it would have given is not
known. -/
def tileRows (r : FillRead) (ctr : Nat) (cfg : CimCfg) (d : FillDesc) (src : Nat) : List (List (Byte × Bool)) × Bool :=
  let rb := tileRowBytes cfg.wfmt d.nout
  if d.img then
    let n := ((d.kd - 1) * d.rstride + rb + 255) / 256
    let hl := (4 * n + 63) / 64 * 64
    let blocks := (List.range n).map fun j => imageBlock (r.bytes (src + 4 * j) 4) (r.bytes (src + hl + 256 * j) 256)
    let flat := (blocks.zip (List.range n)).flatMap fun b => b.1.getD ((List.range 256).map fun i => unreadByte ctr (256 * b.2 + i))
    ((List.range d.kd).map fun k => (flat.drop (k * d.rstride)).take rb, blocks.any Option.isNone)
  else ((List.range d.kd).map fun k => r.bytes (src + k * d.rstride) rb, false)

/-- A column of an aligned tile: an element is its integer and whether it could not be read (R367). -/
structure TileCol where
  q : List (Int × Bool)
  shifts : List Int
  codes : List Byte
  nnan : Nat
  mem : Bool
  deriving DecidableEq, Repr

/-- An aligned tile: its columns, and whether any word of its source was bad (MERR). -/
structure TileData where
  cols : List TileCol
  merr : Bool
  deriving DecidableEq, Repr

/-- R359: one column from its elements and its scale codes. -/
def tileCol (c : CimCfg) (el : List (Nat × Bool)) (codes : List (Byte × Bool)) : TileCol :=
  let bl := (chunks c.wBlock 4096 el).map fun b => (b, alignCodes c.wfmt c.ww c.wSigned (b.map fun e => if e.2 then 0 else e.1))
  { q := bl.flatMap fun b => (b.1.zip b.2.1).map fun p => if p.1.2 then (0, true) else (p.2, false)
    shifts := bl.map fun b => b.2.2.1
    codes := codes.map Prod.fst
    nnan := (bl.flatMap fun b => b.2.2.2).countP id
    mem := el.any Prod.snd || codes.any Prod.snd }

/-- The aligned tile of a descriptor, and the code of a failure (R365): what could not be read is free then (R366). -/
def State.readTile (s : State) (c : CoreId) (w : FillMem) (cfg : CimCfg) (d : FillDesc) (src scl : Nat) : Option Nat × TileData × State :=
  let r := s.fillReads c w 1 (tileRanges cfg d src)
  let (rows, invalid) := tileRows r (s.freeCtr + 2 ^ 14) cfg d src
  let early := r.err.or (if invalid then some 3 else none)
  let nbk := (d.kd + cfg.wBlock - 1) / cfg.wBlock
  let x := r.st.fillReads c w 1 (if cfg.wbs = 0 || early.isSome then [] else [(scl, d.nout * nbk)])
  let code := fun o => if early.isSome then (List.range nbk).map fun i => unreadByte (s.freeCtr + 2 ^ 15) (o * nbk + i) else x.bytes (scl + o * nbk) nbk
  let cols := (List.range d.nout).map fun o => tileCol cfg (rows.map fun l => tileElem cfg l o) (if cfg.wbs = 0 then [] else code o)
  let err := early.or x.err
  (err, ⟨cols, r.merr || x.merr⟩, if err.isSome then { x.st with freeCtr := x.st.freeCtr + 2 ^ 16 } else x.st)

/-- The rows of a tile, from its columns. -/
def TileData.rows (t : TileData) (kd : Nat) : List (List (Int × Bool)) :=
  t.cols.foldr (fun col acc => List.zipWith (fun x l => x :: l) col.q acc) (List.replicate kd [])

/-! ### Sparse decomposition (R362) -/

/-- The rows of a block that a term picks, ascending. -/
def pickRows (n : Nat) (blk : List (List (Int × Bool))) : List Nat :=
  let sc := (blk.zip (List.range blk.length)).map fun p => (p.1.countP (fun e => decide (e.1 ≠ 0)), p.2)
  sortBy (fun a b => decide (a ≤ b)) (((sortBy (fun (a b : Nat × Nat) => a.1 > b.1 || (a.1 = b.1 && a.2 ≤ b.2)) sc).take n).map Prod.snd)

/-- One term: its stored rows with their selectors, and the rows left live. -/
def sparseTerm (n m : Nat) (rows : List (List (Int × Bool))) : List (Nat × List (Int × Bool)) × List (List (Int × Bool)) :=
  (chunks m 4096 rows).foldl (fun acc blk =>
    let p := pickRows n blk
    (acc.1 ++ p.map fun i => (i, blk.getD i []),
      acc.2 ++ (blk.zip (List.range blk.length)).map fun x => if p.contains x.2 then x.1.map fun e => (0, e.2) else x.1)) ([], [])

/-- Every term of a group, and the residual rows. -/
def sparseTerms (d : FillDesc) : Nat → Nat → List (List (Int × Bool)) → List (List (Nat × List (Int × Bool))) × List (List (Int × Bool))
  | 0, _, rows => ([], rows)
  | fuel + 1, t, rows =>
    let (n, m) := patNM (d.pat t)
    let (st, rest) := sparseTerm n m rows
    let (more, last) := sparseTerms d fuel (t + 1) rest
    (st :: more, last)

/-! ### The residual (R363, R364) -/

/-- |V| of a weight in units of 2^-200, below every factor it can have; `none` under a NaN scale code. -/
def weightV (c : CimCfg) (col : TileCol) (k : Nat) (q : Int) : Option Nat :=
  let b := k / c.wBlock
  match scaleFv c.wbs col.codes[b]? with
  | .fin _ n _ e => some (q.natAbs * n * 2 ^ (e + col.shifts.getD b 0 + 200).toNat)
  | _ => none

structure Thinned where
  /-- kept entries of a column: row, integer, and V where it has one -/
  kept : List (Nat × Int × Option Nat)
  dropped : Nat
  loss : Nat
  deriving DecidableEq, Repr

/-- R363 on one column, from its residual integers by row. -/
def thinColumn (c : CimCfg) (eps : Nat) (col : TileCol) (left : List Int) : Thinned :=
  let f := ((col.q.zip (List.range col.q.length)).filterMap fun e => weightV c col e.2 e.1.1).foldl (· + ·) 0
  let ent := ((left.zip (List.range left.length)).filter fun e => e.1 ≠ 0).map fun e => (e.2, e.1, weightV c col e.2 e.1)
  let order := sortBy (fun (a b : Nat × Int × Nat) => a.2.2 < b.2.2 || (a.2.2 = b.2.2 && a.1 ≤ b.1))
    (ent.filterMap fun e => e.2.2.map fun v => (e.1, e.2.1, v))
  let r := order.foldl (fun (a : Nat × List Nat × Bool) e =>
    if a.2.2 then a
    else if 65536 * (a.1 + e.2.2) ≤ eps * f then (a.1 + e.2.2, e.1 :: a.2.1, false) else (a.1, a.2.1, true)) (0, [], false)
  ⟨ent.filter fun e => !(e.2.2.isSome && r.2.1.contains e.1), r.2.1.length, if f = 0 then 0 else (65536 * r.1 + f - 1) / f⟩

/-- R364: an entry of the residual list. -/
def residualWord (o k : Nat) (q : Int) (v : Option Nat) : W64 :=
  let val := match v with
    | some n => (fmtF32.encode .rne (.fin (decide (q < 0)) n 1 (-200))).1
    | none => qnan
  BitVec.ofNat 64 (val * 2 ^ 32 + k * 65536 + o)

/-! ### The shadow half (R331, R360) -/

/-- The bit-cells of an aligned weight; an unreadable `b1` element stores either bit (R367). -/
def cellCode (c : CimCfg) (free : Nat) (e : Int × Bool) : Nat :=
  if c.wfmt = 2 then (if e.2 then free % 2 else if e.1 = 1 then 1 else 0) else low c.ww e.1

/-- The bits of a stored row. -/
def cellRow (c : CimCfg) (ctr r : Nat) (l : List (Int × Bool)) : Nat :=
  (l.zip (List.range l.length)).foldl (fun x p => x + cellCode c (pickOf ctr (r * 256 + p.2) 2) p.1 * 2 ^ (c.ww * p.2)) 0

/-- R331: the checksum of a row. -/
def rowChecksum (c : CimCfg) (bits : Nat) : BitVec 16 :=
  let t := (List.range c.nout).foldl (fun (t : Int) o => t + weightOf c bits o) 0
  BitVec.ofInt 16 (if c.tree then t % 2 else t)

/-- The half of a fill of KIND 0 or 1 from its stored rows with their selectors. With WBS 0 every block has the code of 1.0 and the shift that
the format gives a block of zeros where the tile has none (R359). An entry of which R359 says nothing takes no part in R194 (DESIGN CHOICE, log
71). -/
def filledHalf (c : CimCfg) (ctr : Nat) (t : TileData) (sparse : Bool) (rows : List (Nat × List (Int × Bool))) : Half :=
  let rb := (rows.zip (List.range rows.length)).map fun p => (p.2, cellRow c ctr p.2 p.1.2, p.1.1)
  let all := (List.range 512).map fun r => match rb[r]? with | some x => x | none => (r, 0, 0)
  let cols := t.cols.zip (List.range t.cols.length)
  let sc := cols.flatMap fun p => (p.1.shifts.zip (List.range p.1.shifts.length)).map fun x => (p.2 * 256 + x.2, x.1)
  let codes := cols.flatMap fun p => (p.1.codes.zip (List.range p.1.codes.length)).map fun x => (p.2 * 256 + x.2, x.1)
  let pad := if sparse && c.wbs ≠ 0 then cols.flatMap fun p =>
      ((List.range 8).filter fun b => p.1.codes.length ≤ b).map fun b => (p.2 * 256 + b, oneCode c.wbs) else []
  let empty : Int := if c.wbs = 0 then (alignCodes c.wfmt c.ww c.wSigned []).2.1 else 0
  { cells := all.foldl (fun (m : Memory) x => m ++ ((leBytes 32 x.2.1).zip (List.range 32)).filterMap fun b =>
      if b.1 = 0 then none else some (x.1 * 32 + b.2, b.1)) []
    checks := if c.cke then all.foldl (fun m x => mwr 0 m x.1 (rowChecksum c x.2.1)) [] else []
    ckValid := c.cke
    shifts := sc.foldl (fun m x => mwr empty m x.1 x.2) []
    shift0 := empty
    scales := (codes ++ pad).foldl (fun m x => mwr .none m x.1 (.code x.2)) []
    scale0 := if c.wbs = 0 then .one else .none
    sels := all.foldl (fun m x => mwr 0 m x.1 x.2.2) []
    nanMet := ((t.cols.zip (List.range t.cols.length)).filter fun p => p.1.nnan ≠ 0).map Prod.snd
    memErr := ((t.cols.zip (List.range t.cols.length)).filter fun p => p.1.mem).map Prod.snd
    bad := false }

/-- R360: the half of a KIND 2 fill. -/
def zeroHalf (c : CimCfg) : Half := { ckValid := c.cke, scale0 := if c.wbs = 0 then .one else .code (oneCode c.wbs) }

/-! ### One fill or tile group -/

/-- The patterns and the stored rows of a sparse descriptor are valid (R357). -/
def FillDesc.sparseOk (d : FillDesc) : Bool :=
  d.term ≤ d.ntm1 && d.kd % 8 = 0 && (List.range (d.ntm1 + 1)).all fun t => 1 ≤ d.pat t && d.pat t ≤ 5 && d.kd * (patNM (d.pat t)).1 / (patNM (d.pat t)).2 ≤ 512

/-- R366: what a fill that never read its tile would have written, as far as its descriptor says: the zero half of KIND 2; a tile of unknown
elements, whose selectors, rows beyond KD and outputs beyond NOUT are as R360 gives them; or nothing that is known. -/
def unreadHalf (cfg : CimCfg) (ctr : Nat) (j : FillJob) : Half :=
  let d := FillDesc.ofWords j.words
  if j.badWords.contains 0 || j.badWords.contains 8 then freeHalf ctr
  else if d.kind = 2 then zeroHalf cfg
  else if !cfg.weightOk || d.kind > 2 || (d.kind = 1 && !d.sparseOk) then (if d.kind = 0 then { freeHalf ctr with sels := [] } else freeHalf ctr)
  else
    let nout := if j.badWords.contains 2 then cfg.nout else min d.nout cfg.nout
    let kd := if d.kind = 0 then min d.kd 512 else d.kd
    let mx := match cfg.wfmt with | 1 => 2 | 2 => 2 | 4 => 16 | _ => 256
    let el := fun o i => let b := unreadByte ctr (i * 256 + o); (b.1.toNat % mx, b.2)
    let nbk := (kd + cfg.wBlock - 1) / cfg.wBlock
    let cols := (List.range nout).map fun o => tileCol cfg ((List.range kd).map (el o))
      (if cfg.wbs = 0 then [] else (List.range nbk).map fun i => unreadByte (ctr + 2 ^ 7) (o * nbk + i))
    let t : TileData := ⟨cols, false⟩
    if d.kind = 0 then filledHalf cfg (ctr + 2 ^ 8) t false ((t.rows kd).map fun r => (0, r))
    else filledHalf cfg (ctr + 2 ^ 8) t true ((sparseTerms d (d.ntm1 + 1) 0 (t.rows kd)).1.getD d.term [])

/-- Fills that fail with a code before they read their tile. -/
def State.failFills (s : State) (cfg : CimCfg) (code : Nat) (merr : Bool) (jobs : List FillJob) : FillOut × State :=
  ({ macrs := jobs.map FillJob.macr, nums := { merr := merr }
     ends := (jobs.zip (List.range jobs.length)).map fun p => (p.1, code, unreadHalf cfg (s.freeCtr + 2 ^ 9 * p.2) p.1) }, { s with freeCtr := s.freeCtr + 2 ^ 9 * jobs.length })

/-- R366: the entries of a list that could not be completed which take their new content, by a free choice. -/
def someEntries (ctr : Nat) (l : List (Nat × W64)) : List (Nat × W64) := ((l.zip (List.range l.length)).filter fun p => pickOf ctr p.2 2 = 1).map Prod.fst

/-- The words of the residual lists: a list that is too long or is refused as a whole keeps some of its old entries. -/
def State.listWords (s : State) (c : CoreId) (w : FillMem) (kept : List W64) (lists : List Nat) : List (Nat × W64) × Option Nat × State :=
  lists.foldl (fun (a : List (Nat × W64) × Option Nat × State) r =>
    let l := ((kept.take 4096).zip (List.range 4096)).map fun p => (r + 8 * p.2, p.1)
    let x := if kept.length > 4096 then (none, a.2.2) else a.2.2.fillCheck c w 8 r (8 * kept.length)
    if kept.length > 4096 || x.1.isSome then (a.1 ++ someEntries x.2.freeCtr l, a.2.1.or x.1, x.2.bump) else (a.1 ++ l, a.2.1, x.2)) ([], none, s)

/-- R360, R362 to R367: the jobs of one tile group, or a single dense or zero fill, in the configuration of their word: what they have to
write. -/
def State.grind (s : State) (c : CoreId) (w : FillMem) (cfg : CimCfg) (src scl : Nat) (jobs : List FillJob) : FillOut × State :=
  match jobs with
  | [] => ({}, s)
  | j :: _ =>
    let d := FillDesc.ofWords j.words
    let macrs := jobs.map FillJob.macr
    if jobs.any fun j => !j.badWords.isEmpty || fillMalformed j.words cfg then s.failFills cfg 1 (jobs.any fun j => !j.badWords.isEmpty) jobs
    else if d.kind = 2 then ({ macrs := macrs, ends := jobs.map fun j => (j, 0, zeroHalf cfg) }, s)
    else
      let (code, t, s) := s.readTile c w cfg d src scl
      let nnan := t.cols.foldl (fun n col => n + col.nnan) 0
      let rows := t.rows d.kd
      let failed : FillNums := { merr := t.merr }
      if d.kind = 0 then
        let half := filledHalf cfg s.freeCtr t false (rows.map fun r => (0, r))
        ({ macrs := macrs, ends := jobs.map fun j => (j, code.getD 0, half), nums := if code.isSome then failed else { nnan := nnan, merr := t.merr } }, s.bump)
      else
        let (terms, left) := sparseTerms d (d.ntm1 + 1) 0 rows
        let halfOf := fun (j : FillJob) => filledHalf cfg s.freeCtr t true (terms.getD (FillDesc.ofWords j.words).term [])
        if code.isSome then ({ macrs := macrs, ends := jobs.map fun j => (j, code.getD 0, halfOf j), nums := failed }, s.bump)
        else
          let used := (terms.zip (List.range terms.length)).foldl (fun u p => u + if p.1.any (fun r => r.2.any fun e => e.1 ≠ 0) then 2 ^ p.2 else 0) 0
          let th := (t.cols.zip (List.range t.cols.length)).map fun p => thinColumn cfg d.eps p.1 (left.map fun r => (r.getD p.2 (0, false)).1)
          let kept := (th.zip (List.range th.length)).flatMap fun p => p.1.kept.map fun e => residualWord p.2 e.1 e.2.1 e.2.2
          let tooMany := kept.length > 4096
          let n : FillNums := { loss := th.foldl (fun m x => max m x.loss) 0, tused := used, nnan := nnan, merr := t.merr, ndrop := th.foldl (fun m x => m + x.dropped) 0
                                nres := if tooMany then pickOf s.freeCtr 16383 4097 else kept.length }
          let lists := jobs.filterMap fun j => if (FillDesc.ofWords j.words).term = 0 && !kept.isEmpty then j.res else none
          let (l, fail, s) := s.bump.listWords c w kept lists
          ({ macrs := macrs, lists := l, fail := fail, ends := jobs.map fun j => (j, if tooMany then 2 else 0, halfOf j), nums := n }, s)

/-- The words of a status record (R365): word 0, word 1. -/
def statusWords (j : FillJob) (code : Nat) (n : FillNums) : W64 × W64 :=
  (BitVec.ofNat 64 (n.loss * 2 ^ 48 + j.idle * 2 ^ 32 + n.tused * 2 ^ 28 + min 255 n.nnan * 65536 + code * 256 + (if n.merr then 2 else 0) + 1),
    BitVec.ofNat 64 (n.ndrop * 2 ^ 32 + n.nres))

/-- The halves of a fill or group once its list is written: whole, or item by item old or new where it failed (R366); its records come next. -/
def State.endFills (s : State) (c : CoreId) (o : FillOut) : FillOut × State :=
  let code := fun (e : Nat) => if e = 0 then o.fail.getD 0 else e
  let s := o.ends.foldl (fun (s : State) e =>
    { (s.putShadow c e.1.macr fun old => if code e.2.1 = 0 then e.2.2 else mixedHalf s.freeCtr old e.2.2) with freeCtr := s.freeCtr + 16 }) s
  ({ o with ends := [], stats := o.ends.flatMap fun e => match e.1.stat with
      | some a => let (w0, w1) := statusWords e.1 (code e.2.1) o.nums; [(a, 8, w1), (a, 0, w0)]
      | none => [] }, s)

/-- One word of a residual list written; a refused one fails the fill. -/
def State.putListWord (s : State) (c : CoreId) (w : FillMem) (o : FillOut) (p : Nat × W64) : FillOut × State :=
  let r := s.fillWrite c w 8 p.1 (leBytes 8 p.2.toNat)
  ({ o with fail := o.fail.or r.1 }, r.2)

/-- One word of a status record written; a refusal drops the record (R365). -/
def State.putStatWord (s : State) (c : CoreId) (w : FillMem) (p : Nat × Nat × W64) : State :=
  let x := s.fillCheck c w 16 p.1 16
  if x.1.isSome then x.2 else (x.2.fillWrite c w 8 (p.1 + p.2.1) (leBytes 8 p.2.2.toNat)).2

/-- All that is left of a fill or group: the list, the halves, then each record with its word 1 before its word 0 (R365). -/
def State.flushFill (s : State) (c : CoreId) (w : FillMem) (o : FillOut) : State :=
  let a := o.lists.foldl (fun (a : FillOut × State) p => a.2.putListWord c w a.1 p) (o, s)
  let b := if o.stats.isEmpty then a.2.endFills c a.1 else a
  b.1.stats.foldl (fun s p => s.putStatWord c w p) b.2

/-! ### Fills of an `mld` (R355) -/

/-- A descriptor as it is read, or the code of its refusal; KIND 2 reads words 0 and 5 only (R357). -/
def State.readDesc (s : State) (c : CoreId) (w : FillMem) (off : Nat) : Except Nat (List (Byte × Bool)) × State :=
  let r0 := s.fillReads c w 64 [(off, 64)]
  match r0.err with
  | some e => (.error e, s)
  | none =>
    let a := s.fillReads c w 8 [(off, 8)]
    let zero := a.bytes off 8
    let two := !zero.any Prod.snd && nb (leNat (zero.map Prod.fst)) 60 4 = 2
    let b := a.st.fillReads c w 8 (if two then [(off + 40, 8)] else [(off + 8, 56)])
    let rest := if two then List.replicate 32 (0, false) ++ b.bytes (off + 40) 8 ++ List.replicate 16 (0, false) else b.bytes (off + 8) 56
    (.ok (zero ++ rest), b.st)

/-- Word i of a descriptor as read, and whether it could not be. -/
def descWord (l : List (Byte × Bool)) (i : Nat) : W64 := BitVec.ofNat 64 (leNat (((l.drop (8 * i)).take 8).map Prod.fst))
def descBad (l : List (Byte × Bool)) (i : Nat) : Bool := ((l.drop (8 * i)).take 8).any Prod.snd

/-- The job of a fill with its descriptor as read. -/
def Fill.job (f : Fill) (l : List (Byte × Bool)) : FillJob :=
  let ws := (List.range 8).map (descWord l)
  let d := FillDesc.ofWords ws
  ⟨f.macr, ws, (List.range 8).filter (descBad l), some d.res, if d.stv && !descBad l 5 then some d.stat else none, f.idle⟩

/-- R361: what the members of a tile group have in common; a descriptor whose words 0 to 3 cannot all be read joins none. -/
def FillJob.groupKey (j : FillJob) : Option (List Nat) :=
  if j.badWords.any (fun i => i < 4) || (FillDesc.ofWords j.words).kind ≠ 1 then none else some (fillGroupKey j.words)

/-- R361: the later fills of an `mld` word that form a tile group with a job. Their descriptors are looked at now, and read with the group; the
others' are read at their own turn (R369; log 29). -/
def State.mates (s : State) (c : CoreId) (f : Fill) (j : FillJob) (rest : List Fill) : List (Fill × FillJob) :=
  if j.groupKey.isNone then []
  else (rest.filter fun g => g.group = f.group).filterMap fun g => match (s.readDesc c (.scratch f.got) g.descOff).1 with
    | .ok l => if (g.job l).groupKey = j.groupKey then some (g, g.job l) else none
    | .error _ => none

/-- The fill at the head of the queue, with its tile group where it is sparse (R355, R361): what it has to write. A refused descriptor fails only
its own fill, without a record (R366). -/
def State.fillTurn (s : State) (c : CoreId) (f : Fill) (rest : List Fill) : FillOut × State :=
  match s.readDesc c (.scratch f.got) f.descOff with
  | (.error e, s) => s.failFills f.cfg e false [⟨f.macr, [], [0], none, none, f.idle⟩]
  | (.ok l, s) =>
    let j := f.job l
    let ms := s.mates c f j rest
    let s := ms.foldl (fun s m => (s.readDesc c (.scratch f.got) m.1.descOff).2) s
    let d := FillDesc.ofWords j.words
    s.grind c (.scratch f.got) f.cfg d.src d.scl (j :: ms.map Prod.snd)

/-- R368: the IDLE counts as they stand. -/
def FillOut.idles (o : FillOut) (fills : List Fill) (g : Nat) : FillOut :=
  { o with ends := o.ends.map fun e => ({ e.1 with idle := ((fills.find? fun f => f.group = g && f.macr = e.1.macr).map Fill.idle).getD e.1.idle }, e.2) }

/-- R369: bank word x read ahead of the rest of its fill; a correctable error is repaired now (R55). -/
def State.fillAhead (s : State) (c : CoreId) (f : Fill) (rest : List Fill) (x : Nat) : State :=
  let k := s.core c
  if (mrd none f.got x).isSome then s
  else
    let got := (k.loc.ceWords.contains x, (List.range 8).map fun i => (mrd 0 k.loc.scratch (8 * x + i), k.loc.badWords.contains x))
    s.modCore c fun k => { k with loc.ceWords := k.loc.ceWords.filter (· ≠ x), eng.cim.fills := { f with got := mwr none f.got x (some got) } :: rest }

/-- R126: a step of a fill before its last: with `m` 1 its operands are read and its results formed; with 2 word i of a residual list is written;
with 3 the halves, once the list is written, or word i of the records, word 1 of one before its word 0. -/
def State.fillStep (s : State) (c : CoreId) (f : Fill) (rest : List Fill) (m i : Nat) : State :=
  let w := FillMem.scratch f.got
  let put := fun (r : FillOut × State) => r.2.modCim c fun x => { x with out := some r.1 }
  match (s.core c).eng.cim.out with
  | none => if m = 1 then put (s.fillTurn c f rest) else s
  | some o =>
    if m = 2 then match o.lists[i]? with
      | some p => put (s.putListWord c w { o with lists := o.lists.eraseIdx i } p)
      | none => s
    else if m = 3 && o.lists.isEmpty then
      if !o.ends.isEmpty then put (s.endFills c (o.idles (s.core c).eng.cim.fills f.group))
      else match o.stats[i]? with
        | some p => if (o.stats.take i).any fun q => q.1 = p.1 then s else put ({ o with stats := o.stats.eraseIdx i }, s.putStatWord c w p)
        | none => s
    else s

/-- GRINDER_FILL: the fill at the head of the queue, with its tile group (R355, R361), ends. With the flag it goes one step: `v`[63:62] 0 reads bank
word `v`[18:0] ahead, 1 to 3 as in `State.fillStep` with `v`[61:0] (R126, R369). -/
def execGrinderFill (s : State) : Out :=
  let c := s.cur.core
  match (s.core c).eng.cim.fills with
  | [] => .next s
  | f :: rest =>
    if s.cur.flag then
      let m := bits s.cur.v 62 2
      .next (if m = 0 then s.fillAhead c f rest (bits s.cur.v 0 19) else s.fillStep c f rest m (bits s.cur.v 0 62))
    else
      let (o, s) := match (s.core c).eng.cim.out with | some o => (o, s) | none => s.fillTurn c f rest
      let s := s.flushFill c (.scratch f.got) (o.idles (s.core c).eng.cim.fills f.group)
      .next (s.modCim c fun x => { x with out := none, fills := x.fills.filter fun g => !(g.group = f.group && o.macrs.contains g.macr) })

end Sys2Proof.Machine
end

