-- ==== Sys2Proof/Machine/Release.lean ====
section
/-! DEFINITION. Release: the events of a core's own pipeline: bundle issue (spec R202), landings (R213, R215), translation walks (R38,
R45, R220), the checkpoint release (R112, R220, R404), trap entry (R396, R398), L1 write-back (R117), Canopy fills (R83), and
the completion of `drain` and `rel` (R115, R118). -/

namespace Sys2Proof.Machine

open Sys2Proof

/-! ### Issue and landing -/

/-- BUNDLE_ISSUE (R202): the core of the event. -/
def execBundleIssue (s : State) : Out := .next (s.issue s.cur.core)

/-- RESULT_LANDING (R213, R246): the fixed-latency results of the core whose bound has passed. Each cycle of the core lands them as well. -/
def execResultLanding (s : State) : Out := .next (s.modCore s.cur.core Core.landDue)

/-- TRAP_ENTRY (R396): what the boundary takes, where the core could issue a bundle. -/
def execTrapEntry (s : State) : Out :=
  .next (if s.canIssue s.cur.core then (s.boundary s.cur.core).getD s else s)

/-- Whether an address of one of the first n withheld effects is still untranslated: loads after it wait (R70). -/
def Core.untranslated (k : Core) (n : Nat) : Bool := (k.ms.wh.take n).any fun w =>
  w.place = .va && match w.what with | .store .. => true | .amo .. => true | _ => false

/-- The mask of a group (R310). -/
def State.groupMask (s : State) (c : CoreId) (g : Nat) : W64 :=
  let gang := match (s.core c).task with | some t => t.gang | none => 0
  mrd 0 s.sched.groups (gang * 8 + g)

/-- A result put on its port and out of the list of pending ones; an overtaken one reaches no port (R215). -/
def State.landPend (s : State) (c : CoreId) (p : Pend) (v : Val) : State :=
  s.modCore c fun k =>
    let k : Core := { k with ms.pend := k.ms.pend.filter fun q => q.id ≠ p.id }
    if p.dead then k else k.setPort p.port v

/-- VARIABLE_RESULT_LANDING (R215): result k of the core's pending ones. A load that has not performed is performed first (R111); a
performed one lands. A `gmask` reads its group after every earlier signal of the core (R310). `v` not 0 reads one word of a row load ahead of
the rest (R54). -/
def execVariableResultLanding (s : State) : Out :=
  let c := s.cur.core
  let k := s.core c
  match k.ms.pend[s.cur.k]? with
  | none => .next s
  | some p => .next (match p.got, p.place with
    | some v, _ => s.landPend c p v
    | none, .glob _ =>
      if p.n = 0 || k.untranslated p.whN then s
      else if s.cur.v ≠ 0 then s.captureWord c p ((s.cur.v.toNat - 1) % 64) else s.performLoad c p
    | none, .loc g =>
      let earlier := (k.ms.comm.any fun w => w.id < p.id && match w.what with | .signal _ => true | _ => false) ||
        k.ms.releasing.any fun r => r.effs.any fun e => e.id < p.id && match e.what with | .signal _ => true | _ => false
      if earlier then s
      else s.landPend c p (.w (s.groupMask c g))
    | none, _ => s)

/-! ### Walks -/

/-- R45: the walker runs up to 32 walks at once; the other misses wait in arrival order. Whether the walk of a page is among those that run. -/
def State.walkRuns (s : State) (g : Fin 8) (dom page : Nat) : Bool :=
  let ms := s.misses g
  let first := fun (d q : Nat) => (leastOf ((ms.filter fun m => m.2.2.1 = d && m.2.2.2.1 = q).map Prod.fst)).getD 0
  let keys := (ms.map fun m => (m.2.2.1, m.2.2.2.1)).eraseDups
  (keys.filter fun q => first q.1 q.2 < first dom page).length < 32

/-- TRANSLATION_WALK (R38, R45, R220): the walk of the page that miss k of the core waits for, where the walker has taken it up. Every miss of
the grove on that page receives its result: it goes on, or its fault is reported at a later boundary. -/
def execTranslationWalk (s : State) : Out :=
  let c := s.cur.core
  match (s.core c).ms.walks[s.cur.k]? with
  | none => .next s
  | some w =>
    let dom := (s.core c).domain
    .next (match s.missAt c dom w.ea.toNat w.n with
      | none => s.settleWalk c false w
      | some a =>
        if !s.walkRuns (groveOf c) dom (a / 65536) then s
        else
          let joined := (s.misses (groveOf c)).filter fun m => m.2.2.1 = dom && m.2.2.2.1 = a / 65536
          let (_, s) := s.walkGrove c dom a
          joined.foldl (fun s m => if (s.core m.2.1).ms.walks.any (fun x => x.id = m.2.2.2.2.id) then s.settleWalk m.2.1 false m.2.2.2.2 else s) s)

/-! ### TLB and L1 invalidation (R48, R266, R267) -/

/-- The entries that stay: A, B and C as R266 gives them; B = 0 drops nothing. -/
def tlbKeeps (a b c : W64) (t : TlbEnt) : Bool :=
  let lo := bits a 16 40 * 65536
  !((bits c 10 1 = 1 || t.domain = bits c 0 8) && (bits c 11 1 = 1 || (b ≠ 0 && t.va < lo + b.toNat && lo < t.va + leafSpan t.level)))

/-- R266: the TLBs of a scope drop every matching entry; the locked entry is no TLB entry. -/
def State.tlbInvalidate (s : State) (c : CoreId) (scope : Nat) (a b w : W64) : State :=
  let keep := tlbKeeps a b w
  let cores := s.cores.zipIdx.map fun p =>
    if scope ≥ 2 || (scope = 1 && p.2 / 8 = c.val / 8) || p.2 = c.val then { p.1 with ms.tlb := p.1.ms.tlb.filter keep } else p.1
  let groves := s.mem.groveTlb.zipIdx.map fun p => if scope ≥ 2 || (scope = 1 && p.2 = c.val / 8) then p.1.filter keep else p.1
  { s with cores := cores, mem := { s.mem with groveTlb := groves } }

/-- R267: every dirty line written back, every line invalidated, the FIFO empty. -/
def State.l1Flush (s : State) (c : CoreId) : State :=
  let s := (s.core c).ms.l1.foldl (fun s l => s.l1Clean c l.home l.line true) s
  s.modCore c fun k => { k with ms.l1 := [], ms.fifo := [] }

/-- Whether the dirty-line FIFO holds the marker of a `rel`. -/
def Core.marked (k : Core) : Bool := k.ms.fifo.any fun e => match e with | .marker _ => true | _ => false

/-! ### The commit (R112) -/

def State.push (s : State) (c : CoreId) (w : Comm) : State := s.modCore c fun k => { k with ms.comm := k.ms.comm ++ [w] }

/-- R84: a class 2 store joins what its release already holds of its 64-byte block. It joins nothing that a `drain`, a `rel`, an atomic on the
slice or an access of another class to it follows, which keeps its place (R110, R115). -/
def mergeStore (g : Seg) (batch : Nat) (bs : List Byte) (poison : Bool) : List Comm → Option (List Comm)
  | [] => none
  | w :: t => match mergeStore g batch bs poison t with
    | some t' => some (w :: t')
    | none =>
      let open_ := t.all fun x => match x.place, x.what with
        | _, .drain .. => false
        | _, .rel _ => false
        | .glob (h :: _), what => (h.cls = 2 && match what with | .store .. => true | _ => false) || h.home ≠ g.home || sliceOf (h.pa / 128) ≠ sliceOf (g.pa / 128)
        | _, _ => true
      match w.place, w.what with
      | .glob (h :: hs), .store old p =>
        if h.cls = 2 && w.batch = batch && h.home = g.home && h.key = g.key && h.pa / 64 = g.pa / 64 && open_ then
          some ((if g.len = 64 then { w with place := .glob [g], what := .store bs poison }
            else { w with place := .glob (h :: hs ++ [g]), what := .store (old ++ bs) (p || poison) }) :: t)
        else none
      | _, _ => none

/-- A committed class 0 or 5 store of a piece of a line: it enters the L1 (R117) or waits for it (R118). -/
def State.commitL1 (s : State) (c : CoreId) (item : Comm) (g : Seg) (bs : List Byte) (poison : Bool) : State :=
  if (s.core c).l1Takes (s.core c).ms.comm g.home (g.pa / 128) then s.l1Store c item.id g g.pa bs poison
  else s.push c { item with place := .glob [g], what := .store bs poison }

/-- A committed global store: class 0 and 5 bytes go to the L1; the rest leaves the core, cut into 64-byte blocks and class 4 blocks (log 18).
A class 4 store leaves no expanded line behind (R102). -/
def State.commitStore (s : State) (c : CoreId) (batch : Nat) (w : Withheld) (segs : List Seg) (bs : List Byte) (poison : Bool) : State :=
  let item : Comm := { id := w.id, org := w.org, place := w.place, ea := w.ea, batch := batch, what := .store bs poison }
  (segOffsets segs 0).foldl (fun s (p : Seg × Nat) =>
    let size := match p.1.cls with | 0 => 128 | 5 => 128 | 4 => 256 | _ => 64
    (pieces size (p.1.len + 1) p.1.pa p.1.len).foldl (fun s (q : Nat × Nat) =>
      let g := { p.1 with pa := q.1, len := q.2 }
      let mine := (bs.drop (p.2 + (q.1 - p.1.pa))).take q.2
      match g.cls with
      | 0 => s.commitL1 c item g mine poison
      | 5 => s.commitL1 c item g mine poison
      | 2 => match mergeStore g batch mine poison (s.core c).ms.comm with
        | some l => s.modCore c fun k => { k with ms.comm := l }
        | none => s.push c { item with place := .glob [g], what := .store mine poison }
      | 4 => (s.modCore c fun k => k.dropExpanded [g]).push c { item with place := .glob [g], what := .store mine poison }
      | _ => s.push c { item with place := .glob [g], what := .store mine poison }) s) s

/-- A global atomic sent on: its line leaves the L1 first, where nothing holds it there (R121). -/
def State.sendAmo (s : State) (c : CoreId) (item : Comm) : State :=
  match item.place with
  | .glob segs =>
    let (left, s) := s.amoLeaves c (s.core c).ms.comm segs
    s.push c { item with left := left }
  | _ => s.push c item

/-- One withheld effect committed. -/
def State.commitWithheld (s : State) (c : CoreId) (batch : Nat) (w : Withheld) : State :=
  let send := fun (what : CommKind) => s.push c { id := w.id, org := w.org, place := w.place, ea := w.ea, batch := batch, what := what }
  match w.what with
  | .store bs p => match w.place with
    | .loc off => s.modCore c fun k => k.storeLocal off bs p
    | .glob segs => s.commitStore c batch w segs bs p
    | _ => send (.store bs p)
  | .amo op b d => s.sendAmo c { id := w.id, org := w.org, place := w.place, ea := w.ea, batch := batch, what := .amo op b d }
  | .drain m sc => if m = 0 then s else send (.drain m sc)
  | .rel sc => (send (.rel sc)).modCore c fun k => { k with ms.fifo := k.ms.fifo ++ [.marker w.id] }
  | .cfRelease f => s.modCore c fun k =>
      let x := k.eng.carafes.get f
      { k with eng.carafes := k.eng.carafes.set f { x with nheld := x.nheld - 1, q := (x.q + 1) % (if x.n = 0 then 1 else x.n) } }
  | .aqPush r => s.modCore c fun k => { k with eng.aq := k.eng.aq ++ [r] }

/-- R122: before a token that is not pending starts a new life, the operations that wait on it keep only its failure. -/
def State.settleWaits (s : State) (c : CoreId) (ts : List Nat) : State :=
  let k := s.core c
  let fix := fun (l : List Nat) => l.filterMap fun t =>
    if ts.contains t && t < 32 then (if k.token t = 3 then some 32 else if k.token t = 1 then some t else none) else some t
  let s := s.setCore c { k with
    ms.comm := k.ms.comm.map fun (w : Comm) => { w with waits := fix w.waits }
    eng.copies := k.eng.copies.map fun (e : CopyEnt) => { e with waits := fix e.waits }
    eng.cim.queue := k.eng.cim.queue.map fun (q : CimCall) => { q with waits := fix q.waits }
    eng.cim.mpload := k.eng.cim.mpload.map fun q => (q.1, q.2.1, fix q.2.2.1, q.2.2.2) }
  { s with sched := { s.sched with colls := s.sched.colls.map fun (r : CollReq) => if r.core = c then { r with waits := fix r.waits } else r } }

/-- R257: done and failed tokens of a mask become idle. -/
def State.freeTokens (s : State) (c : CoreId) (m : W32) : State :=
  let ts := (maskTokens m).filter fun t => (s.core c).token t ≠ 1
  (s.settleWaits c ts).modCore c fun k => ts.foldl (fun k t => k.setToken t 0) k

/-- R155: a Carafe configured anew holds nothing. -/
def cafInit (a : W64) : Carafe :=
  let (base, sz, n) := cafConfig a
  { act := true, base := base, slotsz := sz, n := n }

/-- The wait word, the produced token and the progress tokens of an engine trigger (R232, R340). -/
def Signal.tokens : Signal → Option (W64 × W64 × List Nat)
  | .cpy _ w k => some (w, k, [])
  | .cimCall _ p w k _ => some (w, k, maskTokens p)
  | .cimStep _ w k _ => some (w, k, [])
  | .nfence k => some (0, k, [])
  | .coll _ _ _ _ w k => some (w, k, [])
  | .mpload _ _ w k => some (w, k, [])
  | _ => none

/-- A signal sent on. The tokens of an engine trigger become pending and its wait entries are evaluated now, in slot order, so that
bundles after the release see them (R122, R257; log 20). -/
def State.sendSignal (s : State) (c : CoreId) (batch : Nat) (e : CEff) (g : Signal) : State :=
  let item : Comm := { id := e.id, org := e.org, place := e.place, ea := e.ea, batch := batch, what := .signal g }
  match g.tokens with
  | none => s.sendAmo c item
  | some (w, k, prog) =>
    let own := (produceToken k).toList ++ prog
    let s := s.settleWaits c own
    let waits := ((waitTokens w).getD []).filter fun t => (s.core c).token t = 1 || (s.core c).token t = 3
    (s.modCore c fun k => own.foldl (fun k t => k.setToken t 1) k).push c { item with waits := waits }

/-- One effect that cannot be withheld, performed or sent on in slot order (R112, R219). A task that took `BUDGET` is killed at its end (R388). A
`cinit` resets its Carafe although a queued packet took a slot of it after the check at issue (DESIGN CHOICE, log 92). -/
def State.commitEff (s : State) (c : CoreId) (batch : Nat) (e : CEff) : State :=
  match e.what with
  | .csrw n v => s.modCore c fun k => k.csrWrite n v
  | .endTask x => s.modCore c fun k => { k with ending := some (if k.task.any (fun t => t.tookBudget) then .killed else .done x) }
  | .kfree m => s.freeTokens c m
  | .tlbinv a b w => s.tlbInvalidate c (bits w 8 2) a b w
  | .l1inv => s
  | .cinit f a => s.modCore c fun k => { k with eng.carafes := k.eng.carafes.set f (cafInit a) }
  | .mpsw w v => s.modCim c fun x => { x with store := mwr 0 x.store w v }
  | .signal g => s.sendSignal c batch e g

/-- Pops of `yq`, of the near-memory streams and of Carafes become final (R128, R159, R230). -/
def Core.commitPops (k : Core) : Core :=
  { k with
    eng.yq := k.eng.yq.drop k.eng.yqSpec
    eng.yqSpec := 0
    eng.nm := k.eng.nm.map fun (n : NmStream) => { n with results := n.results.drop n.spec, spec := 0 }
    eng.carafes := k.eng.carafes.map fun (f : Carafe) => { f with spec := 0 } }

/-- R220: whether the release of a core is held: a walk, a remote load, a scalar load's data, a handle operation, a failed check of the
interval, or a report to be taken first. One of the handler's own interval holds it without end, since handler mode takes no report (DESIGN CHOICE,
log 94). -/
def Core.releaseHeld (k : Core) (r : Release) : Bool :=
  !k.ms.walks.isEmpty || k.nextReport.isSome || k.reports.any (fun x => decide (k.mode.openSeq ≤ x.seq)) ||
  k.ms.pend.any (fun p => p.got.isNone && match p.place with | .rem .. => true | .glob _ => !p.row | _ => false) ||
  r.effs.any fun e => match e.what with | .signal (.handle _ _ _ _ checked) => !checked | _ => false

/-- Whether a load overlaps a store of the open interval: it is performed before that store commits (R109; log 19). -/
def Core.overlapsWithheld (k : Core) (p : Pend) : Bool :=
  match p.place with
  | .glob a => k.ms.wh.any fun w => match w.place, w.what with
    | .glob b, .store .. => a.any fun x => b.any fun y => x.home = y.home && x.pa < y.pa + y.len && y.pa < x.pa + x.len
    | _, _ => false
  | _ => false

/-- R112, R13, R398, R399: the commit of the interval, the snapshot outside handler mode, and `eret`. What follows an `l1inv` in slot order
waits for it (R269). -/
def State.commit (s : State) (c : CoreId) (r : Release) : State :=
  let early := (s.core c).ms.pend.filter fun p => p.got.isNone && (s.core c).overlapsWithheld p
  let s := early.foldl (fun s p => s.performLoad c { p with noFill := true }) s
  let batch := (s.core c).seq
  let wh := (s.core c).ms.wh
  let s := s.modCore c fun k => { k.commitPops.commitV with ms.wh := [], ms.pend := k.ms.pend.map fun (p : Pend) => { p with whN := 0 } }
  let s := wh.foldl (fun s w => s.commitWithheld c batch w) s
  let s := r.effs.foldl (fun s e => s.commitEff c batch e) s
  let l1 := r.effs.filter fun e => e.what = .l1inv
  let s := s.modCore c fun k =>
    let k : Core := if k.mode.handler then k else k.takeSnapshot r.resume
    { k with ms.releasing := if l1.isEmpty then none else some { r with effs := l1, committed := true }, mode.retries := 0, mode.openSeq := k.seq }
  if r.eret && (s.core c).ending.isNone then ((s.modCore c fun k => k.eretOrEnd s.freeCtr)).bump.bump else s

/-- R267: whether every dirty line of the L1 may be written back now. -/
def Core.l1Free (k : Core) : Bool := !k.marked && !(k.ms.l1.any k.lineHeld) && !(k.ms.comm.any Comm.isL1)

/-- CHECKPOINT_RELEASE (R112, R220, R404): the release of the core, once nothing holds it; `flag` says that the signatures of a
lockstep pair differ. A committed release that waits for `l1inv` completes when every line may be written back (R118, R267). -/
def execCheckpointRelease (s : State) : Out :=
  let c := s.cur.core
  let k := s.core c
  match k.ms.releasing with
  | none => .next s
  | some r =>
    if r.committed then
      .next (if k.l1Free then (s.l1Flush c).modCore c fun k => { k with ms.releasing := none } else s)
    else if k.releaseHeld r then .next s
    else if s.pairDiffers c then .next (s.lockstepMismatch c r.pc)
    else .next (s.commit c r)

/-! ### drain, rel and write-back -/

/-- R95: the bank group of a home-0 address. -/
def bankGroup (pa : Nat) : Nat :=
  (nb pa 8 3 ^^^ nb pa 18 3 ^^^ nb pa 30 3) * 256 + (nb pa 11 6 ^^^ nb pa 21 6) * 4 + nb pa 17 2

/-- The drain class bits of a committed access (R114): RS, GL, NM, CI; 0 for what no class covers. -/
def Comm.drainClass (w : Comm) : BitVec 4 :=
  let access := !w.isL1 && match w.what with
    | .store .. => true | .amo .. => true | .signal (.amo ..) => true | _ => false
  if access then match w.place with
    | .rem .. => 1
    | .glob (g :: _) => if g.cls = 3 then 4 else 2
    | _ => 0
  else match w.what with
    | .signal (.nmCmd ..) => 4
    | .signal (.cpy ..) => 8
    | _ => 0

/-- R80: the grove above which the home slice of a line lies: slices 4g to 4g + 3. -/
def sliceGrove (pa : Nat) : Nat := sliceOf (pa / 128) / 4

/-- Whether a scope asks that an access has been performed (R116); otherwise its being sent is enough. -/
def Comm.mustPerform (c : CoreId) (scope : Nat) (w : Comm) : Bool :=
  match w.what with
  | .signal (.cpy ..) => scope ≠ 0
  | _ => match w.place with
    | .rem h _ => scope ≥ 2 || (scope = 1 && h.val / 8 = c.val / 8)
    | .glob (g :: _) =>
      if g.cls = 3 then scope ≥ 2
      else if scope = 3 then true
      else if scope = 2 then g.home = 0 || g.home = 14
      else scope = 1 && (g.home = 0 || g.home = 14) && sliceGrove g.pa = c.val / 8
    | _ => scope ≥ 2

/-- Near-memory commands that left the core and are not performed at their bank groups. -/
def Core.nearPending (k : Core) : List Nat :=
  k.eng.nm.toList.flatMap (fun n => n.cmds.map Prod.fst) ++ k.eng.nrfCmds.map Prod.fst

/-- R115, R116: whether nothing committed before a drain still keeps it from completing. -/
def Core.drained (k : Core) (c : CoreId) (id : Nat) (before : List Comm) (mask : BitVec 4) (scope : Nat) : Bool :=
  !(before.any fun w => w.drainClass &&& mask ≠ 0 && (w.mustPerform c scope || !w.left)) &&
  !(mask.getLsbD 2 && scope ≥ 2 && k.nearPending.any fun n => n < id)

/-- DRAIN_COMPLETE (R115): the committed item k of the core is a `drain` that nothing holds. -/
def execDrainComplete (s : State) : Out :=
  let c := s.cur.core
  let k := s.core c
  match k.ms.comm[s.cur.k]? with
  | some w => match w.what with
    | .drain m sc =>
      .next (if k.drained c w.id (k.ms.comm.take s.cur.k) m sc.toNat then s.modCore c fun k => { k with ms.comm := k.ms.comm.eraseIdx s.cur.k } else s)
    | _ => .next s
  | none => .next s

/-- Whether a dirty line is ahead of the marker of a `rel`. -/
def linesAhead (id : Nat) (l : List FifoEnt) : Bool :=
  (l.takeWhile fun e => e ≠ .marker id).any fun e => match e with | .line .. => true | _ => false

/-- R118: scopes 0 to 2 of a `rel` behave alike. -/
def relScope (sc : BitVec 2) : Nat := max 2 sc.toNat

/-- REL_COMPLETE (R118): the committed item k is a `rel` with no dirty line ahead of its marker and no earlier store still on its way to the
L1, whose GL drain is complete. -/
def execRelComplete (s : State) : Out :=
  let c := s.cur.core
  let k := s.core c
  match k.ms.comm[s.cur.k]? with
  | some w => match w.what with
    | .rel sc =>
      .next (if !linesAhead w.id k.ms.fifo && !((k.ms.comm.take s.cur.k).any Comm.isL1) && k.drained c w.id (k.ms.comm.take s.cur.k) 2 (relScope sc) then
        s.modCore c fun k => { k with ms.comm := k.ms.comm.eraseIdx s.cur.k, ms.fifo := k.ms.fifo.filter fun e => e ≠ .marker w.id } else s)
    | _ => .next s
  | none => .next s

/-- L1_WRITEBACK (R117): line k of the L1; `flag` evicts it. A line behind the marker of a `rel` stays (R118). -/
def execL1Writeback (s : State) : Out :=
  let c := s.cur.core
  match (s.core c).ms.l1[s.cur.k]? with
  | none => .next s
  | some l => .next (if (s.core c).lineHeld l then s else s.l1Clean c l.home l.line s.cur.flag)

/-- Whether a line lies wholly beyond the encoded length of its slot, so that Canopy never fetches it (R101). -/
def Mem.beyond (m : Mem) (line : Nat) : Bool :=
  line % 2 = 1 && m.slotEncoded 0 (line / 2) && nb (leNat (m.slotBytes 0 ((m.block (2 * (line / 2 * 2))).key % 256) (line / 2)).bytes) 4 3 < 4

/-- CANOPY_FILL (R83): the home-0 line k comes to Canopy, under the key it was written with, for a page of class `v`, or of class 5 where
its blocks carry codes; other fills are part of their access. A line of a class 5 page is checked (R100), and one that an encoded block does not reach is not fetched (R101). -/
def execCanopyFill (s : State) : Out :=
  if s.cur.k ≥ 2 ^ 32 then .next s
  else
    let full := (s.mem.block (2 * s.cur.k)).key
    let key := full % 256
    let coded := (s.mem.block (2 * s.cur.k)).integ.isSome || (s.mem.block (2 * s.cur.k + 1)).integ.isSome
    let cls := if coded then 5 else s.cur.v.toNat
    if s.mem.fullKey key ≠ full || s.mem.beyond s.cur.k || cls = 3 || cls > 5 then .next s
    else
      let r := s.mem.fetch 0 s.cur.k key cls
      .next ({ s with mem := r.2.2.1 }.addRecs r.2.2.2)

end Sys2Proof.Machine
end

