-- ==== Sys2Proof/Machine/Perform.lean ====
section
/-! DEFINITION. Perform: committed accesses reach their points of performance (spec R104, R110, R113, R115, R120, R121), remote accesses
are checked at their home core (R74, R77), and buffer handles change descriptors (R73, R75, R76). -/

namespace Sys2Proof.Machine

open Sys2Proof

/-! ### Order of committed items -/

/-- R110: two accesses of one core that reach one point along one path; two write-combined blocks of a release are excepted (R84). -/
def Comm.samePath (a b : Comm) : Bool :=
  match a.place, b.place with
  | .rem x _, .rem y _ => x = y
  | .glob (g :: _), .glob (h :: _) =>
    if g.cls = 3 || h.cls = 3 then g.cls = h.cls && bankGroup g.pa = bankGroup h.pa
    else if g.cls = 2 && h.cls = 2 && a.batch = b.batch && !a.isAmo && !b.isAmo && g.pa / 64 ≠ h.pa / 64 then false
    else g.home = h.home && sliceOf (g.pa / 128) = sliceOf (h.pa / 128)
  | _, _ => false

/-- A committed access that leaves the core for its point: a store on its way to the L1 does not. -/
def Comm.isAccess (w : Comm) : Bool := !w.isL1 && match w.what with
  | .store .. => true | .amo .. => true | .signal (.amo ..) => true | _ => false

def Comm.isHandle (w : Comm) : Bool := match w.what with
  | .signal (.handle ..) => true | _ => false

/-- R110, R115, R118: whether the access at place i of the commit order may be performed now. -/
def Core.accessReady (k : Core) (c : CoreId) (i : Nat) (w : Comm) : Bool :=
  (List.range i).all fun j => match k.ms.comm[j]? with
    | none => true
    | some d =>
      !(d.isAccess && d.samePath w) && match d.what with
        | .drain m sc => w.drainClass &&& m = 0 || k.drained c d.id (k.ms.comm.take j) m sc.toNat
        | .rel sc => w.drainClass &&& 2 = 0 || k.drained c d.id (k.ms.comm.take j) 2 (relScope sc)
        | _ => true

/-- R113, R269: whether the signal at place i may be performed: no earlier `drain`, `rel` or signal is left, nor an `l1inv` of a lower slot. -/
def Core.signalReady (k : Core) (i : Nat) : Bool :=
  !((k.ms.comm[i]?).any fun w => k.ms.releasing.any fun r => r.committed && r.effs.any fun e => e.id < w.id) &&
  !((k.ms.comm.take i).any fun d => match d.what with | .drain .. => true | .rel _ => true | .signal _ => true | _ => false)

def State.dropComm (s : State) (c : CoreId) (i : Nat) : State := s.modCore c fun k => { k with ms.comm := k.ms.comm.eraseIdx i }

/-! ### Remote scratch -/

/-- R74, R77, R401: the refusal of a remote access at its home core: cause and detail. `later` marks reports after release. -/
def State.remoteRefusal (s : State) (c h : CoreId) (kind o n : Nat) (later : Bool) : Option (Byte × Byte) :=
  if s.absent h then some (cNocore, BitVec.ofNat 8 h.val)
  else (ownRefuses h (s.core h) (some c) kind o n).map fun x => (cScratchown, ownDetail ((s.core h).ownState x) kind later)

/-- A refusal on its way to the issuing core. -/
def State.refuse (s : State) (c : CoreId) (w : Comm) (t : Byte × Byte) (record : Bool) : State :=
  s.modCore c fun k => { k with ms.refusals := k.ms.refusals ++
    [(⟨{ code := t.1, detail := t.2, isDef := true, addr := w.ea, pc := w.org.pc, slot := BitVec.ofNat 4 w.org.slot }, w.org.seq⟩, record)] }

/-- DEFERRED_REFUSAL_ARRIVAL (R77): refusal k arrives: the record of a discarded store, and the pending trap. -/
def execDeferredRefusalArrival (s : State) : Out :=
  let c := s.cur.core
  match (s.core c).ms.refusals[s.cur.k]? with
  | none => .next s
  | some (r, rec_) =>
    let s' := s.modCore c fun k => { k with ms.refusals := k.ms.refusals.eraseIdx s.cur.k, reports := k.reports ++ [r] }
    .next (if rec_ then s'.addRec { coreRec c 0x05 2 1 (r.trap.addr &&& 0x3FFFFF) 0 (s.core c).domain with cause := r.trap.code, detail := r.trap.detail } else s')

/-- The result of an atomic with return reaches the pending value with its identifier. -/
def State.amoResult (s : State) (c : CoreId) (id : Nat) (v : W64) : State :=
  s.modCore c fun k => { k with ms.pend := k.ms.pend.map fun (p : Pend) => if p.id = id then { p with got := some (.w v) } else p }

/-- The unit that executes a global atomic (R120, R406). -/
def amoUnit : List Seg → Nat
  | g :: _ => if g.cls = 3 then 8 else 7
  | [] => 7

/-- What an atomic that met a bad unit leaves (R121, R400): a report and its record for a form with return; for the others a deferred record
of the agent that executes it: the home core or the memory of this device, `at_` the core it names. -/
def State.amoBad (s : State) (c : CoreId) (w : Comm) (ret : Bool) (unit : Nat) (at_ : Option CoreId) (addr : W64) : State :=
  if ret then (s.modCore c fun k => k.report w.org cPoison 6 w.ea).addRec (consumeRec c (s.core c) unit addr)
  else s.addRec { event := 0x02, sev := 2, unit := unit, addr := addr, synd := Config.syndrome unit addr.toNat, core := at_.map Fin.val,
                  domain := (s.core c).domain }

/-- An atomic at place i of the commit order, at its point (R120, R121, R77). A global one whose line the L1 still held leaves first; one whose
Glade line has been freed faults or is dropped (R92). -/
def State.performAmo (s : State) (c : CoreId) (i : Nat) (w : Comm) (op : AmoOp) (b d : W64) (ret : Bool) : State :=
  match w.place with
  | .rem h o =>
    let s := s.dropComm c i
    match s.remoteRefusal c h 2 o op.width true with
    | some t => s.refuse c w t (!ret)
    | none =>
      let (r, s) := s.amoBank f32Add h o op b d
      if r.bad then s.amoBad c w ret 1 (some h) (BitVec.ofNat 64 o) else if ret then s.amoResult c w.id r.old else s
  | .glob segs =>
    let (left, s) := if w.left then (true, s) else s.amoLeaves c ((s.core c).ms.comm.take i) segs
    if !left then s
    else
      let s := s.dropComm c i
      if segs.any fun g => g.home = 14 && !s.mem.gladeLine (g.pa / 128) then
        if ret then s.modCore c fun k => k.report w.org cXlglade (xlDetail .atomic (k.levelOf w.ea)) w.ea else s
      else
        let (r, s) := s.amoGlobal c f32Add segs op b d
        if !r.bad then (if ret then s.amoResult c w.id r.old else s)
        else if !ret && segs.any (fun g => 1 ≤ g.home && g.home ≤ 13) then s
        else s.amoBad c w ret (amoUnit segs) none (segAddr segs)
  | _ => s

/-- ATOMIC_PERFORM (R120): the atomic at place k of the core's commit order. -/
def execAtomicPerform (s : State) : Out :=
  let c := s.cur.core
  let i := s.cur.k
  let k := s.core c
  match k.ms.comm[i]? with
  | none => .next s
  | some w => match w.what with
    | .amo op b d => .next (if k.accessReady c i w then s.performAmo c i w op b d false else s)
    | .signal (.amo op b d _) => .next (if k.accessReady c i w && k.signalReady i then s.performAmo c i w op b d true else s)
    | _ => .next s

/-- A remote load at its home core (R77): the refusal is reported before the release of its interval. -/
def State.remoteLoadArrives (s : State) (c : CoreId) (p : Pend) : State :=
  match p.got, p.place with
  | none, .rem h o => match s.remoteRefusal c h 0 o p.n false with
    | some t => s.modCore c fun k =>
        { k.report p.org t.1 t.2 p.ea with ms.pend := k.ms.pend.filter fun q => q.id ≠ p.id }
    | none => s.performLoad c p
  | _, _ => s

/-- One word of a remote row load at its home core ahead of the rest (R54); a refusal is that of the whole access. -/
def State.remoteWordArrives (s : State) (c : CoreId) (p : Pend) (i : Nat) : State :=
  match p.place with
  | .rem h o => if (s.remoteRefusal c h 0 o p.n false).isSome then s.remoteLoadArrives c p else s.captureWord c p i
  | _ => s

/-- REMOTE_ACCESS_ARRIVAL (R74, R77): with `flag`, the remote load k of the core, or where `v` is not 0 one word of it; else the remote store
or atomic at place k of its commit order. -/
def execRemoteAccessArrival (s : State) : Out :=
  let c := s.cur.core
  let i := s.cur.k
  let k := s.core c
  if s.cur.flag then
    match k.ms.pend[i]? with
    | some p => .next (if s.cur.v ≠ 0 && p.got.isNone then s.remoteWordArrives c p ((s.cur.v.toNat - 1) % 64) else s.remoteLoadArrives c p)
    | none => .next s
  else
    match k.ms.comm[i]? with
    | none => .next s
    | some w => match w.place, w.what with
      | .rem h o, .store bs p =>
        .next (if !k.accessReady c i w then s else
          let s := s.dropComm c i
          match s.remoteRefusal c h 1 o bs.length true with
          | some t => s.refuse c w t true
          | none => s.modCore h fun k => k.storeLocal o bs p)
      | .rem .., .amo op b d => .next (if k.accessReady c i w then s.performAmo c i w op b d false else s)
      | .rem .., .signal (.amo op b d _) => .next (if k.accessReady c i w && k.signalReady i then s.performAmo c i w op b d true else s)
      | _, _ => .next s

/-- GLOBAL_STORE_ARRIVAL (R104): the global store at place k of the core's commit order is performed at its point; one that waits for the L1
enters it where it can (R118). -/
def execGlobalStoreArrival (s : State) : Out :=
  let c := s.cur.core
  let i := s.cur.k
  let k := s.core c
  match k.ms.comm[i]? with
  | none => .next s
  | some w => match w.place, w.what with
    | .glob segs, .store bs p =>
      .next (match segs with
        | g :: _ =>
          if w.isL1 then
            if k.l1Takes (k.ms.comm.take i) g.home (g.pa / 128) then (s.dropComm c i).l1Store c w.id g g.pa bs p else s
          else if !k.accessReady c i w then s
          else
            let s := (s.dropComm c i).modCore c fun k => k.dropExpanded segs
            let (m, rs) := s.mem.writeSegs segs bs p
            { s with mem := m }.addRecs (byCore c (s.core c).domain rs)
        | [] => s.dropComm c i)
    | _, _ => .next s

/-! ### Buffer handles (R73, R75, R76) -/

/-- R73: the handle of a descriptor. -/
def handleWord (h : CoreId) (i : Nat) (d : Desc) : W64 := BitVec.ofNat 64 (h.val * 65536 + d.gen.toNat * 256 + i)

/-- R73: the home core and index that a live handle names. -/
def State.liveHandle (s : State) (h : W64) : Option (CoreId × Nat) :=
  let home := coreId (bits h 16 6)
  let i := bits h 0 8
  let d := (s.core home).desc i
  if bits h 22 42 = 0 && d.st ≠ 0 && d.gen.toNat = bits h 8 8 then some (home, i) else none

/-- The refusal of a handle operation: `SCRATCHOWN` with the state found and KIND 7 (R75, R78). -/
def handleRefused {β : Type} (st : Nat) : Except (Byte × Byte × W64) β := .error (cScratchown, ownDetail st 7 false, 0)

/-- R75: what a handle operation of core c does: the home core, the descriptor's index and its new content; or its refusal. -/
def State.handleTry (s : State) (c : CoreId) (op : HandleOp) (a b : W64) : Except (Byte × Byte × W64) (CoreId × Nat × Desc) :=
  match op with
  | .make =>
    let k := s.core c
    let first := bits b 0 10
    let n := bits b 16 10 + 1
    if first + n > 1024 then handleRefused 0
    else match (List.range n).find? fun i => k.granule (first + i) ≠ 0 with
      | some i => handleRefused (k.desc (k.granule (first + i) - 256)).st
      | none => match (List.range 256).find? fun i => (k.desc i).st = 0 with
        | none => handleRefused 0
        | some i => .ok (c, i, { st := 1, hcore := c.val, gen := (k.desc i).gen, first := first, ngm1 := n - 1, mask := 0 })
  | op =>
    let h := match op with | .reclaim => b | .free => b | _ => a
    match s.liveHandle h with
    | none => handleRefused 0
    | some (home, i) =>
      let d := (s.core home).desc i
      if d.hcore ≠ c.val then handleRefused d.st
      else match op, d.st with
        | .give, 1 =>
          let tgt := coreId b.toNat
          if (s.core c).eng.gangMask.getLsbD tgt.val && (s.core tgt).task.isSome then .ok (home, i, { d with hcore := tgt.val })
          else .error (0x0B, 0, b)
        | .lend, 1 => .ok (home, i, { d with st := 2, mask := b })
        | .pool, 1 => .ok (home, i, { d with st := 3, mask := b })
        | .reclaim, _ => .ok (home, i, { d with st := 1, mask := 0 })
        | .free, 1 => if home = c then .ok (home, i, { gen := d.gen + 1 }) else handleRefused d.st
        | _, st => handleRefused st

/-- The granules of a descriptor enter its buffer, or leave it when it is Free (R72). -/
def Core.putBuffer (k : Core) (i : Nat) (old new : Desc) : Core :=
  let k := if new.st = 0 && old.st ≠ 0 then (List.range (old.ngm1 + 1)).foldl (fun k g => k.setGranule (old.first + g) 0) k else k
  let k := if new.st ≠ 0 && old.st = 0 then (List.range (new.ngm1 + 1)).foldl (fun k g => k.setGranule (new.first + g) (i + 256)) k else k
  k.setDesc i new

/-- HANDLE_OPERATION_CHECK (R76, R220): the handle operation k among the effects of the waiting release; a refusal is reported and
cancels the release. It sees the core's earlier handle operations performed (DEDUCED, log 33). -/
def execHandleOperationCheck (s : State) : Out :=
  let c := s.cur.core
  match (s.core c).ms.releasing with
  | none => .next s
  | some r => match r.effs[s.cur.k]? with
    | none => .next s
    | some e => match e.what with
      | .signal (.handle op a b port false) => .next (if (s.core c).ms.comm.any Comm.isHandle then s else match s.handleTry c op a b with
        | .error t => if (s.core c).reports.any (fun x => x.seq = e.org.seq && x.trap.slot = BitVec.ofNat 4 e.org.slot) then s
            else s.modCore c fun k => k.report e.org t.1 t.2.1 t.2.2
        | .ok _ => s.modCore c fun k => { k with ms.releasing := some { r with effs := r.effs.set s.cur.k { e with what := .signal (.handle op a b port true) } } })
      | _ => .next s

/-- HANDLE_OPERATION_PERFORM (R76): the handle operation at place k of the commit order, after every remote access that the core
committed before it to that home core. Where the owner has ended since the check, it is discarded, recorded and reported. -/
def execHandleOperationPerform (s : State) : Out :=
  let c := s.cur.core
  let i := s.cur.k
  let k := s.core c
  match k.ms.comm[i]? with
  | none => .next s
  | some w => match w.what with
    | .signal (.handle op a b _ _) =>
      let home := match op with | .make => c | .reclaim => coreId (bits b 16 6) | .free => coreId (bits b 16 6) | _ => coreId (bits a 16 6)
      let earlier := (k.ms.comm.take i).any fun d => match d.place with | .rem h _ => h = home && d.isAccess | _ => false
      if !k.signalReady i || earlier then .next s
      else
        let s' := s.dropComm c i
        let lost := fun (s : State) => (s.modCore c fun k => k.report w.org cScratchown (ownDetail 0 7 true) 0).addRec
          { coreRec c 0x05 2 1 0 0 k.domain with cause := cScratchown, detail := ownDetail 0 7 true }
        .next (match s.handleTry c op a b with
          | .ok (h, x, d) =>
            let s' := s'.modCore h fun k => k.putBuffer x (k.desc x) d
            if op = .make then s'.amoResult c w.id (handleWord h x d) else s'
          | .error t =>
            if t.1 = 0x0B then match s.liveHandle a with
              | some (h, x) => s'.modCore h fun k => k.setDesc x { k.desc x with st := 1, hcore := h.val, mask := 0 }
              | none => lost s'
            else lost s')
    | _ => .next s

end Sys2Proof.Machine
end

