-- ==== Sys2Proof/Machine/Copy.lean ====
section
/-! DEFINITION. Copy: copy packets and queues (spec R132 to R147), Etben blocks on the move (R150 to R152) and the Carafe events of an
engine (R155). Units of a copy may be read and written ahead of its last step (R126; log 21). -/

namespace Sys2Proof.Machine

open Sys2Proof

/-! ### Packets (R132, R133) -/

structure Packet where
  tag : Nat
  op : Nat
  ord : Bool
  cmp : Bool
  exp : Bool
  caf : Nat
  src : W64
  dst : W64
  nz : Nat
  ny : Nat
  nx : Nat
  ssz : Int
  ssy : Int
  dsz : Int
  dsy : Int
  waits : W64
  rec_ : W64
  deriving DecidableEq, Repr

def Packet.ofWords (w : List W64) : Packet :=
  let g := fun i lo n => bits (w.getD i 0) lo n
  { tag := g 0 32 32, op := g 0 24 8, ord := g 0 18 1 = 1, cmp := g 0 17 1 = 1, exp := g 0 16 1 = 1, caf := g 0 8 8, src := w.getD 1 0, dst := w.getD 2 0, nz := g 3 44 20 + 1, ny := g 3 24 20 + 1, nx := g 3 0 24, ssz := sint 32 (g 4 32 32), ssy := sint 32 (g 4 0 32), dsz := sint 32 (g 5 32 32), dsy := sint 32 (g 5 0 32), waits := w.getD 6 0, rec_ := w.getD 7 0 }

/-- A tagged address (R32): the space and the address in it; `none` where its format is broken. -/
def tagged (a : W64) : Option (Bool × Nat) :=
  match bits a 60 4 with
  | 0 => if bits a 56 4 = 0 then some (false, bits a 0 56) else none
  | 1 => if bits a 29 31 = 0 then some (true, bits a 0 29) else none
  | _ => none

/-- The least and greatest byte of a footprint relative to its base (R134). -/
def Packet.extent (p : Packet) (sz sy : Int) : Int × Int :=
  let a := sz * ((p.nz : Int) - 1)
  let b := sy * ((p.ny : Int) - 1)
  (min 0 a + min 0 b, max 0 a + max 0 b + p.nx - 1)

/-- R134: a footprint on a virtual side leaves the space. -/
def Packet.leaves (p : Packet) (a : Nat) (sz sy : Int) : Bool :=
  let (lo, hi) := p.extent sz sy
  (a : Int) + lo < 0 || (a : Int) + hi > 0xFFFFFFFFFFFFFF

/-- Whether a packet reads a source and writes a destination of its own. -/
def Packet.hasSrc (p : Packet) : Bool := p.op = 1 || p.op = 3

/-- R134, R135: the refusal of a packet at acceptance: status and detail. `queued` packets hold no WAITS; `core` is the core of the
engine. -/
def State.packetRefusal (s : State) (core : Option CoreId) (queued : Bool) (w : List W64) : Option (Byte × Byte) :=
  let p := Packet.ofWords w
  let w0 := w.getD 0 0
  let pkt : Option (Byte × Byte) := some (0x01, 0)
  let slotOf := fun (c : CoreId) => (s.core c).eng.carafes.get ⟨p.caf % 16, Nat.mod_lt _ (by decide)⟩
  if bits w0 19 5 ≠ 0 || bits w0 0 8 ≠ 0 || p.op = 0 || p.op > 4 || (p.op ≠ 3 && p.caf ≠ 0) || (p.op = 3 && p.caf ≥ 16) || (queued && p.waits ≠ 0) ||
      (p.op = 3 && (core.isNone || bits p.dst 23 41 ≠ 0)) then pkt
  else if p.hasSrc && (tagged p.src).isNone then some (0x16, preDetail .copySrc)
  else if p.op ≠ 3 && (tagged p.dst).isNone then some (0x16, preDetail .copyDst)
  else if p.rec_ ≠ 0 && (tagged p.rec_).isNone then some (0x16, preDetail .copyDst)
  else
    let inactive := p.op = 3 && match core with | some c => !(slotOf c).act | none => true
    if inactive then some (0x07, 0)
    else if p.nx = 0 || p.op = 4 then none
    else
      let srcBad := p.hasSrc && match tagged p.src with | some (false, a) => p.leaves a p.ssz p.ssy | _ => false
      let dstBad := p.op ≠ 3 && match tagged p.dst with | some (false, a) => p.leaves a p.dsz p.dsy | _ => false
      let slotBad := p.op = 3 && match core with
        | some c => let (lo, hi) := p.extent p.dsz p.dsy
          (p.dst.toNat : Int) + lo < 0 || (p.dst.toNat : Int) + hi ≥ (slotOf c).slotsz * 512
        | none => true
      if srcBad || dstBad || slotBad then pkt else none

/-! ### Reading and writing a piece -/

/-- A side of a running packet: scratch or virtual space, with its base. -/
structure CopySide where
  scratch : Bool
  base : Int
  deriving DecidableEq, Repr

/-- R134: the address of linear index i on a side. -/
def Packet.addr (p : Packet) (base sz sy : Int) (i : Nat) : Int :=
  let nx := max 1 p.nx
  base + ((i / nx / p.ny : Nat) : Int) * sz + ((i / nx % p.ny : Nat) : Int) * sy + ((i % nx : Nat) : Int)

/-- A scratch access of an engine (R31, R53, R74): its home core and offset, or its status and detail. KIND is 4 or 5. -/
def State.engScratch (s : State) (who : Option CoreId) (kind : Nat) (a : Int) (n : Nat) : Except (Byte × Byte) (CoreId × Nat) :=
  let x := a.toNat
  let off := x % 2 ^ 23
  let home := coreId (x / 2 ^ 23)
  if a < 0 || x ≥ 2 ^ 29 || off + n > 0x400000 || s.absent home then .error (cScratchaddr, BitVec.ofNat 8 (kind * 8))
  else match ownRefuses home (s.core home) who (kind - 4) off n with
    | some o => .error (cScratchown, ownDetail ((s.core home).ownState o) kind false)
    | none => .ok (home, off)

/-- A piece after its checks: where it lies and how long it is. -/
inductive PieceAt where
  | bank (h : CoreId) (off : Nat)
  | seg (g : Seg)
  deriving DecidableEq, Repr

/-- The checks of a piece on one side (R143, R144): the piece, shortened before a byte that fails beyond its first. -/
def State.copyPiece (s : State) (who : Option CoreId) (dom : Nat) (kind : AccKind) (side : CopySide) (a : Int) (n : Nat) :
    Except (Byte × Byte) (PieceAt × Nat) × State :=
  if side.scratch then
    match s.engScratch who kind.code a n with
    | .error e => (.error e, s)
    | .ok (h, o) => (.ok (.bank h o, n), s)
  else
    match s.transX dom kind a.toNat n with
    | (.ok [g], s) => (.ok (.seg g, n), s)
    | (.fault c d x, s) =>
      let l := x.toNat - a.toNat
      if l = 0 then (.error (c, d), s)
      else match s.transX dom kind a.toNat l with
        | (.ok [g], s) => (.ok (.seg g, l), s)
        | (_, s) => (.error (c, d), s)
    | (_, s) => (.error (cXlinval, xlDetail kind 0), s)

/-- Class 4 pages are not plain (R151). -/
def PieceAt.isEtben : PieceAt → Bool
  | .seg g => g.cls = 4
  | .bank .. => false

def PieceAt.isBank : PieceAt → Bool
  | .bank .. => true
  | .seg _ => false

/-- What a source piece delivers: stored or plain bytes with their marks, and whether a class 4 slot is stored encoded. -/
structure SrcBytes where
  bytes : List (Byte × Bool)
  encoded : Bool
  deriving DecidableEq, Repr

/-- Bytes of a class 4 block with the marks of its four 64-byte parts. -/
def withMarks (bs : List Byte) (m : BitVec 4) : List (Byte × Bool) := (bs.zip (List.range bs.length)).map fun p => (p.1, m.getLsbD (p.2 / 64))

/-- The 64-byte parts of a block that hold a marked byte. -/
def blockMarks (bs : List (Byte × Bool)) : BitVec 4 := markMask ((List.range 4).map fun i => ((bs.drop (64 * i)).take 64).any Prod.snd)

/-- The canonical encoding of a block (R150); one with marked parts is stored raw, so that only they are poisoned (R145; log 62). -/
def encodeMarked (bs : List Byte) (m : BitVec 4) : List (Byte × Bool) × Bool :=
  if m ≠ 0 then (withMarks bs m, false) else let (st, enc) := etbEncode bs; (withMarks st 0, enc)

/-- R153: whether Etben blocks cross the link of a home as stored: towards the peer where it advertised, from it where this port did. Home 0 is no
link. -/
def State.linkHolds (s : State) (home : Nat) (sent : Bool) : Bool :=
  home = 0 || home > 12 || ((s.hk.linkstat.toList.getD (home - 1) 0).getLsbD (if sent then 2 else 1))

/-- The bytes of a piece as stored; a class 4 slot is read whole. From a link without Etben blocks the logical block comes, encoded anew (R153). -/
def State.readPieceAt (s : State) (dom : Nat) (g : PieceAt) (n : Nat) : SrcBytes × State :=
  match g with
  | .bank h o => let r := s.bankRead h o n; (⟨r.1, false⟩, r.2)
  | .seg g =>
    if g.cls = 4 then
      let r := s.mem.slotBytes g.home g.key (g.pa / 256)
      let s' := { s with mem := r.mem }.addRecs (inDomain dom r.recs)
      if s.linkHolds g.home false then (⟨withMarks r.bytes r.bad, r.encoded⟩, s')
      else let (st, enc) := encodeMarked r.logical.1 r.logical.2; (⟨st, enc⟩, s')
    else
      (pieces 64 (n + 1) g.pa n).foldl (fun (acc : SrcBytes × State) p =>
        let r := acc.2.mem.readAt g.home g.key g.cls p.1 p.2
        (⟨acc.1.bytes ++ r.bytes.map fun b => (b, r.bad), false⟩, { acc.2 with mem := r.mem }.addRecs (inDomain dom r.recs))) (⟨[], false⟩, s)

/-- R145: write bytes with their marks to a plain destination: a marked byte poisons the 64-byte block, or the bank word, that takes it. -/
def State.writePieceAt (s : State) (dom : Nat) (g : PieceAt) (bs : List (Byte × Bool)) : State :=
  match g with
  | .bank h o =>
    (pieces 8 (bs.length + 1) o bs.length).foldl (fun s p =>
      let b := (bs.drop (p.1 - o)).take p.2
      s.modCore h fun k => k.storeLocal p.1 (b.map Prod.fst) (b.any Prod.snd)) s
  | .seg g =>
    (pieces 64 (bs.length + 1) g.pa bs.length).foldl (fun s p =>
      let b := (bs.drop (p.1 - g.pa)).take p.2
      let (m, rs) := s.mem.writeAt g.home g.key g.cls p.1 (b.map Prod.fst) (b.any Prod.snd)
      { s with mem := m }.addRecs (inDomain dom rs)) s

/-- A class 4 destination: the stored bytes of a slot; over a link without Etben blocks the logical ones, which the peer encodes (R153). -/
def State.writeSlotAt (s : State) (dom : Nat) (g : Seg) (logical stored : List (Byte × Bool)) (encoded : Bool) : State :=
  let (st, enc) := if s.linkHolds g.home true then (stored, encoded) else encodeMarked (logical.map Prod.fst) (blockMarks logical)
  let (m, rs) := s.mem.writeSlot g.home g.key (g.pa / 256) (st.map Prod.fst) enc (blockMarks st)
  { s with mem := m }.addRecs (inDomain dom rs)

/-- R152: the header of a slot in an image, and its bytes with zeros beyond its sectors. -/
def imageSlot (stored : List (Byte × Bool)) (encoded : Bool) : Nat × List (Byte × Bool) :=
  if encoded then
    let h := leNat ((stored.take 4).map Prod.fst)
    let n := 32 * (nb h 4 3 + 1)
    (h, stored.take n ++ List.replicate (256 - n) (0, false))
  else (0x70, stored)

/-- Where block j of an image of n blocks goes in scratch: its header, with the padding after the last one, and its slot (R152), or the refusal of
one of them. -/
def State.imagePlaces (s : State) (who : Option CoreId) (base : Int) (j n : Nat) : Except (Byte × Byte) ((CoreId × Nat) × Nat × CoreId × Nat) :=
  let hl := (4 * n + 63) / 64 * 64
  let hb := 4 + if j + 1 = n then hl - 4 * n else 0
  match s.engScratch who 5 (base + (4 * j : Nat)) hb, s.engScratch who 5 (base + (hl + 256 * j : Nat)) 256 with
  | .error e, _ => .error e
  | _, .error e => .error e
  | .ok h, .ok d => .ok (h, hb, d)

/-- R152: some bank words of block j of an image of n blocks, given as runs of its 256 bytes: with the i-th word of its slot goes the i-th of its
header and padding (R54). DESIGN CHOICE (log 67): the padding is zero. -/
def State.writeImage (s : State) (who : Option CoreId) (dom : Nat) (base : Int) (j n : Nat) (stored : List (Byte × Bool)) (encoded : Bool)
    (runs : List (Nat × Nat)) : State :=
  match s.imagePlaces who base j n with
  | .error _ => s
  | .ok ((c, o), hb, (d, q)) =>
    let (h, body) := imageSlot stored encoded
    let head := leBytes 4 h ++ List.replicate (hb - 4) (0 : Byte)
    let hs := pieces 8 (hb + 1) o hb
    runs.foldl (fun s r =>
      let s := s.writePieceAt dom (.bank d (q + r.1)) ((body.drop r.1).take r.2)
      (List.range r.2).foldl (fun s i => match (if (r.1 + i) % 8 = 0 then hs[(r.1 + i) / 8]? else none) with
        | some p => s.writePieceAt dom (.bank c p.1) (((head.drop (p.1 - o)).take p.2).map fun b => (b, false))
        | none => s) s) s

/-- R136: a byte that the packet itself may have overwritten is the old one or the new one, by a free choice. -/
def mixOld (ctr i : Nat) (old new : List (Byte × Bool)) : List (Byte × Bool) :=
  ((old.zip new).zip (List.range new.length)).map fun p => if pickOf ctr (i + p.2) 2 = 0 then p.1.1 else p.1.2

/-- R136 within one run: its bytes are written upwards; where the source of one lies `d` before it in the destination itself, it may take what was
written there. -/
def chainUp (d : Nat) (free : Nat → Bool) (bs : List (Byte × Bool)) : List (Byte × Bool) :=
  (bs.zip (List.range bs.length)).foldl (fun acc p => acc ++ [if d ≤ p.2 && free p.2 then acc.getD (p.2 - d) p.1 else p.1]) []

/-- How far a destination lies above its source where both are in one bank or home. -/
def PieceAt.above : PieceAt → PieceAt → Int
  | .bank h o, .bank k q => if h = k then (q : Int) - o else 0
  | .seg g, .seg x => if g.home = x.home then (x.pa : Int) - g.pa else 0
  | _, _ => 0

/-- The bytes that a run takes: each from its source or, by a free choice, from the byte of the run that lies on that source; bytes read ahead stay
as they were read. -/
def chained (src dst : PieceAt) (free : Nat → Bool) (bs : List (Byte × Bool)) : List (Byte × Bool) :=
  let d := src.above dst
  if d > 0 then chainUp d.toNat free bs
  else if d < 0 then (chainUp d.natAbs (fun i => free (bs.length - 1 - i)) bs.reverse).reverse
  else bs

/-! ### A copy (R143 to R146) -/

/-- What a packet runs with: the engine's task, its domain, its sides, the end of its Carafe slot, the state before this step, and what the entry
read ahead. -/
structure CopyRun where
  who : Option CoreId
  dom : Nat
  p : Packet
  src : CopySide
  dst : CopySide
  slotEnd : Option Int
  start : State
  ctr : Nat
  buf : SMap (Option (Byte × Bool × Bool))

/-- Whether the packet keeps every row base and NX at multiples of 256 (R151). -/
def CopyRun.aligned (r : CopyRun) : Bool :=
  let ok := fun (b sz sy : Int) => b % 256 = 0 && (r.p.ny = 1 || sy % 256 = 0) && (r.p.nz = 1 || sz % 256 = 0)
  r.p.nx % 256 = 0 && (!r.p.hasSrc || ok r.src.base r.p.ssz r.p.ssy) && ok r.dst.base r.p.dsz r.p.dsy

/-- The free value of the second choice for byte i. -/
def CopyRun.second (r : CopyRun) (i : Nat) : Nat := pickOf (r.ctr + (r.p.nz * r.p.ny * r.p.nx / 16384 + 1)) i 2

def CopyRun.srcAddr (r : CopyRun) (i : Nat) : Int := r.p.addr r.src.base r.p.ssz r.p.ssy i
def CopyRun.dstAddr (r : CopyRun) (i : Nat) : Int := r.p.addr r.dst.base r.p.dsz r.p.dsy i

/-- A piece whose checks passed: its source, its destination, whether it belongs to an image, and its length. -/
structure CopyAt where
  src : Option PieceAt
  dst : PieceAt
  image : Bool
  n : Nat
  deriving DecidableEq, Repr

/-- A run of a piece. -/
def PieceAt.sub : PieceAt → Nat → Nat → PieceAt
  | .bank h o, i, _ => .bank h (o + i)
  | .seg g, i, n => .seg { g with pa := g.pa + i, len := n }

def CopyAt.sub (a : CopyAt) (i n : Nat) : CopyAt := { a with src := a.src.map fun g => g.sub i n, dst := a.dst.sub i n, n := n }

/-- Whether neither side is Etben: such a piece moves by bank words and bytes, another one as whole blocks. -/
def CopyAt.plain (a : CopyAt) : Bool := !(a.src.any PieceAt.isEtben) && !a.dst.isEtben && !a.image

inductive CheckRes where
  | fail (c d : Byte) (s : State)
  | refused (s : State)
  | ok (a : CopyAt) (s : State)

/-- The checks of the piece at linear index i, before `stop` (R151): the first row of the table that applies decides. DESIGN CHOICE (log 68):
`CMP` without a row of the table, towards a plain page or with FILL to scratch, moves plain bytes. -/
def CopyRun.check (r : CopyRun) (s : State) (i stop : Nat) : CheckRes :=
  let p := r.p
  let cut := fun (a : Int) => 256 - (a % 256).toNat
  let n := min (stop - i) (min (p.nx - i % p.nx) (min (cut (r.dstAddr i)) (if p.hasSrc then cut (r.srcAddr i) else 256)))
  let srcRes := if p.hasSrc then (let x := s.copyPiece r.who r.dom .copySrc r.src (r.srcAddr i) n; (some x.1, x.2)) else (none, s)
  match srcRes with
  | (some (.error e), s) => .fail e.1 e.2 s
  | (src, s) =>
    let (from_, n) := match src with | some (.ok (g, l)) => (some g, l) | _ => (none, n)
    let etbSrc := from_.any PieceAt.isEtben
    let image := r.dst.scratch && ((etbSrc && !p.exp) || (p.cmp && from_.isSome && !etbSrc))
    let dstRes := if image then (.ok (PieceAt.bank 0 0, n), s) else s.copyPiece r.who r.dom .copyDst r.dst (r.dstAddr i) n
    match dstRes with
    | (.error e, s) => .fail e.1 e.2 s
    | (.ok (to_, l), s) =>
      let etbDst := to_.isEtben
      if (etbSrc || etbDst || image) && !r.aligned then .refused s
      else if image && (p.ny ≠ 1 || p.nz ≠ 1) then .refused s
      else if image && r.slotEnd.any (fun e => r.dst.base + (((4 * (p.nx / 256) + 63) / 64 * 64 + p.nx : Nat) : Int) > e) then .refused s
      else if (etbSrc && !etbDst && !to_.isBank && !p.exp) || (etbSrc && etbDst && p.exp ≠ p.cmp) || (!etbSrc && etbDst && !p.cmp) then
        .fail 0x02 0 s
      else match (if image then s.imagePlaces r.who r.dst.base (i / 256) (p.nx / 256) else .ok ((0, 0), 0, (0, 0))) with
        | .error e => .fail e.1 e.2 s
        | .ok _ => .ok ⟨from_, to_, image, l⟩ s

/-- The pieces of a packet up to its first failure, in ascending linear index, and how the checks ended. -/
structure Checked where
  pieces : List (Nat × Nat)
  plain : Bool
  status : Byte
  detail : Byte
  stop : Nat
  state : State

def CopyRun.checks (r : CopyRun) (total : Nat) : Nat → Checked → Checked
  | 0, k => k
  | fuel + 1, k =>
    if k.stop ≥ total then k
    else match r.check k.state k.stop total with
      | .fail c d s => { k with status := c, detail := d, state := s }
      | .refused s => { k with status := 0x01, stop := 0, pieces := [], state := s }
      | .ok a s => r.checks total fuel { k with pieces := k.pieces ++ [(k.stop, a.n)], plain := k.plain && a.plain, stop := k.stop + max 1 a.n, state := s }

/-- What the source of a piece delivers: what was read ahead; else what it holds now or, where the packet may have overwritten it in this step,
held before (R136). A slot is one unit (R102). -/
def CopyRun.sourceBytes (r : CopyRun) (s : State) (i : Nat) (a : CopyAt) : SrcBytes × State :=
  match a.src with
  | none => (⟨(List.range a.n).map fun j => (leBytes 8 r.p.src.toNat |>.getD ((i + j) % 8) 0, false), false⟩, s)
  | some g =>
    let (now, s) := s.readPieceAt r.dom g a.n
    let old := (r.start.readPieceAt r.dom g a.n).1
    if g.isEtben then
      match mrd none r.buf i with
      | some (_, _, enc) => (⟨(List.range 256).map fun j => ((mrd none r.buf (i + j)).map fun x => (x.1, x.2.1)).getD (0, false), enc⟩, s)
      | none => (if pickOf r.ctr i 2 = 0 then old else now, s)
    else
      let mixed := mixOld r.ctr i old.bytes now.bytes
      (⟨(mixed.zip (List.range a.n)).map fun q => ((mrd none r.buf (i + q.2)).map fun x => (x.1, x.2.1)).getD q.1, false⟩, s)

/-- What moving a piece answers: an invalid block, or whether it met poison. -/
inductive MoveRes where
  | fail (c d : Byte) (s : State)
  | done (poison : Bool) (s : State)

/-- Whether what a class 4 source delivered does not decode, poison not being the cause (R148). -/
def SrcBytes.invalid (x : SrcBytes) : Bool := !(x.bytes.any Prod.snd) && (etbDecode x.encoded (x.bytes.map Prod.fst)).isNone

/-- The logical bytes of a class 4 block, with their marks. -/
def SrcBytes.logical (x : SrcBytes) (m : Mem) : List (Byte × Bool) :=
  let l := (⟨x.bytes.map Prod.fst, x.encoded, blockMarks x.bytes, m, []⟩ : SlotRead).logical
  withMarks l.1 l.2

/-- Some runs of bytes written from a piece of a destination; a bank takes each run alone (R54). -/
def State.writeRuns (s : State) (dom : Nat) (g : PieceAt) (bs : List (Byte × Bool)) (runs : List (Nat × Nat)) : State :=
  runs.foldl (fun s r => s.writePieceAt dom (g.sub r.1 r.2) ((bs.drop r.1).take r.2)) s

/-- The move of runs of a checked plain piece at linear index i (R136, R145). -/
def CopyRun.movePlain (r : CopyRun) (s : State) (i : Nat) (a : CopyAt) (runs : List (Nat × Nat)) : Bool × State :=
  runs.foldl (fun acc q =>
    let b := a.sub q.1 q.2
    let (raw, s) := r.sourceBytes acc.2 (i + q.1) b
    let free := fun j => (mrd none r.buf (i + q.1 + j)).isNone && r.second (i + q.1 + j) = 1
    let bs := match b.src with | some g => chained g b.dst free raw.bytes | none => raw.bytes
    (acc.1 || raw.bytes.any Prod.snd, s.writePieceAt r.dom b.dst bs)) (false, s)

/-- The move of runs of a checked piece at linear index i that is not plain (R145, R151); a class 4 slot is written whole. A block that does not
decode fails with `COPYETB`, or is marked whole where poison is the cause. -/
def CopyRun.moveBlock (r : CopyRun) (s : State) (i : Nat) (a : CopyAt) (runs : List (Nat × Nat)) : MoveRes :=
  let (raw, s) := r.sourceBytes s i a
  let etbSrc := a.src.any PieceAt.isEtben
  let poison := raw.bytes.any Prod.snd
  let logical := if etbSrc then raw.logical s.mem else raw.bytes
  if etbSrc && raw.invalid then .fail 0x03 0 s
  else if a.image then
    let (st, enc) := if etbSrc then (raw.bytes, raw.encoded) else encodeMarked (logical.map Prod.fst) (blockMarks logical)
    .done poison (s.writeImage r.who r.dom r.dst.base (i / 256) (r.p.nx / 256) st enc runs)
  else
    let part := if etbSrc then (logical.drop (r.srcAddr i % 256).toNat).take a.n else logical
    match a.dst with
    | .seg g =>
      if g.cls = 4 then
        if etbSrc && !r.p.exp then .done poison (s.writeSlotAt r.dom g logical raw.bytes raw.encoded)
        else let (st, enc) := encodeMarked (logical.map Prod.fst) (blockMarks logical); .done poison (s.writeSlotAt r.dom g logical st enc)
      else .done poison (s.writeRuns r.dom a.dst part runs)
    | .bank .. => .done poison (s.writeRuns r.dom a.dst part runs)

/-- The move of runs of a checked piece, each given by its place in the piece. -/
def CopyRun.move (r : CopyRun) (s : State) (i : Nat) (a : CopyAt) (runs : List (Nat × Nat)) : MoveRes :=
  if a.plain then (let x := r.movePlain s i a runs; .done x.1 x.2) else r.moveBlock s i a runs

/-- The runs of wanted indexes in a piece. -/
def wantedRuns (want : Nat → Bool) (i n : Nat) : List (Nat × Nat) :=
  ((List.range n).foldl (fun (acc : List (Nat × Nat)) j =>
    if !want (i + j) then acc
    else match acc with
      | (a, l) :: t => if a + l = i + j then (a, l + 1) :: t else (i + j, 1) :: acc
      | [] => [(i + j, 1)]) []).reverse

/-- Where the moves of a step stand: poison met, and the failure that ended them with its index. -/
structure Moved where
  poison : Bool
  failed : Option (Byte × Byte × Nat)
  state : State

/-- The wanted bytes of checked pieces moved, in the order of the list. A piece is checked again as it moves, since an access is checked as it
arrives (R76); what a check finds only then ends the moves (log 21). -/
def CopyRun.perform (r : CopyRun) (want : Nat → Bool) (l : List (Nat × Nat)) (m : Moved) : Moved :=
  l.foldl (fun m q =>
    let runs := wantedRuns want q.1 q.2
    if m.failed.isSome || runs.isEmpty then m
    else match r.check m.state q.1 (q.1 + q.2) with
      | .ok a s =>
        let here := (runs.filterMap fun x => if x.1 < q.1 + a.n then some (x.1 - q.1, min x.2 (q.1 + a.n - x.1)) else none)
        match r.move s q.1 a here with
        | .done p s =>
          if a.n ≥ q.2 then { m with poison := m.poison || p, state := s }
          else match r.check s (q.1 + a.n) (q.1 + q.2) with
            | .fail c d s => { poison := m.poison || p, failed := some (c, d, q.1 + a.n), state := s }
            | _ => { m with poison := m.poison || p, state := s }
        | .fail c d s => { m with failed := some (c, d, q.1), state := s }
      | .fail c d s => { m with failed := some (c, d, q.1), state := s }
      | .refused s => { m with failed := some (0x01, 0, q.1), state := s }) m

/-- The side of a tagged address. -/
def sideOf (a : W64) : CopySide := match tagged a with | some (b, x) => ⟨b, x⟩ | none => ⟨false, 0⟩

/-- What an entry runs with, and the length of its packet; `none` where it makes no access. -/
def State.copyRun (s : State) (e : CopyEnt) : Option (CopyRun × Nat) :=
  let p := Packet.ofWords e.words
  let total := p.nz * p.ny * p.nx
  if p.op = 4 || total = 0 then none
  else
    let slot := match e.core, e.caf with
      | some c, some (f, i) =>
        let x := (s.core c).eng.carafes.get ⟨f % 16, Nat.mod_lt _ (by decide)⟩
        some (c, ((x.base + i * x.slotsz) * 512 : Nat), ((x.base + (i + 1) * x.slotsz) * 512 : Nat))
      | _, _ => none
    let dst : CopySide := if p.op = 3 then
        match slot with | some (c, a, _) => ⟨true, ((c.val * 2 ^ 23 + a + p.dst.toNat : Nat) : Int)⟩ | none => ⟨true, -1⟩
      else sideOf p.dst
    some ({ who := e.core, dom := e.domain, p := p, src := if p.hasSrc then sideOf p.src else ⟨false, 0⟩, dst := dst, slotEnd := slot.map fun x => ((x.1.val * 2 ^ 23 + x.2.2 : Nat) : Int), start := s, ctr := s.freeCtr, buf := e.buf }, total)

/-- The free choices of one step of a copy of n bytes: two for each byte. -/
def State.bumpCopy (s : State) (n : Nat) : State := { s with freeCtr := s.freeCtr + 2 * (n / 16384 + 1) }

/-- R133 to R146: an entry run to its end: status, detail, byte count. All checks come first (R144, R152); the pieces below the first failure
then move, those of a plain packet upwards or downwards, which no rule fixes (R136). -/
def State.runCopy (s : State) (e : CopyEnt) : Byte × Byte × Nat × State :=
  match s.copyRun e with
  | none => (0, 0, 0, s)
  | some (r, total) =>
    let s := s.bumpCopy total
    let k := r.checks total total ⟨[], true, 0, 0, 0, s⟩
    if k.status = 0x01 then (0x01, 0, 0, k.state)
    else
      let l := if k.plain && pickOf r.ctr total 2 = 1 then k.pieces.reverse else k.pieces
      let m := r.perform (fun i => !e.moved.contains i) l ⟨e.met, none, s⟩
      match m.failed with
      | some (c, d, i) => (c, d, i, m.state)
      | none =>
        if k.status = 0 then (if m.poison then 0x04 else 0, 0, total, m.state)
        else match r.check m.state k.stop total with
          | .fail c d s => (c, d, k.stop, s)
          | _ => (k.status, k.detail, k.stop, m.state)

/-- The unit of a packet that holds linear index i on one side, given its checked pieces, and its piece: a bank word, or the whole block where the
side is a class 4 slot. -/
def CopyRun.unitAt (r : CopyRun) (k : Checked) (s : State) (i : Nat) (src : Bool) : Option ((Nat × Nat) × Nat × Nat) :=
  match k.pieces.find? fun q => q.1 ≤ i && i < q.1 + q.2 with
  | none => none
  | some q => match r.check s q.1 (q.1 + q.2) with
    | .ok a _ =>
      if (if src then a.src.any PieceAt.isEtben else a.dst.isEtben) then some (q, q)
      else
        let at_ := fun (j : Nat) => ((if src then r.srcAddr j else r.dstAddr j) % 8).toNat
        let b := max q.1 (i - min (i % r.p.nx) (at_ i))
        some ((b, min (8 - at_ b) (min (r.p.nx - b % r.p.nx) (q.1 + q.2 - b))), q)
    | _ => none

/-- The source of a part of a checked piece read ahead, where it was not yet (R126). -/
def CopyRun.readInto (r : CopyRun) (q : Nat × Nat) (b n : Nat) (acc : CopyEnt × State) : CopyEnt × State :=
  (wantedRuns (fun j => (mrd none acc.1.buf j).isNone) b n).foldl (fun (acc : CopyEnt × State) x =>
    match r.check acc.2 q.1 (q.1 + q.2) with
    | .ok a s =>
      let y := r.sourceBytes s x.1 (if a.src.any PieceAt.isEtben then a else a.sub (x.1 - q.1) x.2)
      ({ acc.1 with buf := (y.1.bytes.zip (List.range y.1.bytes.length)).foldl (fun m z => mwr none m (x.1 + z.2) (some (z.1.1, z.1.2, y.1.encoded))) acc.1.buf }, y.2)
    | _ => acc) acc

/-- R126: the unit of an entry at linear index i moved ahead of the rest, where every check up to its end passes (R144): the class 4 blocks up to it
are read and decoded first, and a block that is not plain is read whole. -/
def State.moveEarly (s : State) (e : CopyEnt) (i : Nat) : CopyEnt × State :=
  match s.copyRun e with
  | none => (e, s)
  | some (r, total) =>
    let k := r.checks total total ⟨[], true, 0, 0, 0, s⟩
    match r.unitAt k s i false with
    | none => (e, s)
    | some ((b, n), q) =>
      if k.status = 0x01 || b + n > k.stop then (e, s)
      else
        let etb := fun (s : State) (p : Nat × Nat) => match r.check s p.1 (p.1 + p.2) with | .ok a _ => a.src.any PieceAt.isEtben | _ => false
        let plain := match r.check s q.1 (q.1 + q.2) with | .ok a _ => a.plain | _ => true
        let need := (k.pieces.filter fun p => p.1 < q.1 && etb s p) ++ (if plain then [] else [q])
        let (e, s) := need.foldl (fun acc p => r.readInto p p.1 p.2 acc) (e, s.bumpCopy total)
        let r : CopyRun := { r with buf := e.buf, start := s }
        let bad := need.any fun p => etb s p && match r.check s p.1 (p.1 + p.2) with
          | .ok a s => (r.sourceBytes s p.1 a).1.invalid
          | _ => true
        if bad then (e, s)
        else
          let want := fun j => b ≤ j && j < b + n && !e.moved.contains j
          let m := r.perform want k.pieces ⟨e.met, none, s⟩
          if m.failed.isSome then (e, s)
          else ({ e with moved := e.moved ++ (List.range n).map fun j => b + j, met := m.poison }, m.state)

/-- R126: the source unit of an entry at linear index i read ahead of the rest. -/
def State.readEarly (s : State) (e : CopyEnt) (i : Nat) : CopyEnt × State :=
  match s.copyRun e with
  | none => (e, s)
  | some (r, total) =>
    let k := r.checks total total ⟨[], true, 0, 0, 0, s⟩
    match r.unitAt k s i true with
    | none => (e, s)
    | some ((b, n), q) =>
      if !r.p.hasSrc || k.status = 0x01 || b + n > k.stop then (e, s) else r.readInto q b n (e, s.bumpCopy total)

/-! ### Completion -/

/-- R147: a word of a 16-byte record at a tagged address; the cause where its own write fails. -/
def State.writeRecordWord (s : State) (who : Option CoreId) (dom : Nat) (a : W64) (off w : Nat) : Option Byte × State :=
  match tagged a with
  | none => (some cXlrange, s)
  | some (true, x) =>
    if x % 16 ≠ 0 then (some cScratchaddr, s)
    else match s.engScratch who 5 x 16 with
      | .error e => (some e.1, s)
      | .ok (h, o) => (none, s.modCore h fun k => k.storeLocal (o + off) (leBytes 8 w) false)
  | some (false, x) =>
    if x % 16 ≠ 0 then (some cGalign, s)
    else match s.transX dom .copyDst x 16 with
      | (.ok segs, s) =>
        let (m, rs) := s.mem.writeSegs (sliceSegs off 8 segs) (leBytes 8 w) false
        (none, { s with mem := m }.addRecs (inDomain dom rs))
      | (.fault c _ _, s) => (some c, s)
      | (.miss, s) => (some cXlinval, s)

/-- R147: a record, word 1 before word 0; with `ahead` word 1 was written before. -/
def State.writeRecord (s : State) (who : Option CoreId) (dom : Nat) (a : W64) (w0 w1 : Nat) (ahead : Bool := false) : Option Byte × State :=
  match (if ahead then (none, s) else s.writeRecordWord who dom a 8 w1) with
  | (none, s) => s.writeRecordWord who dom a 0 w0
  | (some c, s) => (some c, s)

/-- R155: completed slots that are the oldest assigned become filled. -/
def Carafe.fill (f : Carafe) : Nat → Carafe
  | 0 => f
  | n + 1 =>
    if f.nasgn = 0 then f
    else
      let i := (f.f + f.n - f.nasgn % (f.n + 1)) % (if f.n = 0 then 1 else f.n)
      let sl := mrd {} f.slots i
      if sl.complete then
        { f with nasgn := f.nasgn - 1, nfill := f.nfill + 1, slots := mwr {} f.slots i { sl with complete := false } }.fill n
      else f

/-- R155: the slot of a packet takes its status and count and is complete. -/
def Carafe.finish (f : Carafe) (i : Nat) (st : Byte) (n : Nat) : Carafe :=
  { f with slots := mwr {} f.slots i ⟨st, n, true⟩ }.fill 64

/-- The end of a copy: its slot, its record and its token (R146, R147, R155, R402). -/
def State.endCopy (s : State) (e : CopyEnt) (st d : Byte) (n : Nat) : State :=
  let p := Packet.ofWords e.words
  let s := match e.core, e.caf with
    | some c, some (f, i) => s.modCore c fun k =>
        let j : Fin 16 := ⟨f % 16, Nat.mod_lt _ (by decide)⟩
        { k with eng.carafes := k.eng.carafes.set j ((k.eng.carafes.get j).finish i st n) }
    | _, _ => s
  let s :=
    if p.rec_ = 0 then s
    else
      let tag := if e.queue.isSome then p.tag else 0
      match s.writeRecord e.core e.domain p.rec_ (tag * 2 ^ 32 + d.toNat * 65536 + st.toNat * 256 + 1) n e.recAhead with
      | (none, s) => s
      | (some c, s) => s.addRec { event := 0x07, sev := 2, cause := c, unit := 10, core := e.core.map Fin.val, domain := e.domain, synd := c.setWidth 64, addr := match e.queue with | some q => BitVec.ofNat 64 (p.tag * 2 ^ 32 + q) | none => 0 }
  match e.core, e.token with
  | some c, some t => s.modCore c fun k => k.endToken t (st = 0 || st = 4)
  | _, _ => s

/-- The entries of an engine. -/
def State.copyEnts (s : State) (g : Nat) : List CopyEnt :=
  if h : g < 64 then (s.core ⟨g, h⟩).eng.copies else s.sysCopies.get ⟨(g - 64) % 8, Nat.mod_lt _ (by decide)⟩

def State.putCopyEnts (s : State) (g : Nat) (l : List CopyEnt) : State :=
  if h : g < 64 then s.modCore ⟨g, h⟩ fun k => { k with eng.copies := l }
  else { s with sysCopies := s.sysCopies.set ((g - 64) % 8) l (Nat.mod_lt _ (by decide)) }

/-- The queued packets in all engines. -/
def State.queuedEnts (s : State) : List CopyEnt := ((List.range 72).flatMap fun g => s.copyEnts g).filter fun e => e.queue.isSome

/-- Whether an entry may end now: its waits, its ORD predecessors, and a slot for a Carafe packet (R122, R132, R155). -/
def State.copyReady (s : State) (e : CopyEnt) : Bool :=
  e.early.isSome ||
  (!(e.waits.any fun t => match e.core with | some c => (s.core c).waitState t = 1 | none => false) &&
   !(e.ordAfter.any fun i => (s.queuedEnts.any fun x => x.id = i)) &&
   ((Packet.ofWords e.words).op ≠ 3 || e.caf.isSome))

/-- The engine an event of a copy concerns: the engine of the core, or with `flag` system engine k2. -/
def Stim.engine (a : Stim) : Nat := if a.flag then 64 + a.k2 % 8 else a.core.val

/-- How an entry ends: as it was known to, with `COPYDEP` where a wait token failed, or as its run does. -/
def State.copyResult (s : State) (e : CopyEnt) : Byte × Byte × Nat × State :=
  match e.early with
  | some (st, d, n) => (st, d, n, s)
  | none =>
    let failed := e.waits.any fun t => match e.core with | some c => (s.core c).waitState t = 3 | none => false
    if failed then (0x06, 0, 0, s) else s.runCopy e

/-- R126, R147: an entry whose writes are all performed, with word 1 of its record written before the rest; where that fails, nothing happens. -/
def State.recordAhead (s : State) (e : CopyEnt) : CopyEnt × State :=
  let p := Packet.ofWords e.words
  let r := s.copyResult e
  match r.2.2.2.writeRecordWord e.core e.domain p.rec_ 8 r.2.2.1 with
  | (none, t) => ({ e with early := some (r.1, r.2.1, r.2.2.1), recAhead := true }, t)
  | (some _, _) => (e, s)

/-- COPY_COMPLETE (R143 to R147): entry k of the engine. `v`[63:62] 1 moves the unit at linear index `v`[61:0] ahead of the rest, 2 reads its source
ahead, 3 writes word 1 of the record ahead; otherwise the entry runs to its end. -/
def execCopyComplete (s : State) : Out :=
  let g := Stim.engine s.cur
  let l := s.copyEnts g
  match l[s.cur.k]? with
  | none => .next s
  | some e =>
    if !s.copyReady e then .next s
    else
      let failed := e.waits.any fun t => match e.core with | some c => (s.core c).waitState t = 3 | none => false
      let part := bits s.cur.v 62 2
      let put := fun (r : CopyEnt × State) => Host.Outcome.next (r.2.putCopyEnts g ((r.2.copyEnts g).set s.cur.k r.1))
      if part = 1 || part = 2 then
        if e.early.isSome || failed then .next s
        else put (if part = 1 then s.moveEarly e (bits s.cur.v 0 62) else s.readEarly e (bits s.cur.v 0 62))
      else if part = 3 then
        if e.recAhead || (Packet.ofWords e.words).rec_ = 0 then .next s else put (s.recordAhead e)
      else
        let r := (s.putCopyEnts g (l.eraseIdx s.cur.k)).copyResult e
        .next (r.2.2.2.endCopy e r.1 r.2.1 r.2.2.1)

/-- CARAFE_SLOT_ASSIGN (R155): the oldest waiting packet of Carafe k of the core takes its free slot F. -/
def execCarafeSlotAssign (s : State) : Out :=
  let c := s.cur.core
  let j : Fin 16 := ⟨s.cur.k % 16, Nat.mod_lt _ (by decide)⟩
  .next (s.modCore c fun k =>
    let f := k.eng.carafes.get j
    let waits := fun (e : CopyEnt) => e.caf.isNone && e.early.isNone && (Packet.ofWords e.words).op = 3 && (Packet.ofWords e.words).caf = j.val
    match k.eng.copies.findIdx? waits with
    | none => k
    | some i =>
      if !f.act || f.nasgn + f.nfill + f.nheld ≥ f.n then k
      else { k with
        eng.copies := k.eng.copies.modify i fun (e : CopyEnt) => { e with caf := some (j.val, f.f) }
        eng.carafes := k.eng.carafes.set j { f with f := (f.f + 1) % (if f.n = 0 then 1 else f.n), nasgn := f.nasgn + 1, slots := mwr {} f.slots f.f {} } })

/-- R312: a `ce.cpy` performed: its packet takes a kept entry. -/
def State.startCopy (s : State) (c : CoreId) (id : Nat) (waits : List Nat) (image : BitVec 512) (w k : W64) : State :=
  let ws : List W64 := (List.range 8).map fun i => if i = 6 then w else image.extractLsb' (64 * i) 64
  let e : CopyEnt := { id := id, words := ws, core := some c, domain := (s.core c).domain, waits := waits, token := produceToken k, early := (s.packetRefusal (some c) false ws).map fun x => (x.1, x.2, 0) }
  s.modCore c fun k => { k with eng.copies := k.eng.copies ++ [e] }

/-! ### Queues (R137 to R142) -/

/-- A usable entry of the queue table (R137). -/
structure QueueRow where
  base : Nat
  domain : Nat
  bind : Nat
  n : Nat
  deriving DecidableEq, Repr

/-- The queue table lies in scheduler memory at `0x1000` (R370). -/
def queueTable : Nat := 0x1000

def Sched.queueRow (s : Sched) (q : Nat) : Option QueueRow :=
  let w0 : W64 := BitVec.ofNat 64 (rdNat s.mem (queueTable + 16 * q) 8)
  let w1 : W64 := BitVec.ofNat 64 (rdNat s.mem (queueTable + 16 * q + 8) 8)
  if bits w0 56 8 ≠ 0 || bits w0 0 12 ≠ 0 || bits w1 24 40 ≠ 0 || bits w1 8 8 ≥ 72 || bits w1 4 4 ≥ 13 || bits w1 1 3 ≠ 0 || bits w1 0 1 = 0 then none
  else some ⟨bits w0 12 44 * 4096, bits w1 16 8, bits w1 8 8, 2 ^ (4 + bits w1 4 4)⟩

/-- A ring access at an offset (R138): its page must be a home-0 leaf of class 1 with W = 1. -/
def State.ringSegs (s : State) (r : QueueRow) (off n : Nat) : Option (List Seg) × State :=
  match s.transX r.domain .copyDst (r.base + off) n with
  | (.ok segs, s) => (if segs.all fun g => g.home = 0 && g.cls = 1 then some segs else none, s)
  | (_, s) => (none, s)

/-- R138, R407: a ring access faults: the queue is idle, and a record names it with the tag of the packet that E expects, zero before E is known
(DEDUCED, log 90). -/
def State.ringFault (s : State) (q : Nat) (r : QueueRow) (e : Nat) : State :=
  { s with queues := s.queues.filter fun e => e.1 ≠ q }.addRec
    { event := 0x07, sev := 2, unit := 10, addr := BitVec.ofNat 64 (e % 2 ^ 32 * 2 ^ 32 + q), domain := r.domain, cause := cXlinval, synd := cXlinval.setWidth 64 }

/-- R138: EN of a queue goes from 0 to 1: the consumed index becomes E, or the queue stays idle and a record is written. -/
def State.enableQueue (s : State) (q : Nat) : State :=
  match s.sched.queueRow q with
  | none => s
  | some r =>
    let whole := (pieces 65536 (0x80 + 64 * r.n + 1) r.base (0x80 + 64 * r.n)).foldl (fun (acc : Bool × State) p =>
      let x := acc.2.ringSegs r (p.1 - r.base) p.2; (acc.1 && x.1.isSome, x.2)) (true, s)
    if !whole.1 then whole.2.ringFault q r 0
    else match whole.2.ringSegs r 8 8 with
      | (some segs, s) =>
        let x := s.mem.readSegs segs
        let s := { s with mem := x.mem }.addRecs (inDomain r.domain x.recs)
        if x.bad then s.ringFault q r 0 else { s with queues := minsert q ⟨leNat x.bytes⟩ (s.queues.filter fun e => e.1 ≠ q) }
      | (none, s) => s.ringFault q r 0

/-- R140, R141, R142: whether an engine has an entry for a queued packet. -/
def State.engineFree (s : State) (g : Nat) : Bool :=
  if h : g < 64 then
    let c : CoreId := ⟨g, h⟩
    (s.core c).task.isSome && (s.core c).ending.isNone && !s.absent c && ((s.copyEnts g).filter fun e => e.queue.isSome).length < 96
  else (s.copyEnts g).length < 128

/-- What the slot E mod N of a queue shows (R140): nothing yet, a packet with the ring's index segment, or a fault of the ring (R138). -/
inductive SlotRes where
  | empty (s : State)
  | fault (s : State)
  | packet (words : List W64) (index : List Seg) (s : State)

def State.readSlotOf (s : State) (r : QueueRow) (x : CopyQueue) : SlotRes :=
  match s.ringSegs r (0x80 + 64 * (x.expected % r.n)) 64 with
  | (none, s) => .fault s
  | (some segs, s) =>
    let rd := s.mem.readSegs segs
    let s := { s with mem := rd.mem }.addRecs (inDomain r.domain rd.recs)
    let ws : List W64 := (List.range 8).map fun i => BitVec.ofNat 64 (leNat ((rd.bytes.drop (8 * i)).take 8))
    if rd.bad then .fault s
    else if (Packet.ofWords ws).tag ≠ x.expected % 2 ^ 32 then .empty s
    else match s.ringSegs r 8 8 with
      | (some g, s) => .packet ws g s
      | (none, s) => .fault s

/-- R140: whether a queue of an engine has something to serve. -/
def State.queueHas (s : State) (g q : Nat) : Bool :=
  match s.sched.queueRow q, s.queues.lookup q with
  | some r, some x => r.bind = g && match s.readSlotOf r x with | .empty _ => false | _ => true
  | _, _ => false

/-- R140: the queue an engine serves next: round-robin in queue-number order after the one it served last. -/
def State.nextQueue (s : State) (g : Nat) : Option Nat :=
  let l := (s.queues.map Prod.fst).filter fun q => s.queueHas g q
  (l.find? fun q => q ≥ mrd 0 s.served g).or l.head?

/-- COPY_PACKET_ACCEPT (R140): queue k, at its turn: the slot E mod N is read once; where its TAG is E[31:0], E advances, the consumed index is
written and the packet enters its engine, refused or not. A ring access that faults leaves the queue idle (R138). -/
def execCopyPacketAccept (s : State) : Out :=
  let q := s.cur.k
  match s.sched.queueRow q, s.queues.lookup q with
  | some r, some x =>
    if !s.engineFree r.bind || s.nextQueue r.bind ≠ some q then .next s
    else match s.readSlotOf r x with
      | .empty s => .next s
      | .fault s => .next (s.ringFault q r x.expected)
      | .packet ws g s =>
        let e' := (x.expected + 1) % 2 ^ 64
        let s := { s with queues := s.queues.map (fun (y : Nat × CopyQueue) => if y.1 = q then (q, ⟨e'⟩) else y), served := mwr 0 s.served r.bind (q + 1) }
        let (m, rs) := s.mem.writeSegs g (leBytes 8 e') false
        let s := { s with mem := m }.addRecs (inDomain r.domain rs)
        let core : Option CoreId := if h : r.bind < 64 then some ⟨r.bind, h⟩ else none
        let same := (s.queuedEnts.filter fun (e : CopyEnt) => e.queue = some q).map CopyEnt.id
        let e : CopyEnt := { id := 2 ^ 40 + s.freeCtr, words := ws, queue := some q, core := core, domain := r.domain, ordAfter := if (Packet.ofWords ws).ord then same else [], early := (s.packetRefusal core true ws).map fun (x : Byte × Byte) => (x.1, x.2, 0) }
        .next (s.putCopyEnts r.bind (s.copyEnts r.bind ++ [e])).bump
  | _, _ => .next s

end Sys2Proof.Machine
end

