-- ==== Sys2Proof/Machine/Near.lean ====
section
/-! DEFINITION. Near: the Percolators (spec R156 to R171): the indexed reduce with its exact sums, the return-free adds, and `nfence`. -/

namespace Sys2Proof.Machine

open Sys2Proof

/-! ### The order of near commands (R110, R170) -/

/-- The bank groups that segments lie in. -/
def segGroups (l : List Seg) : List Nat :=
  (l.flatMap fun g => (pieces 256 (g.len + 1) g.pa g.len).map fun p => bankGroup p.1).eraseDups

/-- Near commands of a core that left it and are not performed: identifier and segments. -/
def Core.nearCmds (k : Core) : List (Nat × List Seg) :=
  k.eng.nm.toList.flatMap (fun (n : NmStream) => n.cmds.map fun c => (c.1, c.2.2)) ++ k.eng.nrfCmds.map fun c => (c.1, c.2.2.2)

/-- Whether no near command committed before `id` is left at a bank group of these segments. -/
def Core.nearReady (k : Core) (id : Nat) (segs : List Seg) : Bool :=
  !(k.nearCmds.any fun c => c.1 < id && (segGroups c.2).any fun g => (segGroups segs).contains g)

/-! ### Reading at the bank groups (R169) -/

/-- Bytes of segments as the nodes deliver them, each with whether its 64-byte block is bad; such a block reads as zero. -/
def State.nearBytes (s : State) (dom : Nat) (segs : List Seg) : List (Byte × Bool) × State :=
  segs.foldl (fun acc g =>
    (pieces 64 (g.len + 1) g.pa g.len).foldl (fun (acc : List (Byte × Bool) × State) p =>
      let r := acc.2.mem.readAt g.home g.key g.cls p.1 p.2
      let bs := if r.bad then List.replicate p.2 ((0 : Byte), true) else r.bytes.map fun b => (b, false)
      (acc.1 ++ bs, { acc.2 with mem := r.mem }.addRecs (r.recs.map fun (e : ErrRec) => { e with unit := 9, domain := dom }))) acc) ([], s)

/-- Element j of row bytes as an FP32 code: BF16 widens exactly (R164). -/
def nearElem (bf16 : Bool) (row : List Byte) (j : Nat) : Nat :=
  if bf16 then leNat ((row.drop (2 * j)).take 2) * 65536 else leNat ((row.drop (4 * j)).take 4)

/-! ### The operators (R164 to R167) -/

/-- Whether a / 2^23 is at or below 2^(j/64): both sides raised to the power 64. -/
def belowPow (j a : Nat) : Bool := decide (a ^ 64 ≤ 2 ^ (j + 64 * 24))

/-- The largest number below 2^26 of which `belowPow` holds, found by its bits. -/
def powBits (j : Nat) : Nat → Nat → Nat
  | 0, a => a
  | n + 1, a => powBits j n (if belowPow j (a + 2 ^ n) then a + 2 ^ n else a)

/-- `T[j]` of R166: 2^(j/64) × 2^23 rounded to nearest, from the floor of its double; no tie occurs but at j = 0 and 64, which are
exact. -/
def expTable (j : Nat) : Nat := (powBits j 26 0 + 1) / 2

/-- One term of R166 in units of 2^(-149): `none` for OVF. -/
def expTerm (x m : Fv) : Option Nat :=
  match (Fv.sum false [x, m.neg]) with
  | .fin neg n d e =>
    let dq := roundInt .rne neg n d (e + 16)
    if dq ≥ 128 * 65536 then none
    else if dq < -126 * 65536 then some 0
    else
      let e := dq / 65536
      let fr := (dq % 65536).toNat
      let j := fr / 1024
      let t := fr % 1024
      let s := expTable j + ((expTable (j + 1) - expTable j) * t + 512) / 1024
      some (s * 2 ^ (e + 126).toNat)
  | _ => some 0

/-- RoundNE(L × 2^(-149), f32), +0 for zero (R164). -/
def longRound (l : Int) : Nat :=
  if l = 0 then 0 else (fmtF32.encode .rne (.fin (decide (l < 0)) l.natAbs 1 (-149))).1

/-- One lane of an indexed reduce (R165 to R167): its result and tag bits. `op` is OPR, `m` the M of the scaled-exponential-sum. That a NaN or
infinite M decides the lane also where every index is padding is DEDUCED (log 86). -/
def iredLane (op : Nat) (m : Fv) (l : List Nat) : Nat × Byte :=
  let v := l.map fmtF32.decode
  let pos := v.any fun x => x = .inf false
  let neg := v.any fun x => x = .inf true
  let mNot := op = 2 && match m with | .fin .. => false | _ => true
  if mNot || v.any Fv.isNan then (qnan, 3)
  else if op = 1 then (l.foldl (fmtF32.minmax true) ninf, if pos && neg then 3 else 0)
  else if op = 0 then
    if pos && neg then (qnan, 3)
    else if pos then (pinf, 3)
    else if neg then (ninf, 3)
    else (longRound (v.foldl (fun (t : Int) x => t + x.units (-149)) 0), 0)
  else if pos then (pinf, 3)
  else
    let tag : Byte := 0
    let terms := v.map fun x => match x with | .inf _ => some 0 | _ => expTerm x m
    if terms.any Option.isNone then (pinf, tag)
    else (longRound ((terms.foldl (fun (t : Nat) x => t + x.getD 0) 0 : Nat) : Int), tag)

/-- The rows that an indexed reduce reads, from its delivered bytes. -/
def cutRows (n : Nat) : Nat → List (Byte × Bool) → List (List (Byte × Bool))
  | 0, _ => []
  | k + 1, l => if l.isEmpty then [] else l.take n :: cutRows n k (l.drop n)

/-- The result row of an indexed reduce (R164 to R167, R169). -/
def iredRow (r : Row) (data : List (Byte × Bool)) : RowT :=
  let len := nmLen r
  let bf := nmEf r = 1
  let rows := (cutRows (nmElem r * len) 64 data).map fun l => l.map Prod.fst
  let m := fmtF32.decode (bits (nmWord r 3) 0 32)
  let lanes := (List.range len).map fun j => iredLane (nmOpr r) m (rows.map fun b => nearElem bf b j)
  let bad : Byte := if data.any Prod.snd then 5 else 0
  ⟨ofLanes 32 (lanes.map Prod.fst), lanes.foldl (fun t l => t ||| l.2) bad⟩

/-- The bytes of a command that were read ahead take the place of those read with the rest. -/
def State.nearData (s : State) (k : Core) (id : Nat) (segs : List Seg) : List (Byte × Bool) × State :=
  let (data, s) := s.nearBytes k.domain segs
  ((k.eng.nearGot.filter fun e => e.1 = id).foldl (fun l e => l.take e.2.1 ++ e.2.2 ++ l.drop (e.2.1 + e.2.2.length)) data, s)

/-- IRED_RESULT (R158, R164): the oldest reduce command of stream k2 is combined and its row joins the stream; with `flag` only its element `v`
is read, ahead of the others (R171). -/
def execIredResult (s : State) : Out :=
  let c := s.cur.core
  let u : Fin 4 := ⟨s.cur.k2 % 4, Nat.mod_lt _ (by decide)⟩
  match ((s.core c).eng.nm.get u).cmds with
  | [] => .next s
  | (id, r, segs) :: rest =>
    if !(s.core c).nearReady id segs then .next s
    else if s.cur.flag then
      let o := s.cur.v.toNat * nmElem r
      let (l, s') := s.nearBytes (s.core c).domain (sliceSegs o (nmElem r) segs)
      .next (if l.isEmpty || (s.core c).eng.nearGot.any (fun e => e.1 = id && e.2.1 = o) then s
        else s'.modCore c fun k => { k with eng.nearGot := k.eng.nearGot ++ [(id, o, l)] })
    else
      let (data, s) := s.nearData (s.core c) id segs
      .next (s.modCore c fun k =>
        let n := k.eng.nm.get u
        { k with
          eng.nm := k.eng.nm.set u { n with cmds := rest, results := n.results ++ [iredRow r data] }
          eng.nearGot := k.eng.nearGot.filter fun e => e.1 ≠ id })

/-! ### Return-free adds (R168, R169) -/

/-- An element's new value. -/
def nearAdd (op e old add : Nat) : Nat :=
  if op = 2 then (f32Add (BitVec.ofNat 32 old) (BitVec.ofNat 32 add)).toNat else (old + add) % 2 ^ (8 * e)

/-- The addends of a command, from byte 64 of its row. -/
def nearAddend (r : Row) (j : Nat) : Nat := (r.toNat >>> (8 * (64 + nmElem r * j))) % 2 ^ (8 * nmElem r)

/-- The adds of one piece that lies in one block: the elements from j on that `want` names. Answers whether the block was skipped. -/
def State.nearBlock (s : State) (dom : Nat) (r : Row) (want : Nat → Bool) (g : Seg) (pa len j : Nat) : Bool × State :=
  let rd := s.mem.readAt g.home g.key g.cls pa len
  if rd.bad then
    (true, s.addRec { event := 0x08, sev := 2, unit := 9, addr := BitVec.ofNat 64 (g.home * 2 ^ 52 + pa / 64 * 64), synd := Config.syndrome 9 (pa / 64), domain := dom })
  else
    let e := nmElem r
    let new := (List.range (len / e)).flatMap fun i =>
      let old := leNat ((rd.bytes.drop (e * i)).take e)
      leBytes e (if want (j + i) then nearAdd (nmOpOf r) e old (nearAddend r (j + i)) else old)
    let (m, rs) := rd.mem.writeAt g.home g.key g.cls pa new false
    (false, { s with mem := m }.addRecs ((rd.recs ++ rs).map fun (x : ErrRec) => { x with unit := 9, domain := dom }))

/-- The adds of a command in the blocks of segments that hold its bytes from o on. -/
def State.nearAdds (s : State) (dom : Nat) (r : Row) (want : Nat → Bool) (o : Nat) (segs : List Seg) : Bool × State :=
  (segOffsets segs o).foldl (fun acc p =>
    (pieces 64 (p.1.len + 1) p.1.pa p.1.len).foldl (fun (acc : Bool × State) q =>
      let x := acc.2.nearBlock dom r want p.1 q.1 q.2 ((p.2 + (q.1 - p.1.pa)) / nmElem r)
      (acc.1 || x.1, x.2)) acc) (false, s)

/-- A command that skipped a block fails every `nfence` that covers it, or the next (R169, R171). -/
def Core.nearSkipped (k : Core) (id : Nat) : Core :=
  if k.eng.nfences.any fun f => f.2.1.contains id then
    { k with eng.nfences := k.eng.nfences.map fun f => if f.2.1.contains id then (f.1, f.2.1, true) else f }
  else { k with eng.nmSkip := true }

/-- NEAR_ADD_APPLY (R168, R169): the return-free command k of the core is applied, block by block; with `flag` only its element `v`, since the
elements are not indivisible as a group. -/
def execNearAddApply (s : State) : Out :=
  let c := s.cur.core
  match (s.core c).eng.nrfCmds[s.cur.k]? with
  | none => .next s
  | some (id, _, r, segs) =>
    let done := ((s.core c).eng.nearDone.filter fun e => e.1 = id).map Prod.snd
    if !(s.core c).nearReady id segs then .next s
    else if s.cur.flag then
      let j := s.cur.v.toNat
      if done.contains j || j ≥ nmLen r then .next s
      else
        let (skipped, s') := s.nearAdds (s.core c).domain r (· = j) (j * nmElem r) (sliceSegs (j * nmElem r) (nmElem r) segs)
        .next (if skipped then s else s'.modCore c fun k => { k with eng.nearDone := k.eng.nearDone ++ [(id, j)] })
    else
      let (skipped, s) := s.nearAdds (s.core c).domain r (fun j => !done.contains j) 0 segs
      .next (s.modCore c fun k =>
        let k : Core := { k with eng.nrfCmds := k.eng.nrfCmds.filter fun x => x.1 ≠ id, eng.nearDone := k.eng.nearDone.filter fun e => e.1 ≠ id }
        if skipped then k.nearSkipped id else k)

/-! ### nfence (R127, R171) -/

/-- An `nfence` performed: it covers every near command that is not yet performed. -/
def Core.startNfence (k : Core) (t : Option Nat) : Core :=
  { k with eng.nfences := k.eng.nfences ++ [(t, k.nearPending, k.eng.nmSkip)], eng.nmSkip := false }

/-- NFENCE_COMPLETE (R127): the `nfence` k ends once every command that it covers is performed. -/
def execNfenceComplete (s : State) : Out :=
  .next (s.modCore s.cur.core fun k =>
    match k.eng.nfences[s.cur.k]? with
    | none => k
    | some (t, ids, failed) =>
      if ids.any fun i => k.nearPending.contains i then k
      else
        let k : Core := { k with eng.nfences := k.eng.nfences.eraseIdx s.cur.k }
        match t with
        | some t => k.endToken t (!failed)
        | none => k)

end Sys2Proof.Machine
end

