-- ==== Sys2Proof/Machine/Collective.lean ====
section
/-! DEFINITION. Collective: the collectives of a gang (spec R316 to R318): matching, the result rows, and the ends of their tokens. -/

namespace Sys2Proof.Machine

open Sys2Proof

/-- The cores of a mask in rank order (R317). -/
def maskCores (m : W64) : List CoreId := (List.finRange 64).filter fun i => m.getLsbD i.val

/-- NR, SRC and DST of a request (R316). -/
def CollReq.nr (r : CollReq) : Nat := bits r.a 32 7 + 1
def CollReq.src (r : CollReq) : Nat := bits r.a 0 23
def CollReq.dst (r : CollReq) : Nat := bits r.c 0 23
def CollReq.op (r : CollReq) : Nat := bits r.a 46 2
def CollReq.ty (r : CollReq) : Nat := bits r.a 40 5
def CollReq.root (r : CollReq) : Nat := bits r.a 48 6

/-- Rows that a participant's destination receives. -/
def CollReq.outRows (r : CollReq) : Nat := if r.kind = 2 then r.nr * (maskCores r.mask).length else r.nr

/-- What R318 compares. -/
def CollReq.sameAs (r q : CollReq) : Bool := r.kind = q.kind && r.op = q.op && r.ty = q.ty && r.nr = q.nr && r.root = q.root && r.mask = q.mask

/-- The first request of a core with a mask that has not started: the k-th matches the k-th (R318). -/
def Sched.firstColl (s : Sched) (p : CoreId) (mask : W64) : Option CollReq :=
  s.colls.find? fun r => r.core = p && r.mask = mask && r.rows.isNone

/-- A row of a bank as a contribution: bits 2 and 0 where one of its words was uncorrectable or marked (R317). -/
def contribution (l : List (Byte × Bool)) : RowT := ⟨rowOfBytes (l.map Prod.fst), if l.any Prod.snd then 5 else 0⟩

/-- The source rows of a participant; bank words read ahead take the place of those read now (R126). -/
def State.collSource (s : State) (r : CollReq) : List RowT × State :=
  (List.range r.nr).foldl (fun acc i =>
    let x := acc.2.bankRead r.core (r.src + 512 * i) 512
    let row := (List.range 64).flatMap fun w => (mrd none r.got (64 * i + w)).getD ((x.1.drop (8 * w)).take 8)
    (acc.1 ++ [contribution row], x.2)) ([], s)

/-- One lane of `allred` (R317): sums modulo 2^32 or exact and rounded once, maxima and minima as R274. -/
def allredLane (op ty : Nat) (l : List Nat) : Nat :=
  if ty = 0x08 then
    match op with
    | 0 => (fmtF32.encode .rne (Fv.sum false (l.map fmtF32.decode))).1
    | o => match l with
      | [] => 0
      | v :: t => t.foldl (fmtF32.minmax (o = 1)) (fmtF32.minmax (o = 1) v v)
  else
    match op with
    | 0 => l.foldl (fun a b => (a + b) % 2 ^ 32) 0
    | o => match l with
      | [] => 0
      | v :: t => low 32 (t.foldl (fun (a : Int) b => if o = 1 then max a (sint 32 b) else min a (sint 32 b)) (sint 32 v))

/-- Row i of `allred` over the contributions of all participants. -/
def allredRow (op ty : Nat) (l : List RowT) : RowT :=
  ⟨ofLanes 32 ((List.range 128).map fun j => allredLane op ty (l.map fun r => lane 32 r.data j)), inheritAll (l.map RowT.tag)⟩

/-- The result rows of R317; `src` holds the rows of each participant in rank order. -/
def collRows (r : CollReq) (src : List (CoreId × List RowT)) : List RowT :=
  match r.kind with
  | 0 => (List.range r.nr).map fun i => allredRow r.op r.ty (src.map fun p => p.2.getD i RowT.zero)
  | 1 => ((src.find? fun p => p.1.val = r.root).map Prod.snd).getD [] |>.map fun (x : RowT) => { x with tag := inherit x.tag }
  | _ => src.flatMap fun p => p.2.map fun (x : RowT) => { x with tag := inherit x.tag }

/-- The token of a request ends, and the request is gone. -/
def State.endColl (s : State) (r : CollReq) (ok : Bool) : State :=
  let s := match r.token with
    | some t => s.modCore r.core fun k => k.endToken t ok
    | none => s
  { s with sched := { s.sched with colls := s.sched.colls.erase r } }

/-- The requests that start together: the first unstarted one of every participant; `none` while one is missing or waits (R318). -/
def State.collGroup (s : State) (r : CollReq) : Option (List CollReq) :=
  let found := (maskCores r.mask).map fun p => s.sched.firstColl p r.mask
  let all := found.filterMap id
  if s.sched.firstColl r.core r.mask ≠ some r || found.any Option.isNone || all.any (fun q => q.waits.any fun t => (s.core q.core).waitState t = 1) then none
  else some all

/-- R318: what fails a collective before it moves any data. -/
def State.collFails (s : State) (r : CollReq) (all : List CollReq) : Bool :=
  all.any (fun q => q.waits.any fun t => (s.core q.core).waitState t = 3) || all.any (fun q => !q.sameAs r) ||
    all.any fun q => (ownRefuses q.core (s.core q.core) (some q.core) 0 q.src (512 * q.nr)).isSome ||
      (ownRefuses q.core (s.core q.core) (some q.core) 1 q.dst (512 * q.outRows)).isSome

/-- A request of the list replaced. -/
def State.putColl (s : State) (r q : CollReq) : State :=
  { s with sched := { s.sched with colls := s.sched.colls.map fun x => if x = r then q else x } }

/-- COLLECTIVE_START (R318): the collective that request k belongs to starts once every participant has issued and none waits; with `flag` only
bank word `v` of the request's own source is read, ahead of the rest (R126). -/
def execCollectiveStart (s : State) : Out :=
  match s.sched.colls[s.cur.k]? with
  | none => .next s
  | some r =>
    match s.collGroup r with
    | none => .next s
    | some all =>
      if s.cur.flag then
        if s.collFails r all || s.cur.v.toNat ≥ 64 * r.nr || (mrd none r.got s.cur.v.toNat).isSome then .next s
        else
          let x := s.bankRead r.core (r.src + 8 * s.cur.v.toNat) 8
          .next (x.2.putColl r { r with got := mwr none r.got s.cur.v.toNat (some x.1) })
      else if s.collFails r all then .next (all.foldl (fun s q => s.endColl q false) s)
      else
        let (src, s) := all.foldl (fun (acc : List (CoreId × List RowT) × State) q =>
          let x := acc.2.collSource q
          (acc.1 ++ [(q.core, x.1)], x.2)) ([], s)
        let rows := collRows r src
        .next { s with sched := { s.sched with colls := s.sched.colls.map fun (q : CollReq) => if all.contains q then { q with rows := some rows } else q } }

/-- Bank word w of a destination written with its part of the result rows; a poisoned row marks its words (R200). DESIGN CHOICE (log 69): the
ownership of a destination is checked when the collective starts and not again here. -/
def State.collWord (s : State) (r : CollReq) (rows : List RowT) (w : Nat) : State :=
  match rows[w / 64]? with
  | none => s
  | some v => s.modCore r.core fun k => k.storeLocal (r.dst + 8 * w) ((rowBytes v.data).drop (8 * (w % 64)) |>.take 8) (v.tag.getLsbD 0)

/-- Row i of a destination written, but for the words written before. -/
def State.collStore (s : State) (r : CollReq) (i : Nat) (v : RowT) : State :=
  if r.wrote.all fun w => w / 64 ≠ i then s.modCore r.core fun k => k.storeLocal (r.dst + 512 * i) (rowBytes v.data) (v.tag.getLsbD 0)
  else ((List.range 64).filter fun w => !r.wrote.contains (64 * i + w)).foldl (fun s w => s.collWord r (List.replicate i RowT.zero ++ [v]) (64 * i + w)) s

/-- COLLECTIVE_COMPLETE (R318): the started request k writes its rows and its token is done; with `flag` only bank word `v` of its destination is
written, ahead of the rest (R126). -/
def execCollectiveComplete (s : State) : Out :=
  match s.sched.colls[s.cur.k]? with
  | none => .next s
  | some r => match r.rows with
    | none => .next s
    | some rows =>
      if s.cur.flag then
        let w := s.cur.v.toNat
        .next (if w ≥ 64 * rows.length || r.wrote.contains w then s else (s.collWord r rows w).putColl r { r with wrote := r.wrote ++ [w] })
      else .next ((rows.zipIdx.foldl (fun s p => s.collStore r p.2 p.1) s).endColl r true)

/-- R318: the task of a participant ends: the tokens of the requests that name its core fail, and where one had started each of its
destination rows is old or new by a free choice; a row of which a word was written is new. -/
def State.failColls (s : State) (c : CoreId) : State :=
  (s.sched.colls.filter fun r => r.mask.getLsbD c.val).foldl (fun s r =>
    let s := match r.rows with
      | none => s
      | some rows => (rows.zipIdx.foldl (fun (t : State) (p : RowT × Nat) => if pickOf s.freeCtr p.2 2 = 0 && r.wrote.all (fun w => w / 64 ≠ p.2) then t else t.collStore r p.2 p.1) s).bump
    s.endColl r false) s

/-- A collective trigger performed (R318): it joins the waiting ones, or fails where a participant's task has ended. -/
def State.startColl (s : State) (r : CollReq) : State :=
  let gang := (s.core r.core).task.map Task.gang
  let s' := { s with sched := { s.sched with colls := s.sched.colls ++ [r] } }
  if (maskCores r.mask).any fun p => (s.core p).task.map Task.gang ≠ gang then s'.endColl r false else s'

end Sys2Proof.Machine
end

