-- ==== Sys2Proof/Machine/Signals.lean ====
section
/-! DEFINITION. Signals: a committed signal is performed at its point (spec R113, R309, R310, R312 to R318, R340, R341), and the
microprogram load (R268, R337). -/

namespace Sys2Proof.Machine

open Sys2Proof

/-- A flag of a core written (R309). -/
def State.setFlag (s : State) (c : CoreId) (f : Fin 16) (v : W32) : State := s.modCore c fun k => { k with eng.flags := k.eng.flags.set f v }

/-- The key of a group of the gang of a core (R310). -/
def State.groupKey (s : State) (c : CoreId) (g : BitVec 3) : Nat :=
  (match (s.core c).task with | some t => t.gang | none => 0) * 8 + g.toNat

/-- R310: the bit of a core in a group set or cleared. -/
def State.setGroup (s : State) (c : CoreId) (g : BitVec 3) (b : Bool) : State :=
  let n := s.groupKey c g
  let m := mrd (0 : W64) s.sched.groups n
  let v := if b then m ||| (1 <<< c.val) else m &&& ~~~(1 <<< c.val : W64)
  { s with sched := { s.sched with groups := mwr 0 s.sched.groups n v } }

/-- A launch joins the queue of 64 entries, or waits behind it (R375). -/
def Sched.addLaunch (s : Sched) (r : LaunchReq) : Sched :=
  if s.launches.length < 64 && s.waiting.isEmpty then { s with launches := s.launches ++ [r] } else { s with waiting := s.waiting ++ [r] }

/-- What a signal does at its point; atomics and handle operations have steps of their own. An `fset` sets the flags of all its targets in one step
(DESIGN CHOICE, log 97). -/
def State.performSignal (s : State) (c : CoreId) (w : Comm) : Signal → State
  | .fadd t f v => s.setFlag t f ((s.core t).eng.flags.get f + v)
  | .fset m f v => (maskCores m).foldl (fun s t => s.setFlag t f v) s
  | .join g => s.setGroup c g true
  | .leave g => s.setGroup c g false
  | .cpy image x k => s.startCopy c w.id w.waits image x k
  | .cimCall e p _ k mps => s.modCim c fun x => { x with queue := x.queue ++ [{ entry := e.toNat, waits := w.waits, token := produceToken k, progress := p, mps := mps, org := w.org }] }
  | .cimStep b _ k mps => s.modCim c fun x => { x with queue := x.queue ++ [{ step := some b, waits := w.waits, token := produceToken k, progress := 0, mps := mps, org := w.org }] }
  | .nmCmd u r segs => s.modCore c fun k =>
      if nmOpOf r = 1 then { k with eng.nm := k.eng.nm.set u { k.eng.nm.get u with cmds := (k.eng.nm.get u).cmds ++ [(w.id, r, segs)] } }
      else { k with eng.nrfCmds := k.eng.nrfCmds ++ [(w.id, u.val, r, segs)] }
  | .nfence k => s.modCore c fun x => x.startNfence (produceToken k)
  | .coll kind a d mask _ k => s.startColl { core := c, kind := kind, a := a, c := d, mask := mask, waits := w.waits, token := produceToken k }
  | .launch b => { s with sched := s.sched.addLaunch { v := b, core := some c, pend := w.id, domain := (s.core c).domain } }
  | .mpload a d _ k => s.modCim c fun x => { x with mpload := x.mpload ++ [(a, d, w.waits, produceToken k)] }
  | .amo .. => s
  | .handle .. => s

/-- Whether a signal is performed by SIGNAL_PERFORM. -/
def Signal.plain : Signal → Bool
  | .amo .. => false
  | .handle .. => false
  | _ => true

/-- SIGNAL_PERFORM (R113): the signal at place k of the core's commit order, once nothing before it holds it. -/
def execSignalPerform (s : State) : Out :=
  let c := s.cur.core
  let i := s.cur.k
  match (s.core c).ms.comm[i]? with
  | none => .next s
  | some w => match w.what with
    | .signal g => .next (if g.plain && (s.core c).signalReady i then (s.dropComm c i).performSignal c w g else s)
    | _ => .next s

/-! ### Microprogram loads (R268, R337) -/

/-- One word read through Canopy with KIND 0 for a domain; or the status code of a failure. -/
def State.mpWord (s : State) (dom va : Nat) : Except Byte W64 × State :=
  match s.transX dom .load va 8 with
  | (.ok segs, s) =>
    let r := s.mem.readSegs segs
    let s := { s with mem := r.mem }.addRecs (inDomain dom r.recs)
    if r.bad then (.error 4, s) else (.ok (BitVec.ofNat 64 (leNat r.bytes)), s)
  | (.fault c _ _, s) => (.error c, s)
  | (.miss, s) => (.error cXlinval, s)

/-- A word as it was fetched before or, where it was not, as it is read now. -/
def State.mpTake (s : State) (dom : Nat) (got : Option W64) (va : Nat) : Except Byte W64 × State :=
  match got with
  | some w => (.ok w, s)
  | none => s.mpWord dom va

/-- Words written ascending to the store from `first`, but for those that `skip` names: each as `got` holds it or as it is read now. A failure
stops them and keeps the earlier ones. -/
def State.mpWords (s : State) (c : CoreId) (dom : Nat) (skip : Nat → Bool) (got : Nat → Option W64) (va first i : Nat) : Nat → Option Byte × State
  | 0 => (none, s)
  | n + 1 =>
    if skip i then s.mpWords c dom skip got va first (i + 1) n
    else match s.mpTake dom (got i) (va + 8 * i) with
      | (.error e, s) => (some e, s)
      | (.ok w, s) => (s.modCim c fun x => { x with store := mwr 0 x.store (first + i) w }).mpWords c dom skip got va first (i + 1) n

/-- The words of an `mpload` already written, and a word of it fetched before the rest. -/
def Cim.mpWrote (x : Cim) (tok i : Nat) : Bool := x.mpDone.contains (tok, i)
def Cim.mpFetched (x : Cim) (tok i : Nat) : Option W64 := (x.mpGot.find? fun e => e.1 = tok && e.2.1 = i).map fun e => e.2.2

/-- R268, R337: one word of an `mpload` ahead of the rest: the lowest one not written is written, any other one is fetched. A word that cannot be
read is left to the load itself. -/
def State.mpEarly (s : State) (c : CoreId) (dom va first tok i : Nat) : State :=
  let x := (s.core c).eng.cim
  if x.mpWrote tok i || (x.mpFetched tok i).isSome && !((List.range i).all (x.mpWrote tok)) then s
  else match s.mpTake dom (x.mpFetched tok i) (va + 8 * i) with
    | (.ok w, s) => s.modCim c fun x =>
      if (List.range i).all (x.mpWrote tok) then { x with store := mwr 0 x.store (first + i) w, mpDone := x.mpDone ++ [(tok, i)] }
      else { x with mpGot := x.mpGot ++ [(tok, i, w)] }
    | (.error _, s) => s

/-- MPLOAD_COMPLETE (R268): load k of the core, once its wait tokens have ended; with `flag` only its word `v`, written or fetched (R337). -/
def execMploadComplete (s : State) : Out :=
  let c := s.cur.core
  match (s.core c).eng.cim.mpload[s.cur.k]? with
  | none => .next s
  | some (a, d, waits, tok) =>
    let t' := tok.getD 32
    let dom := (s.core c).domain
    let n := bits d 16 12 + 1
    if waits.any fun t => (s.core c).waitState t = 1 then .next s
    else
      let stop := fun (s : State) (ok : Bool) =>
        let s := s.modCim c fun x => { x with mpDone := x.mpDone.filter fun e => e.1 ≠ t', mpGot := x.mpGot.filter fun e => e.1 ≠ t' }
        match tok with | some t => s.modCore c fun k => k.endToken t ok | none => s
      let failed := waits.any fun t => (s.core c).waitState t = 3
      if s.cur.flag then .next (if failed || s.cur.v.toNat ≥ n then s else s.mpEarly c dom a.toNat (bits d 0 12) t' s.cur.v.toNat)
      else
        let x := (s.core c).eng.cim
        let s := s.modCim c fun x => { x with mpload := x.mpload.eraseIdx s.cur.k }
        if failed then .next (stop s false)
        else match s.mpWords c dom (x.mpWrote t') (x.mpFetched t') a.toNat (bits d 0 12) 0 n with
          | (none, s) => .next (stop s true)
          | (some e, s) => .next (stop (s.modCim c fun x => { x with mlc := e }) false)

end Sys2Proof.Machine
end

