-- ==== Sys2Proof/Machine/Launch.lean ====
section
/-! DEFINITION. Launch: graphs, launches and instances (spec R370 to R379), and the states of tiles as edges decide them (R373, R374,
R392). -/

namespace Sys2Proof.Machine

open Sys2Proof

/-! ### Registers of the host side -/

/-- A bit of `HINT` set; its MSI-X vector is raised where it was 0 (R412). -/
def Hsk.hintBit (h : Hsk) (i : Fin 5) : Hsk :=
  { h with hint := h.hint ||| BitVec.ofNat 64 (2 ^ i.val), msix := if h.hint.getLsbD i.val then h.msix else h.msix.set i.val (h.msix.get i + 1) i.isLt }

def Hsk.hstatBit (h : Hsk) (i : Nat) : Hsk := { h with hstat := h.hstat ||| BitVec.ofNat 64 (2 ^ i) }

def State.modHk (s : State) (f : Hsk → Hsk) : State := { s with hk := f s.hk }

/-! ### Graphs in scheduler memory (R370 to R373) -/

def Sched.word (s : Sched) (o : Nat) : W64 := BitVec.ofNat 64 (rdNat s.mem o 8)

/-- The graph table, and the end of the node and edge arrays (R370). -/
def graphTable : Nat := 0x8000
def arraysEnd : Nat := 0x700000

/-- The bits that words 0 to 15 of a node name (R372). -/
def nodeMask : List W64 :=
  [0xFFFC000000000000, 0xFFFFFFFFFFFFFFFF, 0x0FFFFFFFFFFFFFFF, 0x0000FFFFFFFFFFFF, 0xFFFFFFFFFFFFFFFF, 0xFFFFFFFFFFFFFFFF,
   0x800000000FFF0FFF, 0xFFFFFFFFFFFFFFFF, 0x807FFFFF007FFFFF, 0xFFFFFFFFFFFFFFFF, 0x80001FFF00001FFF, 0x07FF03FFFF7F001F] ++
  [0xFFFFFFFFFFFFFFFF, 0xFF, 0xFFFFFFFF, 0]

/-- The number of tiles of a node and the size of its gangs. -/
def nodeTiles (w : List W64) : Nat :=
  let v := w.getD 2 0
  (bits v 0 20 + 1) * (bits v 20 20 + 1) * (bits v 40 20 + 1)

def nodeGang (w : List W64) : Nat := bits (w.getD 0 0) 50 6 + 1

/-- What R378 asks of the words of one node. -/
def nodeOk (w : List W64) : Bool :=
  let g := fun i lo n => bits (w.getD i 0) lo n
  (((w.take 16).zip nodeMask).all fun p => p.1 &&& ~~~p.2 = 0) &&
  nodeTiles w ≤ 2 ^ 20 && nodeTiles w % nodeGang w = 0 &&
  g 11 32 10 + g 11 48 11 ≤ 1024 && g 11 16 7 + g 11 24 8 ≤ 128 && g 13 0 8 ≤ g 11 24 8 &&
  (g 6 63 1 = 0 || (g 6 0 12 + g 6 16 12 ≤ 4095 && g 5 0 3 = 0)) &&
  (g 8 63 1 = 0 || (g 8 32 23 % 8 = 0 && g 8 0 23 % 8 = 0 && g 8 32 23 + g 8 0 23 ≤ 0x400000)) &&
  (g 10 63 1 = 0 || (g 9 0 9 = 0 && g 10 32 13 + g 10 0 13 ≤ 8191))

/-- R378: an edge of destination node n, with the tile counts of the nodes. -/
def edgeOk (counts : List Nat) (n : Nat) (e : W64 × W64) : Bool :=
  let kind := bits e.1 60 4
  let src := bits e.1 0 8
  1 ≤ kind && kind ≤ 3 && bits e.1 8 52 = 0 && src < n && (kind ≠ 1 || counts.getD src 0 = counts.getD n 0)

/-- The domain of a graph and its nodes with their incoming edges; `none` where `LGRAPH` refuses it. -/
def Sched.readGraph (s : Sched) (g : Nat) : Option (Nat × List Node) :=
  let e0 := s.word (graphTable + 16 * g)
  let e1 := s.word (graphTable + 16 * g + 8)
  let nodes := bits e0 0 23
  let nn := bits e0 48 8 + 1
  let edges := bits e1 0 23
  let nem1 := bits e1 23 16
  if bits e0 63 1 = 0 || bits e0 56 7 ≠ 0 || bits e0 23 25 ≠ 0 || bits e1 39 17 ≠ 0 || nodes % 256 ≠ 0 || nodes + 256 * nn > arraysEnd then none
  else
    let ws := (List.range nn).map fun i => (List.range 32).map fun k => s.word (nodes + 256 * i + 8 * k)
    let counts := ws.map nodeTiles
    let nin := fun (w : List W64) => bits (w.getD 14 0) 16 16
    let first := fun (w : List W64) => bits (w.getD 14 0) 0 16
    if !(ws.all nodeOk) || ws.any (fun w => nin w > 0 && first w + nin w > nem1 + 1) || (ws.any (fun w => nin w > 0) && edges + 16 * (nem1 + 1) > arraysEnd) then none
    else
      let ns : List Node := ws.map fun w => { words := w, edges := (List.range (nin w)).map fun k => (s.word (edges + 16 * (first w + k)), s.word (edges + 16 * (first w + k) + 8)) }
      if ns.zipIdx.all (fun p => p.1.edges.all (edgeOk counts p.2)) then some (bits e1 56 8, ns) else none

/-! ### Patch lists (R377) -/

/-- Bytes read through Canopy for a domain; `none` on a fault or bad data. -/
def State.readVa (s : State) (dom : Nat) (k : AccKind) (va n : Nat) : Option (List Byte) × State :=
  match s.transX dom k va n with
  | (.ok segs, s) =>
    let r := s.mem.readSegs segs
    (bif r.bad then none else some r.bytes, { s with mem := r.mem }.addRecs (inDomain dom r.recs))
  | (_, s) => (none, s)

def wordsOf (l : List Byte) : List W64 := (List.range (l.length / 8)).map fun i => BitVec.ofNat 64 (leNat ((l.drop (8 * i)).take 8))

/-- One entry applied to the nodes; a later one wins. -/
def patchNode (ns : List Node) (e : W64 × W64) : List Node :=
  let p := bits e.1 0 8
  let at_ := if p < 16 then 16 + p else if p = 16 then 4 else 3
  let v := if p = 17 then e.2 &&& 0xFFFFFFFFFFFF else e.2
  ns.modify (bits e.1 8 8) fun (n : Node) => { n with words := List.set n.words at_ v }

/-- The REC and entries of a patch list, or `none` where `LPATCH` refuses the launch. -/
def State.readPatch (s : State) (dom : Nat) (v : W64) (nn : Nat) : Option (W64 × List (W64 × W64)) × State :=
  let va := bits v 12 40 * 64
  if bits v 58 5 ≠ 0 then (none, s)
  else if va = 0 then (some (0, []), s)
  else match s.readVa dom .load va 64 with
    | (none, s) => (none, s)
    | (some h, s) =>
      let w := wordsOf h
      let nent := (w.getD 0 0).toNat
      let rec_ := w.getD 1 0
      if nent > 256 || (w.drop 2).any (· ≠ 0) || bits rec_ 56 8 ≠ 0 || rec_.toNat % 16 ≠ 0 then (none, s)
      else match s.readVa dom .load (va + 64) (16 * nent) with
        | (none, s) => (none, s)
        | (some b, s) =>
          let x := wordsOf b
          let es := (List.range nent).map fun i => (x.getD (2 * i) 0, x.getD (2 * i + 1) 0)
          (if es.all (fun e => bits e.1 16 48 = 0 && bits e.1 0 8 ≤ 17 && bits e.1 8 8 < nn) then some (rec_, es) else none, s)

/-! ### Tiles (R373, R374, R392) -/

/-- The source tiles of tile t of a destination under an edge, among `count` of the source (R373). -/
def edgeSources (e : W64 × W64) (count t : Nat) : List Nat :=
  match bits e.1 60 4 with
  | 1 => [t]
  | 2 => List.range count
  | _ =>
    let lo := t * bits e.2 40 20 / (bits e.2 20 20 + 1)
    (List.range (bits e.2 0 20 + 1)).map (lo + ·) |>.filter (· < count)

def Inst.words (i : Inst) (n : Nat) : List W64 := match i.nodes[n]? with | some x => x.words | none => []
def Inst.count (i : Inst) (n : Nat) : Nat := nodeTiles (i.words n)
def Inst.key (i : Inst) (n t : Nat) : Nat := i.base.getD n 0 + t
def Inst.tile (i : Inst) (n t : Nat) : Tile := mrd {} i.tiles (i.key n t)
def Inst.modTile (i : Inst) (n t : Nat) (f : Tile → Tile) : Inst := { i with tiles := mwr {} i.tiles (i.key n t) (f (i.tile n t)) }
def Inst.id (i : Inst) : Nat := i.gen * 256 + i.slot

def TileSt.notStarted : TileSt → Bool
  | .waiting => true
  | .queued => true
  | .preloaded => true
  | _ => false

/-- A tile that has not started is killed without running, and counts in NKILL (R374, R379). -/
def Inst.killTile (i : Inst) (n t : Nat) : Inst :=
  if (i.tile n t).st.notStarted then { i.modTile n t fun (x : Tile) => { x with st := .killed } with nkill := i.nkill + 1 } else i

/-- The members of the gang of a tile. -/
def Inst.gangOf (i : Inst) (n t : Nat) : List Nat :=
  let g := nodeGang (i.words n)
  (List.range g).map fun m => t / g * g + m

/-- R392: a killed member kills the members of its gang that have not started. -/
def Inst.killGangs (i : Inst) (n : Nat) : Inst :=
  (List.range (i.count n)).foldl (fun i t => if (i.tile n t).st = .killed then (i.gangOf n t).foldl (fun i m => i.killTile n m) i else i) i

/-- R374: a waiting tile is killed with a source, or becomes ready when all of them are done. -/
def Inst.settleTile (i : Inst) (stamp n t : Nat) : Inst :=
  if (i.tile n t).st ≠ .waiting then i
  else
    let src := (match i.nodes[n]? with | some x => x.edges | none => []).flatMap fun e =>
      (edgeSources e (i.count (bits e.1 0 8)) t).map fun u => (i.tile (bits e.1 0 8) u).st
    if src.any (· = .killed) then i.killTile n t
    else if src.all (· = .done) then i.modTile n t fun (x : Tile) => { x with st := .queued, since := stamp }
    else i

/-- Edges decide the tiles, node by node; an edge comes from a lower node. -/
def Inst.settleTiles (i : Inst) (stamp : Nat) : Inst :=
  (List.range i.nodes.length).foldl (fun i n => (((List.range (i.count n)).foldl (fun i t => i.settleTile stamp n t) i).killGangs n)) i

/-! ### Limits on gangs (R22, R27, R378, R382) -/

def State.activeCores (s : State) : Nat := ((List.range 64).filter fun c => !Config.parkedIn s.hk.envelope c).length

/-- The largest gang: the active cores, or the task slots when every grove is in lockstep. -/
def State.gangLimit (s : State) : Nat :=
  if s.hk.protActive = 0xFF then ((List.range 64).filter fun c => !Config.parkedIn s.hk.envelope c && c % 2 = 0).length else s.activeCores

/-! ### Acceptance (R375 to R379) -/

/-- First tile index of each node. -/
def bases (l : List Nat) : List Nat := (l.foldl (fun (acc : List Nat × Nat) n => (acc.1 ++ [acc.2], acc.2 + n)) ([], 0)).1

/-- A new instance in the lowest free slot (R379). -/
def State.createInst (s : State) (slot dom : Nat) (v : W64) (ns : List Node) (rec_ : W64) (recDom : Nat) : Nat × State :=
  let gen := mrd 0 s.sched.gens slot
  let i : Inst := { gen := gen, slot := slot, accepted := s.sched.accepts, domain := dom, nodes := ns, tiles := [], base := bases (ns.map fun n => nodeTiles n.words), prioOvr := if bits v 63 1 = 1 then some (bits v 52 6) else none, recVa := rec_, recDomain := recDom, nkill := 0, exitor := 0 }
  let i := i.settleTiles s.sched.stamp
  (i.id, { s with sched := { s.sched with insts := s.sched.insts ++ [i], gens := mwr 0 s.sched.gens slot ((gen + 1) % 2 ^ 24), accepts := s.sched.accepts + 1, stamp := s.sched.stamp + 1 } })

/-- R378: the status and the instance identifier of a launch. -/
def State.accept (s : State) (r : LaunchReq) : (Nat × Nat) × State :=
  match s.sched.readGraph (bits r.v 0 12) with
  | none => ((1, 0), s)
  | some (dom, ns) =>
    let pdom := if r.core.isSome then r.domain else dom
    match s.readPatch pdom r.v ns.length with
    | (none, s) => ((2, 0), s)
    | (some (rec_, es), s) =>
      if (s.sched.root dom).isNone then ((3, 0), s)
      else if ns.any (fun n => nodeGang n.words > s.gangLimit) then ((4, 0), s)
      else match (List.range 256).find? fun j => !(s.sched.insts.any fun i => i.slot = j) with
        | none => ((5, 0), s)
        | some slot =>
          let (id, s) := s.createInst slot dom r.v (es.foldl patchNode ns) rec_ pdom
          ((0, id), s)

/-- R376: LSTAT after a host launch. -/
def Hsk.launched (h : Hsk) (st id : Nat) : Hsk :=
  { h with lstat := BitVec.ofNat 64 (st * 2 ^ 56 + bits h.lstat 33 1 * 2 ^ 33 + 2 ^ 32 + id) }.hintBit 2

/-- The oldest launch leaves the queue and the oldest waiting core launch takes its entry (R375). -/
def Sched.popLaunch (s : Sched) : Sched :=
  match s.waiting with
  | w :: t => { s with launches := s.launches.drop 1 ++ [w], waiting := t, pinned := none }
  | [] => { s with launches := s.launches.drop 1, pinned := none }

/-- LAUNCH_ACCEPT (R375, R378): the oldest launch is processed; with `flag` the scheduler only begins to read its graph, which pins it
(R370). -/
def execLaunchAccept (s : State) : Out :=
  match s.sched.launches with
  | [] => .next s
  | r :: _ =>
    if s.cur.flag then .next { s with sched := { s.sched with pinned := some (bits r.v 0 12) } }
    else
      let ((st, id), s) := s.accept r
      let s := { s with sched := s.sched.popLaunch }
      .next (match r.core with
        | none => s.modHk fun h => h.launched st id
        | some c => s.amoResult c r.pend (BitVec.ofNat 64 (st * 2 ^ 56 + id)))

/-- LAUNCH_WRITE (R375, R410): a host write of `LAUNCH`; a full queue, or a device that is not ready, discards it and sets LOST. -/
def execLaunchWrite (s : State) : Out :=
  if !s.hk.ready || s.sched.launches.length ≥ 64 then .next (s.modHk fun h => { h with lstat := h.lstat ||| 0x200000000 })
  else .next { s with sched := { s.sched with launches := s.sched.launches ++ [{ v := s.cur.v, core := none, pend := 0, domain := 0 }] } }

/-- What a host read of a register returns; the request completes normally. -/
def Hsk.answer (h : Hsk) (v : W64) : Hsk := { h with lastRead := leBytes 8 v.toNat, lastStatus := 0 }

/-- LSTAT_READ (R376, R5): every field is read and cleared. -/
def execLstatRead (s : State) : Out := .next (s.modHk fun h => { h.answer h.lstat with lstat := 0 })

/-! ### Completion (R379) -/

/-- Whether every tile of an instance is done or killed. -/
def Inst.ended (i : Inst) : Bool :=
  (List.range i.nodes.length).all fun n => (List.range (i.count n)).all fun t => (i.tile n t).st = .done || (i.tile n t).st = .killed

/-- INSTANCE_COMPLETE (R379): instance slot k has ended: its record is written, word 1 before word 0, and its slot is free. -/
def execInstanceComplete (s : State) : Out :=
  match s.sched.insts.find? fun i => i.slot = s.cur.k with
  | none => .next s
  | some i =>
    if !i.ended then .next s
    else
      let s := { s with sched := { s.sched with insts := s.sched.insts.filter fun (x : Inst) => x.slot ≠ i.slot } }
      if i.recVa = 0 then .next s
      else match s.transX i.recDomain .store i.recVa.toNat 16 with
        | (.ok segs, s) =>
          let (m, r1) := s.mem.writeSegs (sliceSegs 8 8 segs) (leBytes 8 (i.nkill % 2 ^ 32 * 2 ^ 32 + i.exitor.toNat)) false
          let (m, r0) := m.writeSegs (sliceSegs 0 8 segs) (leBytes 8 (i.id * 2 ^ 32 + 1)) false
          .next ({ s with mem := m }.addRecs (inDomain i.recDomain (r1 ++ r0)))
        | (.fault c d _, s) => .next (s.addRec { event := 0x07, sev := 2, detail := d, cause := c, addr := BitVec.ofNat 64 i.id, synd := c.setWidth 64, unit := 13, domain := i.recDomain })
        | (.miss, s) => .next s

end Sys2Proof.Machine
end

