-- ==== Sys2Proof/Machine/Place.lean ====
section
/-! DEFINITION. Place: the dispatcher: the choice of a tile or gang (spec R380 to R382), placement and its loads (R383), standby and
static fills (R384 to R387), and pre-emption (R389 to R391). -/

namespace Sys2Proof.Machine

open Sys2Proof

/-! ### Ready tiles and gangs (R380 to R382, R391) -/

/-- What is placed at one dispatch event: a tile, a gang, or the discarded part of a gang. -/
structure ReadyUnit where
  inst : Nat
  accepted : Nat
  node : Nat
  tiles : List Nat
  level : Nat
  head : Nat
  since : Nat
  wait : Nat
  deriving DecidableEq, Repr

/-- Whether the task of a core is being discarded, or has been asked to be. -/
def Core.discardPending (k : Core) : Bool :=
  match k.ending, k.asked with
  | some (.discarded _), _ => true
  | none, some (.discarded _) => true
  | _, _ => false

/-- The level at which tiles of a node start (R380). -/
def Inst.startLevel (i : Inst) (n : Nat) : Nat := i.prioOvr.getD (bits ((i.words n).getD 0 0) 56 6)

/-- The unit of the gang that starts at tile t, once every member that is not placed or done is queued (R382, R391). -/
def State.readyUnit (s : State) (i : Inst) (n t : Nat) : Option ReadyUnit :=
  let ms := (i.gangOf n t).map fun m => (m, i.tile n m)
  let pend := ms.filter fun m => m.2.st = .queued || m.2.st = .preloaded
  let held := ms.any (fun m => m.2.st = .waiting || m.2.st = .discarding || m.2.st = .killed) ||
    s.cores.toList.any fun (k : Core) => k.discardPending && k.task.any fun (x : Task) => x.inst = i.slot && x.node = n && ms.any fun m => m.1 = x.tile
  if pend.isEmpty || held then none
  else
    let most := fun (f : Tile → Nat) => pend.foldl (fun a m => max a (f m.2)) 0
    let fallen := most Tile.fallen
    some ⟨i.slot, i.accepted, n, pend.map Prod.fst, i.startLevel n - fallen, if fallen = 0 then most Tile.head else 0, most Tile.since, most Tile.wait⟩

def State.readyUnits (s : State) : List ReadyUnit :=
  s.sched.insts.flatMap fun i => (List.range i.nodes.length).flatMap fun n =>
    let g := nodeGang (i.words n)
    (List.range (i.count n / g)).filterMap fun j => s.readyUnit i n (j * g)

/-- The least by a key, the first among equals. -/
def leastBy {β : Type} (lt : β → β → Bool) : List β → Option β
  | [] => none
  | a :: t => match leastBy lt t with
    | none => some a
    | some b => if lt b a then some b else some a

/-- R380, R391: the unit to place next: the lowest effective level; at it the tiles put at its head, the last one first; then
instances round-robin in order of acceptance, and in the instance the lowest node and linear index. -/
def State.chooseUnit (s : State) : Option ReadyUnit :=
  let all := s.readyUnits
  match leastBy (fun (a b : ReadyUnit) => a.level < b.level) all with
  | none => none
  | some u =>
    let here := all.filter fun (x : ReadyUnit) => x.level = u.level
    match leastBy (fun (a b : ReadyUnit) => b.head < a.head) (here.filter fun (x : ReadyUnit) => x.head ≠ 0) with
    | some x => some x
    | none =>
      let last := mrd 0 s.sched.rr u.level
      let next := match here.filter fun (x : ReadyUnit) => x.accepted ≥ last with | [] => here | l => l
      leastBy (fun (a b : ReadyUnit) => a.accepted < b.accepted || (a.accepted = b.accepted && (a.node < b.node ||
        (a.node = b.node && a.tiles.headD 0 < b.tiles.headD 0)))) next

/-! ### Promotion (R381) -/

def State.modTiles (s : State) (u : ReadyUnit) (f : Tile → Tile) : State :=
  { s with sched := { s.sched with insts := s.sched.insts.map fun (i : Inst) => if i.slot = u.inst then u.tiles.foldl (fun i t => i.modTile u.node t f) i else i } }

/-- R374, R381: every ready tile, those of a gang not yet wholly ready included, as a unit of its own. -/
def State.readyTiles (s : State) : List ReadyUnit :=
  s.sched.insts.flatMap fun i => (List.range i.nodes.length).flatMap fun n =>
    (List.range (i.count n)).filterMap fun t =>
      let x := i.tile n t
      if x.st = .queued || x.st = .preloaded then some ⟨i.slot, i.accepted, n, [t], i.startLevel n - x.fallen, x.head, x.since, x.wait⟩ else none

/-- The tiles whose wait count has reached THRESH. -/
def State.promotionsDue (s : State) : List ReadyUnit := s.readyTiles.filter fun (u : ReadyUnit) => u.wait ≥ s.hk.age.toNat

/-- A dispatch event that placed another tile: the oldest ready tile of each instance and level has waited one event more. -/
def State.ageUnits (s : State) : State :=
  let all := s.readyTiles
  let older := fun (a b : ReadyUnit) => a.since < b.since || (a.since = b.since && (a.node < b.node || (a.node = b.node && a.tiles.headD 0 < b.tiles.headD 0)))
  (all.filter fun (u : ReadyUnit) => !(all.any fun (x : ReadyUnit) => x.inst = u.inst && x.level = u.level && older x u)).foldl
    (fun s u => s.modTiles u fun (t : Tile) => { t with wait := t.wait + 1 }) s

/-- AGE_PROMOTION (R381): the due tile k (modulo their number) falls by one level, not below 0, and its count restarts. -/
def execAgePromotion (s : State) : Out :=
  let due := s.promotionsDue
  match due[s.cur.k % due.length]? with
  | none => .next s
  | some u => .next (s.modTiles u fun (t : Tile) => { t with wait := 0, fallen := if u.level = 0 then t.fallen else t.fallen + 1 })

/-! ### Cores that take a task (R382, R425) -/

/-- R27: a grove whose LOCK and ACTIVE differ takes no task until it has paired or unpaired. -/
def State.pairing (s : State) (g : Fin 8) : Bool := s.hk.protLock.getLsbD g.val ≠ s.hk.protActive.getLsbD g.val

/-- Whether the dispatcher may place a task on a core now: no service action waits for it or, in a lockstep pair, for its odd core (R425). -/
def State.canPlace (s : State) (c : CoreId) : Bool :=
  let k := s.core c
  let named := fun (n : Nat) => s.hk.swapReq.any (fun r => r.1 = n) || s.hk.macRetReq.any fun r => r.1 = n
  k.task.isNone && k.ending.isNone && !s.absent c && !s.pairing (groveOf c) && !named c.val && !(s.lockstep (groveOf c) && named (c.val / 2 * 2 + 1))

def State.freeCores (s : State) : List CoreId := (List.finRange 64).filter fun c => s.canPlace c

/-! ### Loads (R383, R385, R386) -/

/-- R79: scratch, the accumulator store, macros in scratch mode and, with them, the `tt` tiles (R295) are zeroed. -/
def Core.zeroStores (k : Core) : Core :=
  { k with
    loc := { Local.zero with paired := k.loc.paired }
    tr.tiles := []
    eng.cim := ({ k.eng.cim with macros := k.eng.cim.macros.map fun (e : Nat × Macro) => if e.2.scratch then (e.1, { e.2 with h0 := { e.2.h0 with cells := [] }, h1 := { e.2.h1 with cells := [] } }) else e } : Cim).tidy }

/-! ### The copies of a lockstep pair (R403) -/

/-- The entries of a store that changed since the pair was formed, in the copy of the odd core. -/
def mergeChanged {β : Type} [DecidableEq β] (d : β) (base now own : SMap β) : SMap β :=
  ((base.map Prod.fst ++ now.map Prod.fst).eraseDups).foldl (fun m i => if mrd d now i = mrd d base i then m else mwr d m i (mrd d now i)) own

/-- R403: the copies of the odd core k once they have taken what the even core e has written since the pair was formed: scratch and accumulator
rows as they were written; a `tt` tile, a macro, a store word or the activation latch where it holds another value than then (log 46). Its logical
macro map stays its own (R27, R64). -/
def Core.followed (k e : Core) : Core :=
  let (bytes, rows) := e.loc.paired.getD ([], [])
  let (tiles, base) := e.pairBase.getD (e.tr.tiles, e.eng.cim)
  let full := bytes.flatMap fun p => ((pieces 8 (p.2 + 1) p.1 p.2).filter fun q => q.2 = 8).map fun q => q.1 / 8
  let met := ((bytes.flatMap fun p => bankWords p.1 p.2).eraseDups).filter fun w => e.loc.badWords.contains w
  let stays := fun w => !full.contains w && !met.contains w
  let x := k.eng.cim
  let y := e.eng.cim
  let macros := (List.range 128).foldl (fun (m : SMap Macro) i =>
    if { y.macro' i with retired := false } = { base.macro' i with retired := false } then m
    else mwr {} m i { y.macro' i with retired := (x.macro' i).retired }) x.macros
  let latched := decide (y.latch ≠ base.latch ∨ y.latchQ ≠ base.latchQ ∨ y.latchK ≠ base.latchK)
  { k with
    loc.scratch := bytes.foldl (fun m p => wrBytes m p.1 (rdBytes e.loc.scratch p.1 p.2)) k.loc.scratch
    loc.badWords := k.loc.badWords.filter stays ++ met
    loc.ceWords := k.loc.ceWords.filter fun w => !full.contains w
    loc.acc := rows.foldl (fun m r => mwr RowT.zero m r (mrd RowT.zero e.loc.acc r)) k.loc.acc
    loc.badRows := k.loc.badRows.filter (fun r => !rows.contains r) ++ (rows.eraseDups.filter fun r => e.loc.badRows.contains r)
    loc.ceRows := k.loc.ceRows.filter fun r => !rows.contains r
    tr.tiles := mergeChanged RowT.zero tiles e.tr.tiles k.tr.tiles
    eng.cim := { x with
      macros := macros
      store := mergeChanged 0 base.store y.store x.store
      latch := if latched then y.latch else x.latch
      latchQ := if latched then y.latchQ else x.latchQ
      latchK := if latched then y.latchK else x.latchK
      latchBa := if latched then y.latchBa else x.latchBa } }

/-- The odd core of the pair of a core, where its grove is in lockstep. -/
def State.shadowOf (s : State) (c : CoreId) : Option CoreId := if s.lockstep (groveOf c) then some (coreId (c.val / 2 * 2 + 1)) else none

/-- The even core of a pair from here on keeps what its odd core has to follow. -/
def Core.leads (k : Core) : Core := { k with loc.paired := some ([], []), pairBase := some (k.tr.tiles, k.eng.cim) }

/-- Both copies of a pair brought up to date (R403). -/
def State.syncPair (s : State) (c : CoreId) : State :=
  match s.shadowOf c with
  | some o =>
    let e := coreId (c.val / 2 * 2)
    (s.modCore o fun k => k.followed (s.core e)).modCore e Core.leads
  | none => s

/-- The address of an offset of a core's trap Glade (R93). -/
def trapPa (c : CoreId) (off : Nat) : Nat := 0x7FC00000 + c.val * 65536 + off

/-- Bytes of a core's trap Glade written by the dispatcher or housekeeping (R397). -/
def State.writeTrapGlade (s : State) (c : CoreId) (off : Nat) (bs : List Byte) : State :=
  let (m, rs) := s.mem.writeAt 14 0 0 (trapPa c off) bs false
  { s with mem := m }.addRecs rs

/-- R383: an image of bytes read for a domain and stored from a local offset. -/
def State.loadScratch (s : State) (c : CoreId) (dom va off n : Nat) : Bool × State :=
  match s.readVa dom .load va n with
  | (some b, s) => (true, s.modCore c fun k => k.storeLocal off b false)
  | (none, s) => (false, s)

/-- R383: an image of rows stored from a row, tags zero. -/
def State.loadRows (s : State) (c : CoreId) (dom va row : Nat) : Nat → Bool × State
  | 0 => (true, s)
  | n + 1 => match s.readVa dom .load va 512 with
    | (some b, s) => (s.modCore c fun k => k.setRow row ⟨rowOfBytes b, 0⟩).loadRows c dom (va + 512) (row + 1) n
    | (none, s) => (false, s)

/-- The macro and bytes of the entries of a static fill table, each with whether its word could not be read (R357, R386); `none` when a
translation faults. -/
def State.staticEntries (s : State) (c : CoreId) (dom va first : Nat) : Nat → Option (List (Nat × List (Byte × Bool))) × State
  | 0 => (some [], s)
  | n + 1 =>
    let r := s.fillReads c (.global dom) 1 [(va, 128)]
    if r.err.isSome then (none, r.st)
    else match r.st.staticEntries c dom (va + 128) (first + 1) n with
      | (none, s) => (none, s)
      | (some l, s) => (some ((first, r.bytes va 128) :: l), s)

/-- The configuration of a static fill entry: only the weight fields are read. -/
def staticCfg (w : W64) : CimCfg :=
  let c := ({} : CimCfg).withFields (w.extractLsb' 24 34)
  { ({} : CimCfg) with wfmt := c.wfmt, ww := c.ww, wsg := c.wsg, wbs := c.wbs, cke := c.cke }

/-- The words of an entry. -/
def entryWords (l : List (Byte × Bool)) : List W64 := (List.range 16).map (descWord l)

/-- R357, R386: the words of an entry that take part and cannot be read: of KIND 2 words 0, 5, 8 and 12. -/
def entryUnread (l : List (Byte × Bool)) : List Nat :=
  (if !descBad l 0 && (FillDesc.ofWords (entryWords l)).kind = 2 then [5, 8, 12] else List.range 16).filter (descBad l)

/-- R361, R386: the fields on which consecutive entries of one tile group agree; `none` for what joins no group. -/
def staticKey (l : List (Byte × Bool)) : Option (List Nat) :=
  let w := entryWords l
  let d := FillDesc.ofWords w
  if d.kind ≠ 1 || [0, 2, 8, 9, 10].any (descBad l) then none
  else some [if d.img then 1 else 0, d.ntm1, d.pats, d.eps, d.kd, (w.getD 2 0).toNat, (w.getD 8 0).toNat, (w.getD 9 0).toNat, (w.getD 10 0).toNat]

/-- Consecutive sparse entries of one key, together; every other entry alone. -/
def staticGroups : List (Nat × List (Byte × Bool)) → List (List (Nat × List (Byte × Bool)))
  | [] => []
  | e :: t => match staticGroups t with
    | (f :: g) :: r =>
      if (staticKey e.2).isSome && staticKey e.2 = staticKey f.2 then (e :: f :: g) :: r else [e] :: (f :: g) :: r
    | r => [e] :: r

/-- R386: whether a tagged address of an entry is malformed: its tag is not `0x0` or a must-be-zero bit is set. -/
def badTagged (w : W64) : Bool := bits w 56 8 ≠ 0

/-- One static fill or tile group, performed as the Grinder does (R385, R386). -/
def State.staticFill (s : State) (c : CoreId) (dom : Nat) (l : List (Nat × List (Byte × Bool))) : State :=
  match l with
  | [] => s
  | (_, b) :: _ =>
    let w := entryWords b
    let cfg := staticCfg (w.getD 8 0)
    let d := FillDesc.ofWords w
    let opt := fun (v : W64) => if v = 0 || badTagged v then none else some v.toNat
    let jobs : List FillJob := l.map fun e =>
      let x := entryWords e.2
      ⟨e.1, x.take 8, entryUnread e.2, opt (x.getD 11 0), if descBad e.2 12 then none else opt (x.getD 12 0), 0⟩
    let mem := FillMem.global dom
    let reserved := l.any fun e => ((entryWords e.2).drop 13).any (· ≠ 0)
    let bad := l.any fun e =>
      let x := entryWords e.2
      badTagged (x.getD 12 0) || (d.kind ≠ 2 && (badTagged (x.getD 9 0) || (cfg.wbs ≠ 0 && badTagged (x.getD 10 0)))) ||
      (d.kind = 1 && (FillDesc.ofWords x).term = 0 && badTagged (x.getD 11 0))
    let merr := jobs.any fun j => !j.badWords.isEmpty
    let (o, s) := if reserved then s.failFills cfg 1 merr jobs
      else if bad && !merr && !(jobs.any fun j => fillMalformed j.words cfg) then s.failFills cfg 6 false jobs
      else s.grind c mem cfg (w.getD 9 0).toNat (w.getD 10 0).toNat jobs
    s.flushFill c mem o

/-- R385: every static fill of a node; false when an entry cannot be read. -/
def State.staticFills (s : State) (c : CoreId) (dom : Nat) (w : List W64) : Bool × State :=
  match s.staticEntries c dom (w.getD 12 0).toNat (bits (w.getD 11 0) 16 7) (bits (w.getD 13 0) 0 8) with
  | (none, s) => (false, s)
  | (some l, s) => (true, (staticGroups l).foldl (fun s g => s.staticFill c dom g) s)

/-- R383: the images, in order, and the static fills where no standby performed them; false when a load fails. -/
def State.loadTask (s : State) (c : CoreId) (dom : Nat) (w : List W64) (preloaded : Bool) : Bool × State :=
  let g := fun i lo n => bits (w.getD i 0) lo n
  let (e, s) := if g 6 63 1 = 1 then s.mpWords c dom (fun _ => false) (fun _ => none) (g 5 0 64) (g 6 0 12) 0 (g 6 16 12 + 1) else (none, s)
  if e.isSome then (false, s)
  else
    let (a, s) := if g 8 63 1 = 1 then s.loadScratch c dom (g 7 0 64) (g 8 32 23) (g 8 0 23) else (true, s)
    if !a then (false, s)
    else
      let (b, s) := if g 10 63 1 = 1 then s.loadRows c dom (g 9 0 64) (g 10 32 13) (g 10 0 13 + 1) else (true, s)
      if !b then (false, s) else if preloaded then (true, s) else s.staticFills c dom w

/-! ### Placement (R383, R308) -/

/-- The engine at dispatch: configurations at their reset values, bank modes kept, every macro dense, no scale codes (R323, R326,
R338, R342). -/
def Cim.dispatched (x : Cim) : Cim :=
  ({ x with
    active := {}, pending := {}, scaleLo := none, scaleHi := none, queue := [], run := none, fails := [], fills := [], owed := [], ent := 0
    stp := false, mpc := 0, cause := 0, mlc := 0, ckmis := 0, ckskp := 0, mpload := [], mpDone := [], mpGot := [], out := none
    macros := x.macros.map fun (e : Nat × Macro) => (e.1, { e.2 with pat := 0, pendScratch := e.2.scratch }) } : Cim).tidy

/-- The registers of R383 and R260 for tile t of a node. -/
def Core.dispatchRegs (k : Core) (i : Inst) (n t : Nat) (x : Tile) (task : Task) (profile : Bool) : Core :=
  let w := i.words n
  let g := nodeGang w
  let xs := bits (w.getD 2 0) 0 20 + 1
  let ys := bits (w.getD 2 0) 20 20 + 1
  { k with
    regs := { Regs.zero with x := Vector.ofFn (fun (r : Fin 64) => if r.val ≥ 48 then w.getD (16 + (r.val - 48)) 0 else if r.val = 47 then BitVec.ofNat 64 ((if x.lastOver then 1 else 0) + (if x.rerun then 2 else 0)) else 0), srseed := w.getD 4 0 }
    pc := w.getD 1 0
    ctrl := { awb := 0, tx := BitVec.ofNat 20 (t % xs), ty := BitVec.ofNat 20 (t / xs % ys), tz := BitVec.ofNat 20 (t / xs / ys), taskid := BitVec.ofNat 32 (i.slot % 16 * 2 ^ 28 + n * 2 ^ 20 + t), member := BitVec.ofNat 6 (t % g), sizem1 := BitVec.ofNat 6 (g - 1), latprof := profile, cyc := k.ctrl.cyc }
    traps := { TrapRegs.reset with tvec := k.traps.tvec }
    tr := { Transport.reset with tiles := k.tr.tiles }
    mode := { k.mode with handler := false, entrySeq := 0, stackSeq := none, stopped := false, stepPc := none, retries := 0 }
    loc.written := []
    ms := { MemSide.reset with l1 := k.ms.l1, fifo := k.ms.fifo, tlb := k.ms.tlb, ids := k.ms.ids }
    eng := { Engines.reset with nmSkip := k.eng.nmSkip, cim := k.eng.cim.dispatched }
    reports := [], ending := none, asked := none, task := some task }

/-- R40: what the translations of a task fault with that starts under a domain. -/
def Sched.noContext (s : Sched) (dom : Nat) : Option Byte :=
  match s.root dom with
  | none => some cXlinval
  | some t => if t > 0x7FFFFFFFFF then some cXlrange else none

/-- R383: tile t of a node placed on a core, any other standby for it invalidated (R387): zeroing where the domain differs, registers, the handler word, loads, and the dispatch
snapshot; a failed load kills the task with `DISPLOAD` before its first bundle. -/
def State.placeTile (s : State) (c : CoreId) (i : Inst) (n t : Nat) : State :=
  let w := i.words n
  let x := i.tile n t
  let mine := fun (b : Standby) => b.inst = i.slot && b.gen = i.gen && b.node = n && b.tile = t
  let used := (s.core c).standby.any mine
  let s := if used then s.modCore c fun k => { k with standby := none } else s.dropStandby c
  let s := ((List.finRange 64).filter fun d => d ≠ c && (s.core d).standby.any mine).foldl State.dropStandby s
  let cs := c :: (s.shadowOf c).toList
  let changed := cs.any fun d => match (s.core d).lastDomain with | some x => x != i.domain | none => false
  let s := if changed then ((cs.foldl (fun s d => s.modCore d Core.zeroStores) (s.syncPair c)).syncPair c).writeTrapGlade c 0x8000 (List.replicate 0x8000 0) else s
  let s := (s.shadowOf c).toList.foldl (fun s o => s.modCore o fun k => { k with lastDomain := some i.domain }) s
  let task : Task := { inst := i.slot, node := n, tile := t, domain := i.domain, profB := bits (w.getD 0 0) 62 1 = 1, idem := bits (w.getD 0 0) 63 1 = 1, prio := i.startLevel n, budget := bits (w.getD 3 0) 0 48, used := 0, tookBudget := false, grace := 0, stamp := s.sched.stamp, noCtx := s.sched.noContext i.domain, gang := i.slot + 256 * (n + 256 * (t / nodeGang w)) }
  let s := s.modCore c fun k => k.dispatchRegs i n t x task (Config.envelopeProfile s.hk.envelope)
  let s := s.modTile task fun (y : Tile) => { y with st := .running, fallen := 0, wait := 0, head := 0 }
  let s := s.writeTrapGlade c 0x8000 (List.replicate 8 0)
  let (ok, s) := s.loadTask c i.domain w used
  let s := s.modCore c fun k => { k.takeSnapshot k.pc with seq := k.seq + 1, mode.openSeq := k.seq + 1 }
  if ok then s
  else s.modCore c fun k => { k with traps := k.traps.record { code := 0x30 }, ending := some .killed }

/-- R308: the gang mask of a gang, set in each of its resident members. -/
def State.setGangMask (s : State) (g : Nat) : State :=
  let on := (List.finRange 64).filter fun c => (s.core c).task.any fun (t : Task) => t.gang = g
  let m := on.foldl (fun (m : W64) c => m ||| 1 <<< c.val) 0
  on.foldl (fun s c => s.modCore c fun k => { k with eng.gangMask := m }) s

/-- The cores a unit takes: those named that are free and distinct, then the lowest others (R382 leaves the choice open). -/
def State.takeCores (s : State) (picks : List CoreId) (g : Nat) : List CoreId :=
  let free := s.freeCores
  let named := (picks.filter fun c => free.contains c).eraseDups
  (named ++ free.filter fun c => !named.contains c).take g

/-- A unit placed: its tasks, its gang mask, the turn of its instance, and the wait of the others (R308, R380, R381). -/
def State.placeUnit (s : State) (u : ReadyUnit) (cs : List CoreId) : State :=
  match s.sched.insts.find? fun i => i.slot = u.inst with
  | none => s
  | some i =>
    let s := { s with sched := { s.sched with stamp := s.sched.stamp + 1, rr := mwr 0 s.sched.rr u.level (u.accepted + 1) } }
    let s := (u.tiles.zip cs).foldl (fun s p => s.placeTile p.2 i u.node p.1) s
    let t := u.tiles.headD 0
    (s.setGangMask (i.slot + 256 * (u.node + 256 * (t / nodeGang (i.words u.node))))).ageUnits

/-! ### Pre-emption (R389 to R391) -/

/-- The running members of the gang of a task: those that have not begun to end. -/
def State.runningGang (s : State) (g : Nat) : List CoreId :=
  (List.finRange 64).filter fun c => let k := s.core c; k.ending.isNone && k.asked.isNone && k.task.any fun (t : Task) => t.gang = g

/-- The victims of R390 in order, with the cores each frees, while fewer than `need` cores are at hand. -/
def State.victims (s : State) (level need : Nat) : Nat → Nat → List CoreId → List (List CoreId)
  | 0, _, _ => []
  | fuel + 1, have_, cands =>
    if have_ ≥ need then []
    else
      let key := fun c => match (s.core c).task with | some t => (t.prio, t.stamp, t.gang) | none => (0, 0, 0)
      match leastBy (fun a b => (key b).1 < (key a).1 || ((key a).1 = (key b).1 && (key b).2.1 < (key a).2.1)) cands with
      | none => []
      | some v =>
        let gang := s.runningGang (key v).2.2
        gang :: s.victims level need fuel (have_ + gang.length) (cands.filter fun c => !gang.contains c)

/-- R390: a unit that finds too few cores: where free cores, cores whose tasks are being discarded and successive victims make up its
size, the next victim is asked to end. One victim at a time: the next waits until the discard of the last took effect (R391). -/
def State.preempt (s : State) (u : ReadyUnit) : State :=
  let need := u.tiles.length
  let cores := List.finRange 64
  let have_ := s.freeCores.length + (cores.filter fun c => (s.core c).discardPending).length
  let outstanding := cores.any fun c => (s.core c).discardPending && (s.core c).ending.isNone
  if have_ ≥ need || outstanding then s
  else
    let cands := cores.filter fun c => let k := s.core c; k.ending.isNone && k.asked.isNone && k.task.any fun (t : Task) => t.idem && t.prio > u.level
    let vs := s.victims u.level need 64 have_ cands
    if have_ + (vs.foldl (fun n v => n + v.length) 0) < need then s
    else (vs.headD []).foldl (fun s c => s.modCore c fun k => { k with asked := some (.discarded false) }) s

/-- DISPATCH (R380, R382, R390): one dispatch event; `picks` says which free cores the members take. Nothing is placed during an
envelope change (R24) or before a promotion that is due (R381). -/
def execDispatch (picks : List CoreId) (s : State) : Out :=
  if s.hk.envPend || !s.hk.ready || !s.promotionsDue.isEmpty then .next s
  else match s.chooseUnit with
    | none => .next s
    | some u =>
      if s.freeCores.length ≥ u.tiles.length then .next (s.placeUnit u (s.takeCores picks u.tiles.length)) else .next (s.preempt u)

/-- DISCARD (R391): the discard or kill asked of the core takes effect at its bundle boundary; an issued `end` bundle makes the task done
instead. -/
def execDiscard (s : State) : Out :=
  let c := s.cur.core
  match (s.core c).asked with
  | some e => .next (if s.canIssue c && !(s.core c).endIssued then s.endTask c e else s)
  | none => .next s

/-! ### Standby (R384, R385) -/

def disjointRanges (a n b m : Nat) : Bool := n = 0 || m = 0 || a + n ≤ b || b + m ≤ a

/-- R385: bytes of a virtual address fetched into Canopy, where it holds them; a fault ends the fetch. -/
def State.prefetchVa (s : State) (dom va n : Nat) : State :=
  ((pieces 128 (n + 1) va n).foldl (fun (acc : Bool × State) p =>
    if !acc.1 then acc else
    match acc.2.transX dom .load p.1 p.2 with
    | (.ok segs, s) =>
      if segs.any fun g => g.cls = 3 || (g.home ≠ 0 && g.home ≠ 14) then (true, s)
      else let r := s.mem.readSegs segs; (true, { s with mem := r.mem }.addRecs (inDomain dom r.recs))
    | (_, s) => (false, s)) (true, s)).2

/-- STANDBY_PREPARE (R384): the core's next task is chosen as R380 would, its standby macros are set aside and its static fills
performed, and its microprogram image and `v` bytes of its bundles fetched into Canopy (R385). `k2` names the member where the unit is a
gang. -/
def execStandbyPrepare (s : State) : Out :=
  let c := s.cur.core
  let k := s.core c
  match k.task, s.chooseUnit with
  | some t, some u =>
    match s.sched.insts.find? (fun i => i.slot = u.inst), s.sched.insts.find? fun i => i.slot = t.inst with
    | some i, some j =>
      let w := i.words u.node
      let v := j.words t.node
      let g := fun (w : List W64) lo n => bits (w.getD 11 0) lo n
      let tile := u.tiles.getD (s.cur.k2 % u.tiles.length) 0
      let first := g w 16 7
      let n := g w 24 8
      let compute := (List.range n).all fun m => !(k.eng.cim.macro' (first + m)).scratch
      if k.standby.isSome || k.ending.isSome || i.domain ≠ t.domain || (i.tile u.node tile).st ≠ .queued || s.freeCores.length + 1 < u.tiles.length ||
          !disjointRanges (g w 32 10) (g w 48 11) (g v 32 10) (g v 48 11) || !disjointRanges first n (g v 16 7) (g v 24 8) || !compute then .next s
      else
        let old := (List.range (bits (w.getD 13 0) 0 8)).map fun m => (first + m, (k.eng.cim.macro' (first + m)).half 1)
        let s := s.prefetchVa i.domain (w.getD 1 0).toNat (s.cur.v.toNat % 2 ^ 24)
        let s := if bits (w.getD 6 0) 63 1 = 1 then s.prefetchVa i.domain (w.getD 5 0).toNat (8 * (bits (w.getD 6 0) 16 12 + 1)) else s
        match s.staticFills c i.domain w with
        | (false, s) => .next s
        | (true, s) =>
          let s := s.modCore c fun k => { k with standby := some ⟨i.slot, i.gen, u.node, tile, i.domain, first, n, old⟩ }
          .next (s.modTile { (default : Task) with inst := i.slot, node := u.node, tile := tile } fun (x : Tile) => { x with st := .preloaded })
    | _, _ => .next s
  | _, _ => .next s

end Sys2Proof.Machine
end

