-- ==== Sys2Proof/Machine/Ends.lean ====
section
/-! DEFINITION. Ends: the end of a task (spec R129, R75, R142, R155, R318, R353, R374, R392), budgets (R388), and the boundary stops of
debug (R409). -/

namespace Sys2Proof.Machine

open Sys2Proof

/-! ### What an ended task still has under way (R129) -/

/-- The byte count that a copy has reached: the indexes written without a gap (R123, R146). -/
def CopyEnt.reached (e : CopyEnt) : Nat :=
  ((List.range e.moved.length).takeWhile fun i => e.moved.contains i).length

/-- Copies that end with `COPYSTOP`: queued packets that the task accepted, and packets that hold or wait for a slot (R142, R155). -/
def stopCopies (l : List CopyEnt) : List CopyEnt :=
  l.map fun (e : CopyEnt) =>
    if e.early.isNone && (e.queue.isSome || (Packet.ofWords e.words).op = 3) then { e with early := some (5, 0, e.reached) } else e

/-- Steps 1 and 3 of R129: withheld effects are discarded, and what the end of a task stops is stopped. -/
def State.stopTask (s : State) (c : CoreId) (e : EndKind) : State :=
  let s := s.modCore c fun k =>
    let k : Core := { k with ms.wh := [], ms.walks := [], ms.releasing := k.ms.releasing.filter Release.committed, ms.pend := (k.ms.pend.filter fun p => k.ms.comm.any fun w => w.id = p.id).map fun (p : Pend) => { p with dead := true }, eng.copies := stopCopies k.eng.copies }
    match e with
    | .done _ => k
    | _ => k.stopCim
  s.failColls c

/-- Whether every effect of the task is performed and every engine operation has ended (R129 steps 2 and 3). -/
def State.taskQuiet (s : State) (c : CoreId) : Bool :=
  let k := s.core c
  let e := k.eng
  k.ms.comm.isEmpty && k.ms.releasing.isNone && k.ms.refusals.isEmpty && e.copies.isEmpty && e.cim.run.isNone && e.cim.queue.isEmpty && e.cim.fills.isEmpty &&
  e.cim.mpload.isEmpty && e.nfences.isEmpty && k.nearPending.isEmpty && !(s.sched.colls.any fun r => r.core = c)

/-! ### Buffers (R75) -/

/-- The end events of R75 at one home core: the holder's buffers return, the owner's are freed. -/
def Core.endBuffers (k : Core) (h c : CoreId) : Core :=
  k.own.desc.foldl (fun (k : Core) e =>
    let d := e.2
    if d.st = 0 then k
    else if h = c then k.putBuffer e.1 d { d with st := 0, hcore := 0, mask := 0, gen := d.gen + 1 }
    else if d.hcore = c.val then k.putBuffer e.1 d { d with st := 1, hcore := h.val, mask := 0 }
    else k) k

def State.endBuffers (s : State) (c : CoreId) : State :=
  { s with cores := s.cores.zipIdx.map fun (p : Core × Nat) => p.1.endBuffers (coreId p.2) c }

/-! ### Tiles at the end of their task (R374, R379, R391, R392) -/

/-- R392: the members of a gang on other cores are killed with it: those that run are asked to end, and a discarded one that has not
ended is killed. -/
def State.killGangCores (s : State) (g : Nat) : State :=
  { s with cores := s.cores.map fun (k : Core) =>
      if k.task.any (fun (t : Task) => t.gang = g) then
        match k.ending with
        | none => { k with asked := some .killed }
        | some (.discarded _) => { k with ending := some .killed }
        | _ => k
      else k }

/-- The tile of an ended task, and what follows for its instance. -/
def State.endTile (s : State) (t : Task) (e : EndKind) : State :=
  let stamp := s.sched.stamp + 1
  let upd := fun (i : Inst) => match e with
    | .done x => { i.modTile t.node t.tile (fun (y : Tile) => { y with st := .done }) with exitor := i.exitor ||| x }
    | .killed => (({ i.modTile t.node t.tile (fun (y : Tile) => { y with st := .killed }) with nkill := i.nkill + 1 } : Inst).killGangs t.node)
    | .discarded o => i.modTile t.node t.tile fun (y : Tile) => { y with st := .queued, fallen := 0, wait := 0, head := stamp, since := stamp, rerun := true, lastOver := o, overrun := o || y.overrun }
  let s := { s with sched := { s.sched with stamp := stamp, insts := s.sched.insts.map fun (i : Inst) => if i.slot = t.inst then (upd i).settleTiles stamp else i } }
  match e with
  | .killed => s.killGangCores t.gang
  | _ => s

/-! ### The core after its task -/

/-- R129 steps 4 and 5, R155, R160, R334: the core holds nothing of the task but its registers and stores. -/
def Core.clearTask (k : Core) : Core :=
  { k with
    task := none, ending := none, asked := none, reports := [], lastDomain := k.task.map Task.domain
    mode := { k.mode with handler := false, stackSeq := none, stopped := false, stepPc := none, retries := 0 }
    ms := { MemSide.reset with tlb := k.ms.tlb, ids := k.ms.ids }
    loc.written := []
    tr.inflight := []
    eng := { Engines.reset with flags := k.eng.flags, nmSkip := k.eng.nmSkip, cim := { k.eng.cim with fails := [], owed := [] } } }

/-- The task of a core counts as ended: `rel` at system scope, tokens idle, no L1 line, groups and gang masks left, R75, its tile. -/
def State.finishTask (s : State) (c : CoreId) (t : Task) (e : EndKind) : State :=
  let s := s.l1Flush c
  let s := (List.range 8).foldl (fun s g => s.setGroup c (BitVec.ofNat 3 g) false) s
  let s := (s.endBuffers c).modCore c Core.clearTask
  (s.setGangMask t.gang).endTile t e

/-- TASK_END (R129): one step of the end of the core's task: what it stops is stopped; once everything is quiet it counts as ended.
Where a discard had been asked of a task that ends as done, the scheduler takes its next victim (R391). -/
def execTaskEnd (s : State) : Out :=
  let c := s.cur.core
  let k := s.core c
  match k.task, k.ending with
  | some t, some e =>
    let s := s.stopTask c e
    if !s.taskQuiet c then .next s
    else
      let missed := match k.asked with | some (.discarded _) => true | _ => false
      let s := match (if missed && !s.hk.envPend then s.chooseUnit else none) with
        | some u => s.preempt u
        | none => s
      .next (s.finishTask c t e)
  | _, _ => .next s

/-! ### Budgets (R388) -/

/-- Whether the boundary has nothing to take before a budget expiry (R396). -/
def State.budgetTurn (s : State) (c : CoreId) : Bool :=
  let k := s.core c
  s.canIssue c && !k.endIssued && k.asked.isNone && k.nextReport.isNone && (k.mode.handler || k.eng.cim.fails.isEmpty)

/-- BUDGET_EXPIRY (R388): the count has reached BUDGET at a boundary. -/
def execBudgetExpiry (s : State) : Out :=
  let c := s.cur.core
  match (s.core c).task with
  | some t => .next (if t.over && s.budgetTurn c then (s.budgetStep c (s.overran t)).getD s else s)
  | none => .next s

/-- BUDGET_GRACE_EXPIRY (R388): the 65,536 further cycles have run out at a boundary. -/
def execBudgetGraceExpiry (s : State) : Out :=
  let c := s.cur.core
  match (s.core c).task with
  | some t => .next (if t.tookBudget && t.grace = 0 && s.budgetTurn c then s.endTask c .killed else s)
  | none => .next s

/-! ### Boundary stops (R409) -/

/-- STEP_STOP (R409): the single-step stop after the previous bundle, where the boundary takes nothing before it. -/
def execStepStop (s : State) : Out :=
  let c := s.cur.core
  let k := s.core c
  let due := match k.task with | some t => t.over || (t.tookBudget && t.grace = 0) | none => false
  .next (if s.budgetTurn c && !due then (s.stepStop c).getD s else s)

/-- DEBUG_HALT (R409): a halted core stops at its boundary, without a rollback, where the boundary takes nothing before it; its results land. -/
def execDebugHalt (s : State) : Out :=
  let c := s.cur.core
  .next (if s.canIssue c && (s.core c).mode.dbgHalt then
    (s.boundary c).getD (s.modCore c fun k => { k.landAll with mode.stopped := true, mode.dbgHalt := false }) else s)

end Sys2Proof.Machine
end

