-- ==== Sys2Proof/Machine/Records.lean ====
section
/-! DEFINITION. Records: error banks and the placement of records (spec R406 to R408), and what the HBM4E controllers do on their own
(R96, R419). -/

namespace Sys2Proof.Machine

open Sys2Proof

/-! ### The fields of a bank (R406) -/

def ErrBank.occupied (b : ErrBank) : Bool := b.w0.getLsbD 63
def ErrBank.sev (b : ErrBank) : Nat := bits b.w0 61 2
def ErrBank.ovf (b : ErrBank) : Nat := bits b.w0 40 16
def ErrBank.cnt (b : ErrBank) : Nat := bits b.w0 24 16

/-- A word with the 16-bit field at `lo` set. -/
def setField16 (w : W64) (lo v : Nat) : W64 := BitVec.ofNat 64 (w.toNat - bits w lo 16 * 2 ^ lo + v % 65536 * 2 ^ lo)

/-- The words of a bank that holds a record with CNT 1; OVF is given. -/
def ErrRec.bank (r : ErrRec) (ovf : Nat) : ErrBank :=
  { w0 := BitVec.ofNat 64 (2 ^ 63 + r.sev % 4 * 2 ^ 61 + ovf * 2 ^ 40 + 2 ^ 24 + r.detail.toNat * 65536 + r.cause.toNat * 256 + r.event % 256)
    w1 := r.addr
    w2 := r.synd
    w3 := BitVec.ofNat 64 (r.unit % 256 * 2 ^ 56 + (match r.core with | some c => 2 ^ 55 + c % 64 * 2 ^ 48 | none => 0) +
      (match r.macr with | some (m, w) => 2 ^ 47 + m % 128 * 2 ^ 40 + w % 4096 * 2 ^ 28 | none => 0) + r.domain % 256 * 2 ^ 20 + r.port % 16 * 2 ^ 16) }

/-- R408 step 1: the same EVENT, UNIT, CV, ADDR and, when CV is 1, CORE. -/
def ErrBank.sameAs (b : ErrBank) (r : ErrRec) : Bool :=
  let n := r.bank 0
  b.occupied && bits b.w0 0 8 = bits n.w0 0 8 && bits b.w3 56 8 = bits n.w3 56 8 && bits b.w3 55 1 = bits n.w3 55 1 && b.w1 = n.w1 &&
  (r.core.isNone || bits b.w3 48 6 = bits n.w3 48 6)

/-- The lowest-numbered bank with a property. -/
def findBank (l : Vector ErrBank 32) (p : ErrBank → Bool) : Option (Fin 32) := (List.finRange 32).find? fun i => p (l.get i)

/-- R408 step 3: the occupied bank with the lowest SEV, the lowest number among equals. -/
def lowestBank (l : Vector ErrBank 32) : Fin 32 :=
  (List.finRange 32).foldl (fun (b : Fin 32) i => if (l.get i).sev < (l.get b).sev then i else b) 0

/-- A saturating 16-bit count one higher. -/
def satInc (n : Nat) : Nat := min (n + 1) 65535

/-- R408: a record placed in the banks. -/
def placeRecord (l : Vector ErrBank 32) (r : ErrRec) : Vector ErrBank 32 :=
  match findBank l fun b => b.sameAs r with
  | some i => l.set i { l.get i with w0 := setField16 (l.get i).w0 24 (satInc (l.get i).cnt) }
  | none => match findBank l fun b => !b.occupied with
    | some i => l.set i (r.bank (l.get i).ovf)
    | none =>
      let i := lowestBank l
      if r.sev > (l.get i).sev then l.set i (r.bank (l.get i).ovf)
      else l.set i { l.get i with w0 := setField16 (l.get i).w0 40 (satInc (l.get i).ovf) }

/-- ERROR_RECORD_PLACE (R408): the record that arrived first; the host is notified. -/
def execErrorRecordPlace (s : State) : Out :=
  match s.hk.recs with
  | [] => .next s
  | r :: t => .next (s.modHk fun h => { h with recs := t, banks := placeRecord h.banks r }.hintBit 1)

/-- R406: a bank with every field cleared but OVF. -/
def ErrBank.clear (b : ErrBank) : ErrBank := { w0 := BitVec.ofNat 64 (b.ovf * 2 ^ 40) }

/-- ERROR_BANK_CLEAR (R406): the host writes `v` to word 0 of bank k. -/
def execErrorBankClear (s : State) : Out :=
  if s.cur.v.getLsbD 63 then
    .next (s.modHk fun h => { h with banks := h.banks.set (s.cur.k % 32) (h.banks.get ⟨s.cur.k % 32, Nat.mod_lt _ (by decide)⟩).clear (Nat.mod_lt _ (by decide)) })
  else .next s

/-! ### The HBM4E controllers on their own (R95, R96, R419) -/

/-- R95: the stack of a home-0 address. -/
def stackOf (pa : Nat) : Nat := nb pa 8 3 ^^^ nb pa 18 3 ^^^ nb pa 30 3

/-- PATROL_SCRUB (R96): the 64-byte block k of an active stack is read, and rewritten where a correctable error is repaired. -/
def execPatrolScrub (s : State) : Out :=
  let b := s.cur.k
  let x := s.mem.block b
  if b ≥ 2 ^ 33 || (s.hk.envelope = 2 && stackOf (b * 64) ≥ 4) || !x.ce then .next s
  else .next ({ s with mem := s.mem.putBlock b { x with ce := false } }.addRec (memRec 0x01 1 8 0 (b * 64) (Config.syndrome 8 b)))

/-- REFRESH (R96): changes no data. -/
def execRefresh (s : State) : Out := .next s

/-- BACKGROUND_ZEROING (R419): a block reads as zero before it is zeroed and after. -/
def execBackgroundZeroing (s : State) : Out := .next s

/-- FLIT_RETRY (R423): the flit is resent and no data is lost. -/
def execFlitRetry (s : State) : Out := .next s

end Sys2Proof.Machine
end

