-- ==== Sys2Proof/Machine/Power.lean ====
section
/-! DEFINITION. Power: envelopes (spec R21 to R24, R420), lockstep pairing (R27, R405, R421), the power cap (R422), the other mode
registers of R26, and the reset and test of a core (R398, R405). -/

namespace Sys2Proof.Machine

open Sys2Proof

/-! ### Gangs the device can no longer offer cores for (R24, R382) -/

/-- The task slots in all: the active cores that are no odd core of a lockstep pair. -/
def State.taskSlots (s : State) : Nat :=
  ((List.finRange 64).filter fun c => !Config.parkedIn s.hk.envelope c.val && !(s.lockstep (groveOf c) && c.val % 2 = 1)).length

/-- R24, R382: every tile that has not started of a node whose gang exceeds the slots is killed, with what follows for others. -/
def Inst.killOversize (i : Inst) (slots stamp : Nat) : Inst :=
  ((List.range i.nodes.length).foldl (fun (i : Inst) n =>
    if nodeGang (i.words n) > slots then (List.range (i.count n)).foldl (fun (i : Inst) t => i.killTile n t) i else i) i).settleTiles stamp

/-- Whether a member of the gang of a task has been killed. -/
def State.gangKilled (s : State) (t : Task) : Bool :=
  s.sched.insts.any fun (i : Inst) => i.slot = t.inst && (i.gangOf t.node t.tile).any fun m => (i.tile t.node m).st = .killed

/-- R24, R382, R392: the tiles that have not started are killed, and with a killed member the members of its gang that run. -/
def State.killOversize (s : State) : State :=
  let s := { s with sched := { s.sched with insts := s.sched.insts.map fun (i : Inst) => i.killOversize s.taskSlots s.sched.stamp } }
  ((s.cores.toList.filterMap fun (k : Core) => k.task.bind fun t => if s.gangKilled t then some t.gang else none).eraseDups).foldl State.killGangCores s

/-! ### Envelopes -/

/-- R422: WATTS clamped to between 100 W and the power of the envelope in force. -/
def Hsk.effectiveCap (h : Hsk) : Nat := min (max h.pcap.toNat 100) (Config.envelopeWatts h.envelope)

/-- R24 steps 1 and 2: running idempotent tasks are asked to end. -/
def State.askIdempotent (s : State) : State :=
  { s with cores := s.cores.map fun (k : Core) =>
      if k.ending.isNone && k.asked.isNone && k.task.any fun (t : Task) => t.idem then { k with asked := some (.discarded false) } else k }

/-- ENVELOPE_WRITE (R420): TARGET := `v`[1:0]; one that ENVMASK does not permit, or 3, is ignored with ENVREJ. -/
def execEnvelopeWrite (s : State) : Out :=
  let t := bits s.cur.v 0 2
  if t = 3 || !s.hk.record.envMask.getLsbD t then .next (s.modHk fun h => h.hstatBit 3)
  else
    let s := s.modHk fun h => { h with envTarget := t }
    if s.hk.envPend || t = s.hk.envelope then .next s
    else .next (s.modHk fun h => { h with envPend := true }).askIdempotent

/-- The standbys of cores that are no longer offered tasks are dropped (R387). -/
def State.dropStandbys (s : State) : State :=
  (List.finRange 64).foldl (fun s c => if s.absent c then s.dropStandby c else s) s

/-- ENVELOPE_CHANGE (R24 steps 4 and 5): once no core holds a task, clock, cap, `LATPROF` and parked cores change together, and tiles of
oversized gangs are killed. -/
def execEnvelopeChange (s : State) : Out :=
  if !s.hk.envPend || s.cores.any (fun (k : Core) => k.task.isSome) then .next s
  else
    let e := s.hk.envTarget
    let s := s.modHk fun h =>
      let h : Hsk := { h with envelope := e, envPend := false, freq := Config.envelopeClock e, issue := 64 }
      { h with grant := h.effectiveCap }.hintBit 4
    let s := { s with cores := s.cores.map fun (k : Core) => { k with ctrl.latprof := Config.envelopeProfile e } }
    .next s.dropStandbys.killOversize

/-! ### Lockstep -/

/-- PROTMODE_WRITE (R421): LOCK := `v`[7:0]. -/
def execProtmodeWrite (s : State) : Out := .next (s.modHk fun h => { h with protLock := s.cur.v.setWidth 8 })

/-- LOCKSTEP_PAIRING (R27, R405): grove k, once none of its cores holds a task: ACTIVE takes LOCK. -/
def execLockstepPairing (s : State) : Out :=
  if h : s.cur.k < 8 then
    let g : Fin 8 := ⟨s.cur.k, h⟩
    let mine := (List.finRange 64).filter fun c => decide (groveOf c = g)
    if !s.pairing g || mine.any (fun c => (s.core c).task.isSome) then .next s
    else
      let on := s.hk.protLock.getLsbD s.cur.k
      let odd := mine.filter fun c => c.val % 2 = 1
      let s := odd.foldl (fun s c =>
        let e := coreId (c.val - 1)
        let s := s.dropStandby c
        if on then s.modCore e Core.leads
        else (s.modCore c fun k => k.followed (s.core e)).modCore e fun k => { k with loc.paired := none, pairBase := none }) s
      let s := mine.foldl (fun s c => s.modCore c fun k => { k with mode.retries := 0 }) s
      let bit := BitVec.ofNat 8 (2 ^ s.cur.k)
      .next (s.modHk fun h => { h with protActive := if on then h.protActive ||| bit else h.protActive &&& ~~~bit }).killOversize
  else .next s

/-! ### The cap (R422) -/

/-- PCAP_WRITE: WATTS := `v`[15:0]; the effective cap follows from it, and is met by CAP_ENFORCE. -/
def execPcapWrite (s : State) : Out := .next (s.modHk fun h => { h with pcap := s.cur.v.setWidth 16 })

/-- CAP_ENFORCE: the effective cap is enforced. ISSUE under a lowered cap is the housekeeping controller's to choose, 1 to 64. -/
def execCapEnforce (s : State) : Out :=
  let h := s.hk
  .next (s.modHk fun x => { x with grant := h.effectiveCap, issue := if h.effectiveCap < h.grant then 1 + pickOf s.freeCtr 0 64 else 64 }).bump

/-- POWER_CLOCK_STEP: the clock steps to what the cap allows, at most the envelope's; ISSUE below 64 does not stay at the full clock. The
readings of POWER and GATED are free, POWER not above GRANT. -/
def execPowerClockStep (s : State) : Out :=
  let c := Config.envelopeClock s.hk.envelope
  let f := if s.hk.grant = Config.envelopeWatts s.hk.envelope then c else 1 + pickOf s.freeCtr 0 c
  .next (s.modHk fun h => { h with
    freq := f
    issue := if f = c then 64 else 1 + pickOf s.freeCtr 1 64
    power := pickOf s.freeCtr 2 (h.grant + 1)
    gated := pickOf s.freeCtr 3 65536 }).bump

/-! ### Other mode registers (R26) -/

/-- PINLIM_WRITE (R87): LIMIT := `v`[3:0]; 0 to 3 is ignored. -/
def execPinlimWrite (s : State) : Out :=
  .next (if bits s.cur.v 0 4 < 4 then s else s.modHk fun h => { h with pinlim := s.cur.v.setWidth 4 })

/-- AGE_WRITE (R381): THRESH := `v`[15:0]; 0 is ignored. -/
def execAgeWrite (s : State) : Out :=
  .next (if bits s.cur.v 0 16 = 0 then s else s.modHk fun h => { h with age := s.cur.v.setWidth 16 })

/-! ### Reset and test of a core (R397, R398, R405) -/

/-- What is in use of a pair of the boot flash: 0 the housekeeping image, 1 the scheduler's, 2 the record; `none` as delivered. -/
def Hsk.inUse (h : Hsk) (i : Fin 3) : Option (List Byte) := (h.flash.get i).image

/-- The code range of the trap page (R397): the base handler, and what the housekeeping image carries with it. -/
def Hsk.handlerCode (h : Hsk) : List Byte :=
  baseHandler ++ (List.range (0x8000 - baseHandler.length)).map fun i => match h.inUse 0 with
    | some x => Config.handlerExtra (leNat x) (baseHandler.length + i)
    | none => 0

/-- A core as its reset leaves it: its stores, buffers and the task table's view of it stay (DESIGN CHOICE, log 31). -/
def Core.restarted (k : Core) : Core :=
  { Core.reset with loc := k.loc, own := k.own, tr.tiles := k.tr.tiles, lastDomain := k.lastDomain, standby := k.standby, pairBase := k.pairBase, ctrl.latprof := k.ctrl.latprof
                    eng.cim := { k.eng.cim.dispatched with store := k.eng.cim.store } }

/-- CORE_RESET_AND_TEST (R398, R405): a quarantined pair, or an offline core, without a task: it is reset, its handler code is reloaded,
and it returns to service. -/
def execCoreResetAndTest (s : State) : Out :=
  let c := s.cur.core
  let k := s.core c
  let cs := if s.lockstep (groveOf c) then [coreId (c.val / 2 * 2), coreId (c.val / 2 * 2 + 1)] else [c]
  if !(k.mode.quarantined || k.mode.offline) || cs.any (fun d => (s.core d).task.isSome) then .next s
  else .next (cs.foldl (fun s d => ((s.dropStandby d).modCore d Core.restarted).writeTrapGlade d 0 s.hk.handlerCode) s)

end Sys2Proof.Machine
end

