-- ==== Sys2Proof/Machine/Sha.lean ====
section
/-! DEFINITION. Sha: SHA-256, which the quote of `ATTEST` holds of the active images and record (spec R426). The function is FIPS 180-4's
(PRESUMED, log 61); its constants are the fractions of roots of primes. -/

namespace Sys2Proof.Machine

open Sys2Proof

/-- The greatest number below a + 2^k whose e-th power is at most n, by its bits from 2^(k - 1) down. -/
def rootBits (e n : Nat) : Nat → Nat → Nat
  | 0, a => a
  | k + 1, a => rootBits e n k (if (a + 2 ^ k) ^ e ≤ n then a + 2 ^ k else a)

/-- The first 32 fraction bits of the e-th root of p. -/
def rootFraction (e p : Nat) : BitVec 32 := BitVec.ofNat 32 (rootBits e (p * 2 ^ (32 * e)) 40 0)

def isPrime (n : Nat) : Bool := 2 ≤ n && (List.range n).all fun d => d < 2 || n % d ≠ 0

/-- The first 64 primes. -/
def primes64 : List Nat := (List.range 312).filter isPrime

def shaStart : List (BitVec 32) := (primes64.take 8).map (rootFraction 2)
def shaConsts : List (BitVec 32) := primes64.map (rootFraction 3)

/-- The message with its padding: bit 1, zeros, and the length in bits, in whole blocks of 64 bytes. -/
def shaPadded (m : List Byte) : List Byte :=
  m ++ [0x80] ++ List.replicate ((119 - m.length % 64) % 64) 0 ++ (leBytes 8 (8 * m.length)).reverse

/-- Word i of a block. -/
def shaWord (b : List Byte) (i : Nat) : BitVec 32 := BitVec.ofNat 32 (leNat (((b.drop (4 * i)).take 4).reverse))

/-- The message schedule of a block: 64 words. -/
def shaSchedule (b : List Byte) : List (BitVec 32) :=
  (List.range 48).foldl (fun (w : List (BitVec 32)) i =>
    let x := w.getD (i + 1) 0
    let y := w.getD (i + 14) 0
    w ++ [(y.rotateRight 17 ^^^ y.rotateRight 19 ^^^ y >>> 10) + w.getD (i + 9) 0 +
      (x.rotateRight 7 ^^^ x.rotateRight 18 ^^^ x >>> 3) + w.getD i 0]) ((List.range 16).map (shaWord b))

/-- One round: the eight words a to h with a constant plus a schedule word. -/
def shaRound (v : List (BitVec 32)) (kw : BitVec 32) : List (BitVec 32) :=
  let at_ := fun i => v.getD i 0
  let a := at_ 0
  let e := at_ 4
  let t1 := at_ 7 + (e.rotateRight 6 ^^^ e.rotateRight 11 ^^^ e.rotateRight 25) + ((e &&& at_ 5) ^^^ (~~~e &&& at_ 6)) + kw
  let t2 := (a.rotateRight 2 ^^^ a.rotateRight 13 ^^^ a.rotateRight 22) + ((a &&& at_ 1) ^^^ (a &&& at_ 2) ^^^ (at_ 1 &&& at_ 2))
  [t1 + t2, a, at_ 1, at_ 2, at_ 3 + t1, e, at_ 5, at_ 6]

/-- The hash after one more block. -/
def shaBlock (h : List (BitVec 32)) (b : List Byte) : List (BitVec 32) :=
  let v := ((shaConsts.zip (shaSchedule b)).map fun p => p.1 + p.2).foldl shaRound h
  (h.zip v).map fun p => p.1 + p.2

/-- The 32 bytes of the SHA-256 digest of a message. -/
def sha256 (m : List Byte) : List Byte :=
  let p := shaPadded m
  ((List.range (p.length / 64)).foldl (fun h i => shaBlock h ((p.drop (64 * i)).take 64)) shaStart).flatMap fun w => (leBytes 4 w.toNat).reverse

end Sys2Proof.Machine
end

