-- ==== Sys2Proof/Machine/Mailbox.lean ====
section
/-! DEFINITION. Mailbox: the transport of housekeeping commands (spec R414, R415), Glades and Canopy ways (R88 to R92, R103), debug (R409),
microprogram writes, TLB invalidation, keys (R416) and attestation (R426). -/

namespace Sys2Proof.Machine

open Sys2Proof

/-! ### Transport (R414) -/

/-- The assigned opcodes (R415, R89, R103, R409). -/
def mailboxOps : List Nat :=
  [0x01, 0x10, 0x11, 0x12, 0x20, 0x21, 0x22, 0x30, 0x31, 0x32, 0x33, 0x34, 0x35, 0x36, 0x37, 0x38, 0x39]

/-- What a command answers: its STATUS and response words 1 and 2. -/
structure MbAnswer where
  status : Nat
  w1 : W64 := 0
  w2 : W64 := 0
  deriving DecidableEq, Repr

/-- Completion: the response words are written, BUSY clears, DONE and `HINT.MBDONE` are set. -/
def Hsk.mbDone (h : Hsk) (op : Nat) (a : MbAnswer) : Hsk :=
  { h with mbCmd := none, mbstat := 2, mbResp := [(0, BitVec.ofNat 64 (a.status * 256 + op)), (1, a.w1), (2, a.w2)].foldl (fun (m : SMap W64) (e : Nat × W64) => mwr 0 m e.1 e.2) [] }.hintBit 0

/-- A write of 1 to GO: the request words are sampled and the command runs. -/
def Hsk.mbGo (h : Hsk) : Hsk :=
  if h.mbCmd.isSome then h.hstatBit 1
  else { h with mbCmd := some ⟨(List.range 8).map fun i => mrd 0 h.mbReq i⟩, mbstat := h.mbstat ||| 1 }

/-- The STATUS of a command that housekeeping performs none of (R410, R414): before READY every one but `ATTEST`, then an unassigned opcode. -/
def Hsk.mbRefuses (h : Hsk) (op : Nat) : Option Nat :=
  if !h.ready && op ≠ 1 then some 0xFE else if !mailboxOps.contains op then some 0xFF else none

/-- The command with an opcode, where it is the one that runs; `f` performs it from request words 1 and 2. One that housekeeping refuses
completes at the turn of any command (log 48). -/
def State.mbRun (s : State) (op : Nat) (f : W64 → W64 → State → MbAnswer × State) : Out :=
  match s.hk.mbCmd with
  | none => .next s
  | some c =>
    let now := bits (c.words.getD 0 0) 0 8
    match s.hk.mbRefuses now with
    | some st => .next (s.modHk fun h => h.mbDone now ⟨st, 0, 0⟩)
    | none =>
    if now ≠ op then .next s
    else
      let (a, s) := f (c.words.getD 1 0) (c.words.getD 2 0) s
      .next (s.modHk fun h => h.mbDone op a)

/-- MBSTAT_READ (R414, R5): the register is read, and DONE cleared. -/
def execMbstatRead (s : State) : Out := .next (s.modHk fun h => { h.answer h.mbstat with mbstat := h.mbstat &&& 1 })

/-! ### Glades (R88 to R91) -/

def CSet.pinned (c : CSet) : Nat := (c.ways.filter Way.pinned).length
def CSet.usable (c : CSet) : Nat := (c.ways.filter fun w => decide (w ≠ Way.retired)).length

/-- R88: whether a set admits a pin. -/
def CSet.admits (c : CSet) (limit : Nat) : Bool := c.pinned < limit && c.pinned < c.usable - 1

/-- A line placed in the victim way of its set; a dirty victim is written back first (R83, R90). -/
def Mem.placeLine (m : Mem) (l : CLine) : Mem × List ErrRec :=
  let n := setOf l.line
  match (m.set n).victim with
  | none => (m, [])
  | some w =>
    let (m, rs) := match (m.set n).ways.getD w .invalid with | .held v => m.writeBack v | _ => (m, [])
    (m.putSet n (CSet.touch { m.set n with ways := List.set (m.set n).ways w (.held l) } w), rs)

/-- A Glade line turned to invalid, its data discarded. -/
def Mem.freeGlade (m : Mem) (a : Nat) : Mem :=
  let n := setOf a
  match (m.set n).find 14 a with
  | none => m
  | some w => m.putSet n { m.set n with ways := List.set (m.set n).ways w .invalid }

/-- R90: the lines from a, in ascending order; a failing line gives its status and address, and releases what was pinned. -/
def Mem.allocGlades (m : Mem) (limit a : Nat) : Nat → (Nat × Nat) × Mem × List ErrRec
  | 0 => ((0, 0), m, [])
  | n + 1 =>
    if m.gladeLine a then ((2, a), m, [])
    else if !(m.set (setOf a)).admits limit then ((1, a), m, [])
    else
      let (m, rs) := m.placeLine ⟨14, a, 0, 0, false, 0, 0, 0, false⟩
      let (r, m, rs') := m.allocGlades limit (a + 1) n
      (r, if r.1 = 0 then m else m.freeGlade a, rs ++ rs')

/-- R89: `GLRANGE`: a misaligned base, a length of zero or not of whole lines, a range beyond Glade space or over the trap Glades. -/
def gladeRangeBad (base len : Nat) : Bool := base % 128 ≠ 0 || len = 0 || len % 128 ≠ 0 || base + len > 0x7FC00000

/-- GLALLOC (R90). DESIGN CHOICE (log 74): the whole range, as that of GLFREE, is allocated in one step. DESIGN CHOICE (log 75): the LIMIT is the one that
stands when the command is performed. -/
def execGlalloc (s : State) : Out :=
  s.mbRun 0x10 fun b l s =>
    if gladeRangeBad b.toNat l.toNat then (⟨3, b, 0⟩, s)
    else
      let (r, m, rs) := s.mem.allocGlades s.hk.pinlim.toNat (b.toNat / 128) (l.toNat / 128)
      let s := { s with mem := m }.addRecs rs
      if r.1 = 0 then (⟨0, 0, BitVec.ofNat 64 (l.toNat / 128)⟩, s) else (⟨r.1, BitVec.ofNat 64 (r.2 * 128), 0⟩, s)

/-- GLFREE (R91). -/
def execGlfree (s : State) : Out :=
  s.mbRun 0x11 fun b l s =>
    if gladeRangeBad b.toNat l.toNat then (⟨3, b, 0⟩, s)
    else
      let lines := (List.range (l.toNat / 128)).map fun i => b.toNat / 128 + i
      match lines.find? fun a => !s.mem.gladeLine a with
      | some a => (⟨2, BitVec.ofNat 64 (a * 128), 0⟩, s)
      | none => (⟨0, 0, BitVec.ofNat 64 (l.toNat / 128)⟩, { s with mem := lines.foldl (fun m a => m.freeGlade a) s.mem })

/-- CWRET (R103): way [23:20] of set [19:0]. A way already retired answers `GLDUP`, which is checked first. -/
def execCwret (s : State) : Out :=
  s.mbRun 0x12 fun a _ s =>
    let n := bits a 0 20
    let w := bits a 20 4
    let c := s.mem.set n
    let way := c.ways.getD w .invalid
    let gone := fun (m : Mem) => m.putSet n { m.set n with ways := List.set (m.set n).ways w .retired }
    if way = .retired then (⟨2, 0, 0⟩, s)
    else if c.pinned ≥ c.usable - 2 then (⟨1, 0, 0⟩, s)
    else match way with
      | .held l =>
        if l.home = 14 then
          let (m, rs) := (gone s.mem).placeLine l
          (⟨0, 0, 0⟩, { s with mem := m }.addRecs rs)
        else
          let (m, rs) := s.mem.writeBack l
          (⟨0, 0, 0⟩, { s with mem := gone m }.addRecs rs)
      | _ => (⟨0, 0, 0⟩, { s with mem := gone s.mem })

/-! ### Debug (R409) -/

/-- STATUS 1 of R409 and 2 of `MPWRITE`: the core is parked, quarantined or offline. -/
def State.outOfService (s : State) (c : CoreId) : Bool :=
  Config.parkedIn s.hk.envelope c.val || s.quarantined c || (s.core c).mode.offline

/-- DBGCTL: EN, STEP and HALT of a core, or of its lockstep pair (R403, log 46); a stopped core needs no further halt. -/
def execDbgctl (s : State) : Out :=
  s.mbRun 0x20 fun a _ s =>
    let c := s.pairCore (coreId (bits a 0 6))
    if s.outOfService c then (⟨1, 0, 0⟩, s)
    else (⟨0, 0, 0⟩, s.modCore c fun k => { k with mode.dbgEn := a.getLsbD 8, mode.dbgStep := a.getLsbD 9, mode.dbgHalt := a.getLsbD 10 && !k.mode.stopped })

/-- DBGGO: a stopped core goes on. -/
def execDbggo (s : State) : Out :=
  s.mbRun 0x21 fun a _ s =>
    let c := s.pairCore (coreId (bits a 0 6))
    if s.outOfService c then (⟨1, 0, 0⟩, s)
    else if !(s.core c).mode.stopped then (⟨2, 0, 0⟩, s)
    else (⟨0, 0, 0⟩, s.modCore c fun k => { k with mode.stopped := false })

/-- The value `DBGRD` answers; `none` for a space or an index it does not name. -/
def dbgValue (s : State) (c : CoreId) (sp i : Nat) : Option W64 :=
  let k := s.core c
  match sp with
  | 0 => if i < 64 then some (k.regs.getX (BitVec.ofNat 6 i)) else none
  | 1 => if h : i < 96 then some (if k.regs.getP ⟨i, h⟩ then 1 else 0) else none
  | 2 => some ((k.vAt (k.vRow (BitVec.ofNat 6 (i / 64)))).data.extractLsb' (64 * (i % 64)) 64)
  | 3 => csrRead s c i
  | 4 => some k.tokenWord
  | _ => none

/-- DBGRD: a register of a stopped core. Where the manual names no register the value is free. -/
def execDbgrd (s : State) : Out :=
  s.mbRun 0x22 fun a b s =>
    let c := s.pairCore (coreId (bits a 0 6))
    if s.outOfService c then (⟨1, 0, 0⟩, s)
    else if !(s.core c).mode.stopped then (⟨2, 0, 0⟩, s)
    else match dbgValue s c (bits b 12 4) (bits b 0 12) with
      | some v => (⟨0, v, 0⟩, s)
      | none => (⟨0, Config.word s.freeCtr, 0⟩, s.bump)

/-! ### Microprogram words and translations (R415) -/

/-- MPWRITE (R415, R337): out of service first, then a pinned word. In a lockstep pair the word and its pins are those of the pair (R403). -/
def execMpwrite (s : State) : Out :=
  s.mbRun 0x30 fun a v s =>
    let c := s.pairCore (coreId (bits a 16 6))
    let w := bits a 0 12
    if s.outOfService (coreId (bits a 16 6)) || s.outOfService c then (⟨2, 0, 0⟩, s)
    else if (s.core c).eng.cim.pinned w then (⟨1, 0, 0⟩, s)
    else (⟨0, 0, 0⟩, s.modCim c fun x => { x with store := mwr 0 x.store w v })

/-- The `TLBINV` mailbox command (R415): as `sys.tlbinv` at scope 3. -/
def execHostTlbinv (s : State) : Out :=
  s.mbRun 0x31 fun a l s =>
    (⟨0, 0, 0⟩, s.tlbInvalidate 0 3 (a &&& 0xFFFFFFFFFFFFFF) l (BitVec.ofNat 64 (bits a 56 8 + if l = BitVec.allOnes 64 then 2 ^ 11 else 0)))

/-! ### Keys (R99, R416) -/

/-- KEYLOAD (R416): the key block is bytes 0 to 383 of the data area. -/
def execKeyload (s : State) : Out :=
  s.mbRun 0x38 fun a _ s =>
    let id := bits a 0 8
    if id = 0 || s.mem.keyLoaded id then (⟨1, 0, 0⟩, s)
    else match Config.decryptKeyBlock (rdBytes s.hk.mbData 0 384) with
      | none => (⟨3, 0, 0⟩, s)
      | some p =>
        if p.length ≠ 72 || (p.getD 64 0).toNat ≠ id then (⟨3, 0, 0⟩, s)
        else (⟨0, 0, 0⟩, { s with mem := { s.mem with keys := mwr 0 s.mem.keys id (leNat (p.take 64) + 1) } })

/-- The home-0 lines of Canopy under a key, written back and invalidated. -/
def Mem.dropKey (m : Mem) (id : Nat) : Mem × List ErrRec :=
  m.canopy.foldl (fun (acc : Mem × List ErrRec) e =>
    e.2.ways.zipIdx.foldl (fun (acc : Mem × List ErrRec) w => match w.1 with
      | .held l =>
        if l.home = 0 && l.key = id then
          let (m, rs) := acc.1.writeBack l
          (m.putSet e.1 { m.set e.1 with ways := List.set (m.set e.1).ways w.2 .invalid }, acc.2 ++ rs)
        else acc
      | _ => acc) acc) (m, [])

/-- KEYUNLD (R416). -/
def execKeyunld (s : State) : Out :=
  s.mbRun 0x39 fun a _ s =>
    let id := bits a 0 8
    if id = 0 || !s.mem.keyLoaded id then (⟨2, 0, 0⟩, s)
    else
      let (m, rs) := s.mem.dropKey id
      (⟨0, 0, 0⟩, { s with mem := { m with keys := mwr 0 m.keys id 0 } }.addRecs rs)

/-! ### Attestation (R426) -/

/-- The slot of a pair that has the active mark, and the other (R417); those of the part as delivered are empty. -/
def Flash.activeSlot (f : Flash) : Option (List Byte) := if f.active then f.slotB else f.slotA
def Flash.otherSlot (f : Flash) : Option (List Byte) := if f.active then f.slotA else f.slotB

/-- A digest of 32 bytes of something whose bytes the manual does not give. -/
def freeDigest (item : Nat) : List Byte := (List.range 32).map fun i => (Config.digest item).getD i 0

/-- SHA-256 of the active image or record of a target (R426). -/
def Hsk.activeDigest (h : Hsk) (i : Fin 3) : List Byte := match (h.flash.get i).activeSlot with | some l => sha256 l | none => freeDigest (i.val + 1)

/-- The length of a quote. -/
def Hsk.quoteLen (h : Hsk) : Nat := if h.record.pqReq then 0x240 + 3309 else 0x240

/-- Bytes `0x000` to `0x0BF` of the quote. -/
def Hsk.quoteHead (h : Hsk) : List Byte :=
  leBytes 4 1 ++ leBytes 4 h.quoteLen ++ leBytes 8 (h.quotes + 1) ++ rdBytes h.mbData 0 32 ++ freeDigest 0 ++ h.activeDigest 0 ++
  h.activeDigest 1 ++ h.activeDigest 2 ++
  leBytes 8 (bits h.devstat 0 18 + h.envelope * 2 ^ 24 + h.protActive.toNat * 2 ^ 32) ++ leBytes 8 0

def Hsk.quote (h : Hsk) : List Byte :=
  let x := h.quoteHead
  x ++ ((List.range 384).map fun i => Config.quoteSignature 0 i x) ++
    if h.record.pqReq then (List.range 3309).map fun i => Config.quoteSignature 1 i x else []

/-- ATTEST (R426). -/
def execAttest (s : State) : Out :=
  s.mbRun 0x01 fun _ _ s =>
    (⟨0, BitVec.ofNat 64 s.hk.quoteLen, 0⟩, s.modHk fun h => { h with mbData := wrBytes h.mbData 0 h.quote, quotes := h.quotes + 1 })

end Sys2Proof.Machine
end

