-- ==== Sys2Proof/Machine/Service.lean ====
section
/-! DEFINITION. Service: links (spec R423, R424, R39), spares and retirement (R18, R64, R425), channel service, firmware and records (R417,
R418), and reset (R6, R419). -/

namespace Sys2Proof.Machine

open Sys2Proof

/-! ### Links (R424) -/

/-- The fields of a `LINKSTATn` as a word. -/
def linkWord (lanes : Nat) (etbrx etbtx up : Bool) : W64 := BitVec.ofNat 64 (lanes % 256 * 256 + flag etbrx 2 + flag etbtx 1 + flag up 0)

def Hsk.link (h : Hsk) (n : Fin 12) : W64 := h.linkstat.get n

/-- A changed field of `LINKSTATn` sets `HINT.LINK` (R412). -/
def Hsk.setLink (h : Hsk) (n : Fin 12) (w : W64) : Hsk := if h.link n = w then h else { h with linkstat := h.linkstat.set n w }.hintBit 3

/-- The number of lanes in a mask of eight. -/
def laneCount (m : Nat) : Nat := ((List.range 8).filter fun i => m.testBit i).length

def port12 (k : Nat) : Fin 12 := ⟨k % 12, Nat.mod_lt _ (by decide)⟩

/-- Whether an access has a piece at a home. -/
def Place.atHome (h : Nat) : Place → Bool
  | .glob segs => segs.any fun g => g.home = h
  | _ => false

def CommKind.accKind : CommKind → AccKind
  | .store .. => .store
  | .signal (.amo ..) => .atomic
  | .amo .. => .atomic
  | _ => .load

/-- R424, R39: every outstanding access of a core at a home completes with `XLHOME`, reported at a later boundary. -/
def Core.loseHome (k : Core) (h : Nat) : Core :=
  let lostP := k.ms.pend.filter fun p => p.got.isNone && p.place.atHome h
  let lostC := k.ms.comm.filter fun w => w.place.atHome h
  let k := { k with ms.pend := k.ms.pend.filter fun p => !(p.got.isNone && p.place.atHome h), ms.comm := k.ms.comm.filter fun w => !w.place.atHome h }
  let k := lostP.foldl (fun (k : Core) p => k.report p.org cXlhome (xlDetail .load (k.levelOf p.ea)) p.ea) k
  lostC.foldl (fun (k : Core) w => k.report w.org cXlhome (xlDetail w.what.accKind (k.levelOf w.ea)) w.ea) k

def State.loseHome (s : State) (h : Nat) : State := { s with cores := s.cores.map fun (k : Core) => k.loseHome h }

/-- LINK_TRAINING (R424): port k trains with the good lanes `v`[7:0]; `v`[8] is bit 0 of the peer's capability flit. With fewer than four
lanes it is left down. -/
def execLinkTraining (s : State) : Out :=
  let n := port12 s.cur.k
  let lanes := bits s.cur.v 0 8
  let up := laneCount lanes ≥ 4
  let tx := s.hk.record.linkEtb.getLsbD n.val
  if s.mem.linkUp.getLsbD n.val then .next s
  else
    let s := s.modHk fun h => h.setLink n (linkWord (if up then lanes else 0) (up && s.cur.v.getLsbD 8) tx up)
    .next (if up then { s with mem := { s.mem with linkUp := s.mem.linkUp ||| BitVec.ofNat 12 (2 ^ n.val) } } else s)

/-- LINK_DOWN (R424): fewer than four lanes of port k stay good: UP clears and its outstanding requests complete with `XLHOME`. -/
def execLinkDown (s : State) : Out :=
  let n := port12 s.cur.k
  if !s.mem.linkUp.getLsbD n.val then .next s
  else
    let w := s.hk.link n
    let s := s.modHk fun h => h.setLink n (linkWord 0 (w.getLsbD 2) (w.getLsbD 1) false)
    .next ({ s with mem := { s.mem with linkUp := s.mem.linkUp &&& ~~~(BitVec.ofNat 12 (2 ^ n.val)) } }.loseHome (n.val + 1))

/-- A lane of a port that stays up: in use or not. -/
def Hsk.setLane (h : Hsk) (n : Fin 12) (lane : Nat) (use : Bool) : Hsk :=
  let w := h.link n
  let m := bits w 8 8
  let m' := if use then m ||| 2 ^ lane else if m.testBit lane then m - 2 ^ lane else m
  if laneCount m' < 4 then h else h.setLink n (linkWord m' (w.getLsbD 2) (w.getLsbD 1) (w.getLsbD 0))

/-- LANE_LOSS (R424): lane k2 of port k fails while four or more stay good. -/
def execLaneLoss (s : State) : Out :=
  let n := port12 s.cur.k
  .next (if s.mem.linkUp.getLsbD n.val then s.modHk fun h => h.setLane n (s.cur.k2 % 8) false else s)

/-- LANERT (R424, R415): one lane is retrained; `flag` says whether it is good afterwards. The port stays up throughout. -/
def execLanert (s : State) : Out :=
  s.mbRun 0x35 fun a _ s =>
    let p := bits a 0 4
    if p > 11 then (⟨3, 0, 0⟩, s)
    else (⟨0, 0, 0⟩, if s.mem.linkUp.getLsbD p then s.modHk fun h => h.setLane (port12 p) (bits a 8 3) s.cur.flag else s)

/-- HOST_LINK_DOWN (R39): the host link goes down or, with `flag`, comes back. -/
def execHostLinkDown (s : State) : Out :=
  if s.cur.flag then .next { s with mem := { s.mem with hostUp := true } }
  else .next ({ s with mem := { s.mem with hostUp := false } }.loseHome 13)

/-! ### Spares and retired macros (R18, R64, R425) -/

/-- The spares of a die that no swap has taken. -/
def Hsk.sparesOf (h : Hsk) (die : Nat) : Nat := if die = 0 then h.spareA else h.spareB

/-- The next spare of a die, and the counts without it. -/
def Hsk.takeSpare (h : Hsk) (die : Nat) : Option (Nat × Hsk) :=
  if h.sparesOf die = 0 then none
  else
    let i := die * h.record.spares + (h.record.spares - h.sparesOf die)
    some (i, if die = 0 then { h with spareA := h.spareA - 1 } else { h with spareB := h.spareB - 1 })

/-- R18: what the spare's stores hold before its first task: zeros, every macro dense and in compute mode, its own map. -/
def spareMacros (h : Hsk) (i : Nat) : SMap Macro :=
  (h.record.spareRetired.filter fun p => p.1 = i).foldl (fun (m : SMap Macro) p => mwr {} m p.2 { retired := true }) []

/-- R18: a spare takes the number of a core. -/
def Core.swapped (k : Core) (h : Hsk) (i : Nat) : Core :=
  let c : Cim := { Cim.reset with macros := spareMacros h i }
  { k with
    loc := { Local.zero with paired := k.loc.paired.map fun _ => ([], []) }
    pairBase := k.pairBase.map fun _ => ([], c)
    fatal := []
    tr.tiles := []
    ms := { k.ms with l1 := [], fifo := [], tlb := [] }
    eng.cim := c
    mode := { k.mode with quarantined := false, offline := false, stopped := false, handler := false, retries := 0 } }

/-- CORESWAP (R415, R425): a spare of the core's die is set aside for it. -/
def execCoreswap (s : State) : Out :=
  s.mbRun 0x32 fun a _ s =>
    let c := bits a 0 6
    match s.hk.takeSpare (c / 32) with
    | none => (⟨1, 0, 0⟩, s)
    | some (i, h) => (⟨0, 0, 0⟩, { s with hk := { h with swapReq := h.swapReq ++ [(c, i)] } })

/-- SPARE_SWAP (R18, R425): the core has no resident task, its pair's included, and its spare takes its number. -/
def execSpareSwap (s : State) : Out :=
  let c := s.cur.core
  match s.hk.swapReq.find? fun r => r.1 = c.val with
  | none => .next s
  | some r =>
    if s.occupied c then .next s
    else .next ((((s.dropStandby c).syncPair c).modCore c fun k => k.swapped s.hk r.2).modHk fun h => { h with swapReq := h.swapReq.erase r })

/-- MACRET (R415): a request, refused where the macro is retired or its retirement is requested. -/
def execMacret (s : State) : Out :=
  s.mbRun 0x33 fun a _ s =>
    let c := bits a 16 6
    let m := bits a 0 7
    if ((s.core (coreId c)).eng.cim.macro' m).retired || s.hk.macRetReq.contains (c, m) then (⟨2, 0, 0⟩, s)
    else (⟨0, 0, 0⟩, s.modHk fun h => { h with macRetReq := h.macRetReq ++ [(c, m)] })

/-- An entry of the logical macro map retired (R64). -/
def Core.retire (k : Core) (m : Nat) : Core := { k with eng.cim := k.eng.cim.putMacro m { k.eng.cim.macro' m with retired := true } }

/-- MACRO_RETIREMENT (R425): the core has no resident task: its requested entries are retired; a standby that they touch is invalidated. -/
def execMacroRetirement (s : State) : Out :=
  let c := s.cur.core
  let ms := (s.hk.macRetReq.filter fun r => r.1 = c.val).map Prod.snd
  if s.occupied c || ms.isEmpty then .next s
  else
    let hit := (s.core c).standby.any fun b => ms.any fun m => b.macroFirst ≤ m && m < b.macroFirst + b.macroCount
    let s := if hit then s.dropStandby c else s
    .next ((s.modCore c fun k => ms.foldl Core.retire k).modHk fun h => { h with macRetReq := h.macRetReq.filter fun r => r.1 ≠ c.val })

/-! ### Channel service (R425): latency only -/

/-- HBMSVC: channel [7:3] of stack [2:0]; one at a time. -/
def execHbmsvc (s : State) : Out :=
  s.mbRun 0x34 fun a _ s =>
    if s.hk.hbmSvc.isSome then (⟨2, 0, 0⟩, s) else (⟨0, 0, 0⟩, s.modHk fun h => { h with hbmSvc := some (bits a 0 8) })

/-- HBM_CHANNEL_RESUME: the serviced channel serves accesses again, its contents kept. -/
def execHbmChannelResume (s : State) : Out := .next (s.modHk fun h => { h with hbmSvc := none })

/-! ### Firmware and records (R417, R418) -/

/-- The length of an image or record with its signatures: a record carries LEN at `0x004`. -/
def stagedLength (target va : Nat) (head : List Byte) : Nat :=
  if target = 2 then leNat ((head.drop 4).take 4) + 384 + (if (head.getD 0x13 0).getLsbD 0 then 3309 else 0) else Config.imageLength target va

/-- R418: the fields of a configuration record; what the slots of the part as delivered hold is `Record.reset`. -/
def Record.ofBytes (b : List Byte) : Record :=
  { envMask := (b.getD 0x10 0).setWidth 3, envDef := (b.getD 0x11 0).toNat % 3, protDef := b.getD 0x12 0, pqReq := (b.getD 0x13 0).getLsbD 0
    linkEtb := BitVec.ofNat 12 (leNat ((b.drop 0x14).take 2)), retiredMacros := Config.recordPairs 0 b, retiredWays := Config.recordPairs 1 b
    spares := 2, spareRetired := Config.recordPairs 2 b, repairs := Config.recordPairs 3 b, spareMap := Config.recordPairs 4 b }

def Record.ofSlot (b : Option (List Byte)) : Record := match b with | some l => Record.ofBytes l | none => Record.reset

def State.modFlash (s : State) (i : Fin 3) (f : Flash → Flash) : State := s.modHk fun h => { h with flash := h.flash.set i.val (f (h.flash.get i)) i.isLt }

/-- The inactive slot of a pair takes a verified image. -/
def Flash.stage (f : Flash) (b : List Byte) : Flash := { (if f.active then { f with slotA := some b } else { f with slotB := some b }) with staged := true }

/-- What has the active mark comes into use. -/
def Flash.adopt (f : Flash) : Flash := { f with used := f.active, image := f.activeSlot }

/-- FWSTAGE (R418): the image at a virtual address of the `HXCTX` domain is read, verified as the active record asks, and written to the inactive
slot. -/
def execFwstage (s : State) : Out :=
  s.mbRun 0x36 fun a b s =>
    let t := bits b 0 2
    let dom := bits (s.hk.hxctx.setWidth 64) 0 8
    match s.readVa dom .host a.toNat 64 with
    | (none, s) => (⟨3, 0, 0⟩, s)
    | (some head, s) => match s.readVa dom .host a.toNat (stagedLength t a.toNat head) with
      | (none, s) => (⟨3, 0, 0⟩, s)
      | (some img, s) =>
        if h : t < 3 then
          if Config.signatureOk (Record.ofSlot (s.hk.flash.get 2).activeSlot).pqReq img then (⟨0, 0, 0⟩, s.modFlash ⟨t, h⟩ fun f => f.stage img)
          else (⟨4, 0, 0⟩, s)
        else (⟨4, 0, 0⟩, s)

/-- FWSWITCH (R425): the active mark of the target moves to the staged image. The housekeeping image is used at once and reloads the handler
code of every core without a task (R397); the scheduler's is adopted at the next empty point, a record at the next reset. -/
def execFwswitch (s : State) : Out :=
  s.mbRun 0x37 fun a _ s =>
    let t := bits a 0 2
    if h : t < 3 then
      if !(s.hk.flash.get ⟨t, h⟩).staged then (⟨2, 0, 0⟩, s)
      else
        let s := s.modFlash ⟨t, h⟩ fun f => { f with active := !f.active, staged := false }
        if t = 0 then
          let s := s.modFlash 0 Flash.adopt
          (⟨0, 0, 0⟩, (List.finRange 64).foldl (fun s c => if s.occupied c then s else s.writeTrapGlade c 0 s.hk.handlerCode) s)
        else (⟨0, 0, 0⟩, s.modHk fun h => { h with schedPend := h.schedPend || t = 1 })
    else (⟨2, 0, 0⟩, s)

/-- SCHEDULER_IMAGE_SWITCH (R425): the launch queue is empty, and the scheduler adopts its new image. -/
def execSchedulerImageSwitch (s : State) : Out :=
  .next (if s.hk.schedPend && s.sched.launches.isEmpty && s.sched.waiting.isEmpty then (s.modFlash 1 Flash.adopt).modHk fun h => { h with schedPend := false } else s)

/-! ### Reset (R6, R417 to R419) -/

/-- A way retired at reset (R103): the trap Glade line that it would hold takes another way of its set. -/
def Mem.retireWay (m : Mem) (n w : Nat) : Mem :=
  let c := m.set n
  match c.ways.getD w .retired with
  | .held l => ((m.putSet n { c with ways := List.set c.ways w .retired }).placeLine l).1
  | _ => m.putSet n { c with ways := List.set c.ways w .retired }

/-- The device after a reset with a record: every register at the record's or its own reset value, every store zero (R6, R419). -/
def State.resetWith (r : Record) : State :=
  let s := State.reset
  let w := Config.envelopeWatts r.envDef
  let hk : Hsk := { Hsk.reset with
    record := r, envelope := r.envDef, envTarget := r.envDef, protActive := r.protDef, protLock := r.protDef, pcap := BitVec.ofNat 16 w, grant := w
    freq := Config.envelopeClock r.envDef, linkstat := Vector.ofFn fun n => linkWord 0 false (r.linkEtb.getLsbD n.val) false, spareA := r.spares, spareB := r.spares }
  let cores := s.cores.zipIdx.map fun (p : Core × Nat) =>
    (r.retiredMacros.filter fun (x : Nat × Nat) => x.1 = p.2).foldl (fun (k : Core) x => k.retire x.2) { p.1 with ctrl.latprof := Config.envelopeProfile r.envDef }
  let cores := cores.zipIdx.map fun (p : Core × Nat) => if hk.protActive.getLsbD (p.2 / 8) && p.2 % 2 = 0 then p.1.leads else p.1
  { s with hk := hk, cores := cores, mem := r.retiredWays.foldl (fun m x => m.retireWay x.1 x.2) s.mem }

/-- R419: what the self-test of phase 4 does with the macros that fail it, core by core: more than eight of one core replace it by a spare; `none`
where its die has none left. The others are retired. -/
def State.selfTest (s : State) : Option State :=
  (List.finRange 64).foldl (fun (o : Option State) c => o.bind fun s =>
    let ms := (s.hk.broken.filter fun p => p.1 = c.val).map Prod.snd
    if ms.length ≤ 8 then some (if ms.isEmpty then s else s.modCore c fun k => ms.foldl Core.retire k)
    else match s.hk.takeSpare (c.val / 32) with
      | none => none
      | some (i, h) => some ({ s with hk := h }.modCore c fun k => k.swapped h i)) (some s)

/-- Macros of a core that fail the self-test from now on. -/
def Hsk.breaks (h : Hsk) (c : CoreId) (m n : Nat) : Hsk :=
  { h with broken := ((List.range n).map fun i => (c.val, (m + i) % 128)).foldl (fun l p => if l.contains p then l else l ++ [p]) h.broken }

/-- The phase at which bring-up stops for a FAILCODE (R419). -/
def failPhase (f : Nat) : Nat := match f with | 1 => 1 | 2 => 0 | 3 => 2 | 4 => 3 | _ => 4

/-- Bring-up stopped with a FAILCODE. -/
def State.failed (s : State) (f : Nat) : State := s.modHk fun h => { h with ready := false, failCode := f, phase := failPhase f }

/-- The slot that bring-up takes of a pair: the active one or, where that fails verification, the other (R417, R418). -/
def Flash.boot (f : Flash) (other : Bool) : Flash :=
  { f with used := if other then !f.active else f.active, image := if other then f.otherSlot else f.activeSlot }

/-- Whether what a slot holds verifies under PQREQ; a slot as delivered does (R418). -/
def slotVerifies (pq : Bool) (b : Option (List Byte)) : Bool := b.all fun l => Config.signatureOk pq l

/-- R418: the PQREQ under which a record in a slot is verified at reset: its own (DEDUCED, log 88). -/
def recordVerifies (b : Option (List Byte)) : Bool := slotVerifies (Record.ofSlot b).pqReq b

/-- The slot taken of a pair, where the active one is `bad` or fails `ok`; `none` where the other one then fails too. -/
def Flash.bootWith (f : Flash) (ok : Option (List Byte) → Bool) (bad : Bool) : Option Flash :=
  if !bad && ok f.activeSlot then some (f.boot false) else if ok f.otherSlot then some (f.boot true) else none

/-- What of the device a reset keeps: the flash, the macros that fail their test, other devices' memory and the record of turns to come. -/
def State.keepAt (n s : State) (fl : Vector Flash 3) : State :=
  { n with
    hk := { n.hk with flash := fl, broken := s.hk.broken }
    mem := { n.mem with ext := s.mem.ext, extBad := s.mem.extBad, extEnc := s.mem.extEnc }
    agenda := s.agenda, cur := s.cur, clock := s.clock, freeCtr := s.freeCtr }

/-- DEVICE_RESET (R418, R419): bring-up with the active record or, where it fails verification or `flag` says that its slot is bad, with the other
one; so for the images under the PQREQ of that record, `v`[8] and `v`[9] for the housekeeping and the scheduler image. `v`[2:0] is a FAILCODE that it
meets; from now on the k2 macros of the core from k fail their self-test too. Housekeeping loads the handler code of its image (R397). -/
def execDeviceReset (s : State) : Out :=
  let s := s.modHk fun h => h.breaks s.cur.core s.cur.k s.cur.k2
  let stop := fun (fl : Vector Flash 3) f => Host.Outcome.next (((State.resetWith (Record.ofSlot (fl.get 2).image)).keepAt s fl).failed f)
  match (s.hk.flash.get 2).bootWith recordVerifies s.cur.flag with
  | none => stop s.hk.flash 1
  | some r =>
    let ok := slotVerifies (Record.ofSlot r.image).pqReq
    match (s.hk.flash.get 0).bootWith ok (s.cur.v.getLsbD 8), (s.hk.flash.get 1).bootWith ok (s.cur.v.getLsbD 9) with
    | some a, some b =>
      let fl := ((s.hk.flash.set 0 a).set 1 b).set 2 r
      let n := (State.resetWith (Record.ofSlot r.image)).keepAt s fl
      let n := if (n.hk.inUse 0).isSome then (List.finRange 64).foldl (fun s c => s.writeTrapGlade c 0 s.hk.handlerCode) n else n
      let f := bits s.cur.v 0 3
      if 1 ≤ f && f ≤ 5 then .next (n.failed f) else .next (n.selfTest.getD (n.failed 5))
    | _, _ => stop (s.hk.flash.set 2 r) 2

end Sys2Proof.Machine
end

