-- ==== Sys2Proof/Machine/Window.lean ====
section
/-! DEFINITION. Window: what the host and peers do to the device: `W0` registers (spec R5, R7, R42, R410 to R414), scheduler memory (R370,
R138), `W1` and `W2` (R43), and inbound peer requests (R43, R153, R423). `Hsk.lastStatus` holds how the last request completed: 0
successfully, 1 Unsupported Request, 2 Completer Abort, 3 Malformed TLP without a completion, 256 + cause a fault flit. -/

namespace Sys2Proof.Machine

open Sys2Proof

def State.complete (s : State) (st : Nat) (data : List Byte) : State := s.modHk fun h => { h with lastStatus := st, lastRead := data }

/-! ### Scheduler memory (R370) -/

/-- Whether bytes o to o + n - 1 of scheduler memory meet what the acceptance in progress reads: the graph's entry, its nodes and, where they list
any (R371), its edges. -/
def Sched.pinnedRange (s : Sched) (o n : Nat) : Bool :=
  match s.pinned with
  | none => false
  | some g =>
    let e := graphTable + 16 * g
    let e0 := s.word e
    let e1 := s.word (e + 8)
    let meet := fun (a l : Nat) => o < a + l && a < o + n
    let nn := bits e0 48 8 + 1
    let lists := (List.range nn).any fun i => bits (s.word (bits e0 0 23 + 256 * i + 112)) 16 16 ≠ 0
    meet e 16 || meet (bits e0 0 23) (256 * nn) || (lists && meet (bits e1 0 23) (16 * (bits e1 23 16 + 1)))

/-- EN of an entry of the queue table; an unusable entry counts as EN 0 (R137). -/
def Sched.queueOn (s : Sched) (q : Nat) : Bool := (s.queueRow q).isSome

/-- R138: what a write of a range does to the queues whose EN it changes. One whose other fields change while EN stays 1 keeps its E and uses the new
fields from its next access on (DESIGN CHOICE, log 91). -/
def State.queueEdges (s : State) (old : Sched) (o n : Nat) : State :=
  ((List.range 1024).filter fun q => o < queueTable + 16 * q + 16 && queueTable + 16 * q < o + n).foldl (fun s q =>
    if s.sched.queueOn q = old.queueOn q then s
    else if s.sched.queueOn q then s.enableQueue q
    else { s with queues := s.queues.filter fun (x : Nat × CopyQueue) => x.1 ≠ q }) s

/-- A host write to scheduler memory: refused and dropped where it meets the acceptance in progress; the reserved range ignores it. -/
def State.schedWrite (s : State) (o : Nat) (bs : List Byte) : State :=
  let n := bs.length
  if !([4, 8, 16, 32, 64].contains n) || o % n ≠ 0 then s.complete 1 []
  else if o ≥ 0x700000 then s.complete 0 []
  else if s.sched.pinnedRange o n then
    (s.modHk fun h => { h with hstat := (h.hstat &&& 0xFF000000FFFFFFFF) ||| BitVec.ofNat 64 (o * 2 ^ 32) }.hstatBit 2).complete 0 []
  else ({ s with sched := { s.sched with mem := wrBytes s.sched.mem o bs } }.queueEdges s.sched o n).complete 0 []

/-- SCHEDULER_MEMORY_WRITE (R370, R410): aligned accesses of 4 to 64 bytes. -/
def execSchedulerMemoryWrite (off : Nat) (bytes : List Byte) (s : State) : Out := .next (s.schedWrite off bytes)

/-! ### Registers of W0 -/

/-- W1C bits of a register (R5). -/
def w1c (old v mask : W64) : W64 := old &&& ~~~(v &&& mask)

/-- A write to a register that has no behaviour of its own (R5, R7, R42, R412, R414); an unlisted offset ignores it. -/
def Hsk.writeReg (h : Hsk) (off : Nat) (v : W64) : Hsk :=
  if off = 0x50 then { h with hxctx := v.setWidth 9 }
  else if off = 0x58 then { h with w1base := v.extractLsb' 36 20 }
  else if off = 0x60 then { h with w2base := v.extractLsb' 36 20 }
  else if off = 0x68 then { h with hstat := w1c h.hstat v 0xE }
  else if off = 0x70 then { h with hint := w1c h.hint v 0x1F }
  else if 0x80 ≤ off && off < 0xE0 then { h with pxctx := h.pxctx.set ((off - 0x80) / 8 % 12) (v.setWidth 9) (Nat.mod_lt _ (by decide)) }
  else if off = 0x2000 then (if v.getLsbD 0 then h.mbGo else h)
  else if 0x2040 ≤ off && off < 0x2080 then { h with mbReq := mwr 0 h.mbReq ((off - 0x2040) / 8) v }
  else if 0x3000 ≤ off && off < 0x5000 then (if h.mbCmd.isSome then h else { h with mbData := wrBytes h.mbData (off - 0x3000) (leBytes 8 v.toNat) })
  else h

/-- REGISTER_WRITE (R5, R410, R411): a host write of 8 bytes or, with the flag, of 4 bytes to `W0`. In the register range any but an aligned 8-byte access is
an Unsupported Request. A register with a step of its own takes that step. -/
def execRegisterWrite (off : Nat) (v : W64) (s : State) : Out :=
  let s := s.complete 0 []
  let at_ := fun (k : Nat) => ({ s with cur := { s.cur with k := k, v := v } } : State)
  if off ≥ 0x800000 then .next (s.schedWrite (off - 0x800000) (leBytes (if s.cur.flag then 4 else 8) v.toNat))
  else if off % 8 ≠ 0 || s.cur.flag then .next (s.complete 1 [])
  else if off = 0x08 then execEnvelopeWrite (at_ 0)
  else if off = 0x10 then execPcapWrite (at_ 0)
  else if off = 0x20 then execProtmodeWrite (at_ 0)
  else if off = 0x28 then execPinlimWrite (at_ 0)
  else if off = 0x30 then execAgeWrite (at_ 0)
  else if off = 0x40 then execLaunchWrite (at_ 0)
  else if 0x1000 ≤ off && off < 0x1400 && off % 32 = 0 then execErrorBankClear (at_ ((off - 0x1000) / 32))
  else .next (s.modHk fun h => h.writeReg off v)

/-- What an aligned 8-byte host read of `W0` returns (R410 to R414, R5); the fields that a read clears are cleared by the steps LSTAT_READ
and MBSTAT_READ. An unlisted offset, and a field that is only written, reads as zero. -/
def State.readReg (s : State) (off : Nat) : W64 :=
  let h := s.hk
  let i := off / 8 % 8
  if off % 8 ≠ 0 then 0
  else if off ≥ 0x800000 then (if off ≥ 0xF00000 then 0 else s.sched.word (off - 0x800000))
  else if off = 0x00 then h.devstat
  else if off = 0x08 then h.envelopeReg
  else if off = 0x10 then h.pcapReg
  else if off = 0x18 then h.pstat
  else if off = 0x20 then h.protmode
  else if off = 0x28 then h.pinlimReg
  else if off = 0x30 then h.ageReg
  else if off = 0x48 then h.lstat
  else if off = 0x50 then h.hxctx.setWidth 64
  else if off = 0x58 then h.w1base.setWidth 64 <<< 36
  else if off = 0x60 then h.w2base.setWidth 64 <<< 36
  else if off = 0x68 then h.hstat
  else if off = 0x70 then h.hint
  else if 0x80 ≤ off && off < 0xE0 then (h.pxctx.get ⟨(off - 0x80) / 8 % 12, Nat.mod_lt _ (by decide)⟩).setWidth 64
  else if 0x100 ≤ off && off < 0x160 then h.link (port12 ((off - 0x100) / 8))
  else if 0x200 ≤ off && off < 0x400 then s.corestat (coreId ((off - 0x200) / 8))
  else if 0x1000 ≤ off && off < 0x1400 then
    let b := h.banks.get ⟨(off - 0x1000) / 32 % 32, Nat.mod_lt _ (by decide)⟩
    match i % 4 with | 0 => b.w0 | 1 => b.w1 | 2 => b.w2 | _ => b.w3
  else if off = 0x2008 then h.mbstat
  else if 0x2040 ≤ off && off < 0x2080 then mrd 0 h.mbReq i
  else if 0x2080 ≤ off && off < 0x20C0 then mrd 0 h.mbResp i
  else if 0x3000 ≤ off && off < 0x5000 then BitVec.ofNat 64 (rdNat h.mbData (off - 0x3000) 8)
  else 0

/-- A host read of n bytes of `W0` (R410): how it completes, and its data. The scheduler-memory range takes aligned reads of 4 to 64 bytes, and its
reserved part reads as zero (R370). -/
def State.readW0 (s : State) (off n : Nat) : Nat × List Byte :=
  if off ≥ 0x800000 then
    if !([4, 8, 16, 32, 64].contains n) || off % n ≠ 0 then (1, [])
    else (0, if off ≥ 0xF00000 then List.replicate n 0 else rdBytes s.sched.mem (off - 0x800000) n)
  else if n ≠ 8 || off % 8 ≠ 0 then (1, [])
  else (0, leBytes 8 (s.readReg off).toNat)

/-! ### Translated access (R43) -/

/-- The KIND of a request and its length. -/
def reqKind : AccessKind → AccKind
  | .read _ => .load
  | .write _ => .store
  | .fetchAdd .. => .atomic

def reqLen : AccessKind → Nat
  | .read n => n
  | .write b => b.length
  | .fetchAdd n _ => n

/-- R50: the detail with KIND 7. -/
def hostDetail (d : Byte) : Byte := (d &&& 7) ||| 0x38

/-- A request translated in a domain: its segments, or a cause and a detail, page by page. A class 4 leaf is refused with `XLPERM` at its level,
unless the request moves Etben blocks. -/
def State.transHost (s : State) (dom va : Nat) (k : AccessKind) (blocks : Bool) : Except (Byte × Byte) (List Seg) × State :=
  (pieces 65536 (reqLen k + 1) va (reqLen k)).foldl (fun acc p =>
    match acc.1 with
    | .error _ => acc
    | .ok l => match acc.2.transPieceX dom (reqKind k) p.1 p.2 with
      | (.ok segs, s) =>
        if segs.any (fun g => g.cls = 4) && !blocks then
          let lv := match (walkVa s dom p.1).1 with | .leaf _ lv _ => lv | .fault _ lv => lv
          (.error (cXlperm, xlDetail .host lv), s)
        else (.ok (l ++ segs), s)
      | (.fault c d _, s) => (.error (if c = cCompratom then cXlperm else c, hostDetail d), s)
      | (.miss, s) => (.error (cXlinval, xlDetail .host 0), s)) (.ok [], s)

/-- A fetch-add on translated bytes (R139): the old value. -/
def State.fetchAdd (s : State) (dom : Nat) (segs : List Seg) (n : Nat) (v : W64) : List Byte × State :=
  let r := s.mem.readSegs segs
  let (m, rs) := if r.bad then (r.mem, []) else r.mem.writeSegs segs (leBytes n (leNat r.bytes + v.toNat)) false
  (r.bytes, { s with mem := m }.addRecs (inDomain dom (r.recs ++ rs)))

/-- A request performed at its homes (R131): what it returns. -/
def State.performHost (s : State) (dom : Nat) (segs : List Seg) : AccessKind → List Byte × State
  | .read _ => let r := s.mem.readSegs segs; (r.bytes, { s with mem := r.mem }.addRecs (inDomain dom r.recs))
  | .write b => let (m, rs) := s.mem.writeSegs segs b false; ([], { s with mem := m }.addRecs (inDomain dom rs))
  | .fetchAdd n v => s.fetchAdd dom segs n v

/-- The record of a refused host request (R43, R407). -/
def hostRec (win off : Nat) (dom : Nat) (c d : Byte) : ErrRec :=
  { event := 0x06, sev := 2, unit := 12, cause := c, detail := d, synd := c.setWidth 64, addr := BitVec.ofNat 64 (win * 2 ^ 62 + off % 2 ^ 38), domain := dom }

/-- Whether an AtomicOp is not naturally aligned to its operand size. -/
def reqMisaligned (va : Nat) : AccessKind → Bool
  | .fetchAdd n _ => n = 0 || va % n ≠ 0
  | _ => false

/-- HOST_W1_ACCESS (R43, R131, R410). -/
def execHostW1Access (a : HostAccess) (s : State) : Out :=
  let dom := bits (s.hk.hxctx.setWidth 64) 0 8
  let va := s.hk.w1base.toNat * 2 ^ 36 + a.off % 2 ^ 36
  if !s.hk.ready || !s.hk.hxctx.getLsbD 8 then .next (s.complete 1 [])
  else if reqMisaligned va a.kind then .next ((s.complete 3 []).addRec (hostRec 1 a.off dom cGalign (preDetail .host)))
  else match s.transHost dom va a.kind false with
    | (.error (c, d), s) => .next ((s.complete 2 []).addRec (hostRec 1 a.off dom c d))
    | (.ok segs, s) =>
      let (b, s) := s.performHost dom segs a.kind
      .next (s.complete 0 b)

/-- HOST_W2_READ (R43, R102): logical data of a class 4 page, stored data of any other; a write is an Unsupported Request, and so with the flag is
an AtomicOp of n bytes, unless it is misaligned: a Malformed TLP. -/
def execHostW2Read (off n : Nat) (write : Bool) (s : State) : Out :=
  let dom := bits (s.hk.hxctx.setWidth 64) 0 8
  let va := s.hk.w2base.toNat * 2 ^ 36 + off % 2 ^ 36
  if !s.hk.ready || !s.hk.hxctx.getLsbD 8 then .next (s.complete 1 [])
  else if s.cur.flag && reqMisaligned va (.fetchAdd n 0) then .next ((s.complete 3 []).addRec (hostRec 2 off dom cGalign (preDetail .host)))
  else if write || s.cur.flag then .next (s.complete 1 [])
  else match s.transHost dom va (.read n) true with
    | (.error (c, d), s) => .next ((s.complete 2 []).addRec (hostRec 2 off dom c d))
    | (.ok segs, s) =>
      let (b, s) := s.performHost dom segs (.read n)
      .next (s.complete 0 b)

/-! ### Inbound peer requests -/

/-- The record of a refused peer request. -/
def peerRec (n : Fin 12) (addr : BitVec 52) (dom : Nat) (c d : Byte) : ErrRec :=
  { event := 0x06, sev := 2, unit := 11, cause := c, detail := d, synd := c.setWidth 64, addr := addr.setWidth 64, domain := dom, port := n.val }

/-- R152, R153: the blocks of an image of m bytes. -/
def imageBlocks (m : Nat) : Nat := (List.range (m / 256 + 1)).foldl (fun b i => if (4 * i + 63) / 64 * 64 + 256 * i = m then i else b) 0

/-- One class 4 block of a block transfer written: logical bytes are encoded canonically, those of an image as they come (R153). -/
def State.putBlockAt (s : State) (dom : Nat) (g : Seg) (stored : List Byte) (encoded : Bool) : State :=
  let (m, rs) := s.mem.writeSlot g.home g.key (g.pa / 256) stored encoded 0
  { s with mem := m }.addRecs (inDomain dom rs)

/-- A block transfer of a peer's copy engine to class 4 pages (R43, R153), block by block; `img` where the next hop holds Etben blocks: this port
for a write, the peer's for a read. -/
def State.blockTransfer (s : State) (dom : Nat) (segs : List Seg) (img : Bool) : AccessKind → List Byte × State
  | .write b =>
    let n := if img then imageBlocks b.length else b.length / 256
    let h := (4 * n + 63) / 64 * 64
    ([], (List.range n).foldl (fun s i =>
      match sliceSegs (256 * i) 256 segs with
      | g :: _ =>
        if img then s.putBlockAt dom g ((b.drop (h + 256 * i)).take 256) (nb (leNat ((b.drop (4 * i)).take 4)) 0 4 ≠ 0)
        else let e := etbEncode ((b.drop (256 * i)).take 256); s.putBlockAt dom g e.1 e.2
      | [] => s) s)
  | .read n =>
    if !img then s.performHost dom segs (.read n)
    else
      let (bl, s) := (List.range (n / 256)).foldl (fun (acc : List (Nat × List Byte) × State) i =>
        match sliceSegs (256 * i) 256 segs with
        | g :: _ =>
          let r := acc.2.mem.slotBytes g.home g.key (g.pa / 256)
          let x := imageSlot (withMarks r.bytes r.bad) r.encoded
          (acc.1 ++ [(x.1, x.2.map Prod.fst)], { acc.2 with mem := r.mem }.addRecs (inDomain dom r.recs))
        | [] => acc) ([], s)
      let hd := bl.flatMap fun x => leBytes 4 x.1
      (hd ++ List.replicate ((hd.length + 63) / 64 * 64 - hd.length) 0 ++ bl.flatMap Prod.snd, s)
  | .fetchAdd n v => s.fetchAdd dom segs n v

/-- The header of a flit (R423): its type, for a fault response the cause code, the transaction tag, and the length or address extension. -/
def flitHeader (type cause tag ext : Nat) : W64 := BitVec.ofNat 64 (type % 256 + cause % 256 * 2 ^ 8 + tag % 65536 * 2 ^ 16 + ext % 2 ^ 32 * 2 ^ 32)

/-- The answer to a request (R423): its first flit is of type 2 for data, 3 for a completion without data, 4 for a fault; it carries the tag of the
request and, DESIGN CHOICE (log 89), the length of the request. -/
def State.peerAnswers (s : State) (status tag len : Nat) (b : List Byte) : State :=
  (s.complete status b).modHk fun h =>
    { h with lastFlit := if status ≥ 256 then flitHeader 4 (status - 256) tag len else flitHeader (if b.isEmpty then 3 else 2) 0 tag len }

/-- INBOUND_PEER_REQUEST (R43, R153, R423): on a port that is up. `flag` says that a peer's copy engine moves whole blocks; `k` is the
transaction tag of the request. -/
def execInboundPeerRequest (port : Fin 12) (a : PeerAccess) (s : State) : Out :=
  let ctx := s.hk.pxctx.get port
  let dom := bits (ctx.setWidth 64) 0 8
  let va := a.addr.toNat
  let lw := s.hk.link port
  let img := match a.kind with | .write _ => lw.getLsbD 1 | _ => lw.getLsbD 2
  let refuse := fun (s : State) (c d : Byte) => (s.peerAnswers (256 + c.toNat) s.cur.k (reqLen a.kind) []).addRec (peerRec port a.addr dom c d)
  let size := match a.kind with | .write b => if img then 256 * imageBlocks b.length else b.length | k => reqLen k
  let blocks := s.cur.flag && reqKind a.kind ≠ .atomic && va % 256 = 0 && size % 256 = 0
  if !s.mem.linkUp.getLsbD port.val then .next s
  else if !ctx.getLsbD 8 then .next (refuse s 0 0)
  else if reqMisaligned va a.kind then .next (refuse s cGalign (preDetail .host))
  else
    let first := if blocks then s.transX dom (reqKind a.kind) va size else (.miss, s)
    match first with
    | (.ok segs, s') =>
      if segs.all fun g => g.cls = 4 then
        let (b, s) := s'.blockTransfer dom segs img a.kind
        .next (s.peerAnswers 0 s.cur.k (reqLen a.kind) b)
      else match s'.transHost dom va a.kind false with
        | (.error (c, d), s) => .next (refuse s c d)
        | (.ok segs, s) => let (b, s) := s.performHost dom segs a.kind; .next (s.peerAnswers 0 s.cur.k (reqLen a.kind) b)
    | _ => match s.transHost dom va a.kind false with
      | (.error (c, d), s) => .next (refuse s c d)
      | (.ok segs, s) => let (b, s) := s.performHost dom segs a.kind; .next (s.peerAnswers 0 s.cur.k (reqLen a.kind) b)

end Sys2Proof.Machine
end

