-- ==== Sys2Proof/Machine/Dispatch.lean ====
section
/-! DEFINITION. Dispatch: one arm per constructor of `Instr`, each a direct call of its meaning. -/

namespace Sys2Proof.Machine

open Sys2Proof

/-- The meaning of each row of spec/opcode_table.json. -/
def exec (i : Instr) (s : State) : Host.Outcome State Fault Refusal :=
  match i with
  | .add u m => Sys2Proof.Machine.execAdd u m s
  | .sub u m => Sys2Proof.Machine.execSub u m s
  | .addw u m => Sys2Proof.Machine.execAddw u m s
  | .subw u m => Sys2Proof.Machine.execSubw u m s
  | .mul u m => Sys2Proof.Machine.execMul u m s
  | .mulh u m => Sys2Proof.Machine.execMulh u m s
  | .mulhz u m => Sys2Proof.Machine.execMulhz u m s
  | .div u m => Sys2Proof.Machine.execDiv u m s
  | .divz u m => Sys2Proof.Machine.execDivz u m s
  | .rem u m => Sys2Proof.Machine.execRem u m s
  | .remz u m => Sys2Proof.Machine.execRemz u m s
  | .and u m => Sys2Proof.Machine.execAnd u m s
  | .or u m => Sys2Proof.Machine.execOr u m s
  | .xor u m => Sys2Proof.Machine.execXor u m s
  | .andn u m => Sys2Proof.Machine.execAndn u m s
  | .orn u m => Sys2Proof.Machine.execOrn u m s
  | .lut3 u m => Sys2Proof.Machine.execLut3 u m s
  | .shl u m => Sys2Proof.Machine.execShl u m s
  | .shr u m => Sys2Proof.Machine.execShr u m s
  | .sra u m => Sys2Proof.Machine.execSra u m s
  | .rotl u m => Sys2Proof.Machine.execRotl u m s
  | .clz u m => Sys2Proof.Machine.execClz u m s
  | .ctz u m => Sys2Proof.Machine.execCtz u m s
  | .popc u m => Sys2Proof.Machine.execPopc u m s
  | .brev u m => Sys2Proof.Machine.execBrev u m s
  | .bswap u m => Sys2Proof.Machine.execBswap u m s
  | .min u m => Sys2Proof.Machine.execMin u m s
  | .max u m => Sys2Proof.Machine.execMax u m s
  | .minz u m => Sys2Proof.Machine.execMinz u m s
  | .maxz u m => Sys2Proof.Machine.execMaxz u m s
  | .eq u m => Sys2Proof.Machine.execEq u m s
  | .ne u m => Sys2Proof.Machine.execNe u m s
  | .lt u m => Sys2Proof.Machine.execLt u m s
  | .le u m => Sys2Proof.Machine.execLe u m s
  | .ltz u m => Sys2Proof.Machine.execLtz u m s
  | .lez u m => Sys2Proof.Machine.execLez u m s
  | .bfx u m => Sys2Proof.Machine.execBfx u m s
  | .bfi u m => Sys2Proof.Machine.execBfi u m s
  | .sext u m => Sys2Proof.Machine.execSext u m s
  | .zext u m => Sys2Proof.Machine.execZext u m s
  | .cmul16 u m => Sys2Proof.Machine.execCmul16 u m s
  | .pand m => Sys2Proof.Machine.execPand m s
  | .por m => Sys2Proof.Machine.execPor m s
  | .pxor m => Sys2Proof.Machine.execPxor m s
  | .pnot m => Sys2Proof.Machine.execPnot m s
  | .pany m => Sys2Proof.Machine.execPany m s
  | .pall m => Sys2Proof.Machine.execPall m s
  | .jump m => Sys2Proof.Machine.execJump m s
  | .jlink m => Sys2Proof.Machine.execJlink m s
  | .loopset m => Sys2Proof.Machine.execLoopset m s
  | .loopend m => Sys2Proof.Machine.execLoopend m s
  | .endTask m => Sys2Proof.Machine.execEndTask m s
  | .kwait m => Sys2Proof.Machine.execKwait m s
  | .kpoll m => Sys2Proof.Machine.execKpoll m s
  | .kfree m => Sys2Proof.Machine.execKfree m s
  | .rdcyc m => Sys2Proof.Machine.execRdcyc m s
  | .swtrap m => Sys2Proof.Machine.execSwtrap m s
  | .csrr m => Sys2Proof.Machine.execCsrr m s
  | .csrw m => Sys2Proof.Machine.execCsrw m s
  | .launch m => Sys2Proof.Machine.execLaunch m s
  | .eret m => Sys2Proof.Machine.execEret m s
  | .bkpt m => Sys2Proof.Machine.execBkpt m s
  | .idle m => Sys2Proof.Machine.execIdle m s
  | .tlbinv m => Sys2Proof.Machine.execTlbinv m s
  | .l1inv m => Sys2Proof.Machine.execL1inv m s
  | .mpload m => Sys2Proof.Machine.execMpload m s
  | .vadd u m => Sys2Proof.Machine.execVadd u m s
  | .vsub u m => Sys2Proof.Machine.execVsub u m s
  | .vmul u m => Sys2Proof.Machine.execVmul u m s
  | .vmulh u m => Sys2Proof.Machine.execVmulh u m s
  | .vfma u m => Sys2Proof.Machine.execVfma u m s
  | .vabs u m => Sys2Proof.Machine.execVabs u m s
  | .vneg u m => Sys2Proof.Machine.execVneg u m s
  | .vmin u m => Sys2Proof.Machine.execVmin u m s
  | .vmax u m => Sys2Proof.Machine.execVmax u m s
  | .vclamp u m => Sys2Proof.Machine.execVclamp u m s
  | .vand u m => Sys2Proof.Machine.execVand u m s
  | .vor u m => Sys2Proof.Machine.execVor u m s
  | .vxor u m => Sys2Proof.Machine.execVxor u m s
  | .vlut3 u m => Sys2Proof.Machine.execVlut3 u m s
  | .vshl u m => Sys2Proof.Machine.execVshl u m s
  | .vshr u m => Sys2Proof.Machine.execVshr u m s
  | .vsra u m => Sys2Proof.Machine.execVsra u m s
  | .vclz u m => Sys2Proof.Machine.execVclz u m s
  | .vpopc u m => Sys2Proof.Machine.execVpopc u m s
  | .vcmpeq u m => Sys2Proof.Machine.execVcmpeq u m s
  | .vcmpne u m => Sys2Proof.Machine.execVcmpne u m s
  | .vcmplt u m => Sys2Proof.Machine.execVcmplt u m s
  | .vcmple u m => Sys2Proof.Machine.execVcmple u m s
  | .vsel u m => Sys2Proof.Machine.execVsel u m s
  | .vcvt u m => Sys2Proof.Machine.execVcvt u m s
  | .vsatq u m => Sys2Proof.Machine.execVsatq u m s
  | .vscale u m => Sys2Proof.Machine.execVscale u m s
  | .vdot2 u m => Sys2Proof.Machine.execVdot2 u m s
  | .vdot4 u m => Sys2Proof.Machine.execVdot4 u m s
  | .vsum u m => Sys2Proof.Machine.execVsum u m s
  | .vrmax u m => Sys2Proof.Machine.execVrmax u m s
  | .vrmin u m => Sys2Proof.Machine.execVrmin u m s
  | .vscan u m => Sys2Proof.Machine.execVscan u m s
  | .vmin2 u m => Sys2Proof.Machine.execVmin2 u m s
  | .vcmul u m => Sys2Proof.Machine.execVcmul u m s
  | .vcmac u m => Sys2Proof.Machine.execVcmac u m s
  | .vconj u m => Sys2Proof.Machine.execVconj u m s
  | .vcabs2 u m => Sys2Proof.Machine.execVcabs2 u m s
  | .vperm u m => Sys2Proof.Machine.execVperm u m s
  | .vbperm u m => Sys2Proof.Machine.execVbperm u m s
  | .vbmat8 u m => Sys2Proof.Machine.execVbmat8 u m s
  | .vshuf u m => Sys2Proof.Machine.execVshuf u m s
  | .vrot u m => Sys2Proof.Machine.execVrot u m s
  | .vsort2 u m => Sys2Proof.Machine.execVsort2 u m s
  | .vbcast u m => Sys2Proof.Machine.execVbcast u m s
  | .vext u m => Sys2Proof.Machine.execVext u m s
  | .vins u m => Sys2Proof.Machine.execVins u m s
  | .vptest u m => Sys2Proof.Machine.execVptest u m s
  | .vpset u m => Sys2Proof.Machine.execVpset u m s
  | .vpclr u m => Sys2Proof.Machine.execVpclr u m s
  | .rcp m => Sys2Proof.Machine.execRcp m s
  | .rsq m => Sys2Proof.Machine.execRsq m s
  | .rcpstep m => Sys2Proof.Machine.execRcpstep m s
  | .rsqstep m => Sys2Proof.Machine.execRsqstep m s
  | .sqrt m => Sys2Proof.Machine.execSqrt m s
  | .exp2 m => Sys2Proof.Machine.execExp2 m s
  | .log2 m => Sys2Proof.Machine.execLog2 m s
  | .sinp m => Sys2Proof.Machine.execSinp m s
  | .cosp m => Sys2Proof.Machine.execCosp m s
  | .tanh m => Sys2Proof.Machine.execTanh m s
  | .sigm m => Sys2Proof.Machine.execSigm m s
  | .ttw m => Sys2Proof.Machine.execTtw m s
  | .ttr m => Sys2Proof.Machine.execTtr m s
  | .ttclr m => Sys2Proof.Machine.execTtclr m s
  | .ttcvt m => Sys2Proof.Machine.execTtcvt m s
  | .lds8 u m => Sys2Proof.Machine.execLds8 u m s
  | .ldz8 u m => Sys2Proof.Machine.execLdz8 u m s
  | .lds16 u m => Sys2Proof.Machine.execLds16 u m s
  | .ldz16 u m => Sys2Proof.Machine.execLdz16 u m s
  | .lds32 u m => Sys2Proof.Machine.execLds32 u m s
  | .ldz32 u m => Sys2Proof.Machine.execLdz32 u m s
  | .ld64 u m => Sys2Proof.Machine.execLd64 u m s
  | .st8 u m => Sys2Proof.Machine.execSt8 u m s
  | .st16 u m => Sys2Proof.Machine.execSt16 u m s
  | .st32 u m => Sys2Proof.Machine.execSt32 u m s
  | .st64 u m => Sys2Proof.Machine.execSt64 u m s
  | .vld u m => Sys2Proof.Machine.execVld u m s
  | .vst u m => Sys2Proof.Machine.execVst u m s
  | .vldg u m => Sys2Proof.Machine.execVldg u m s
  | .vsts u m => Sys2Proof.Machine.execVsts u m s
  | .gld u m => Sys2Proof.Machine.execGld u m s
  | .gst u m => Sys2Proof.Machine.execGst u m s
  | .gvld u m => Sys2Proof.Machine.execGvld u m s
  | .gvst u m => Sys2Proof.Machine.execGvst u m s
  | .xld u m => Sys2Proof.Machine.execXld u m s
  | .xst u m => Sys2Proof.Machine.execXst u m s
  | .xvld u m => Sys2Proof.Machine.execXvld u m s
  | .pref u m => Sys2Proof.Machine.execPref u m s
  | .amoadd u m => Sys2Proof.Machine.execAmoadd u m s
  | .amomin u m => Sys2Proof.Machine.execAmomin u m s
  | .amomax u m => Sys2Proof.Machine.execAmomax u m s
  | .amoand u m => Sys2Proof.Machine.execAmoand u m s
  | .amoor u m => Sys2Proof.Machine.execAmoor u m s
  | .amoxor u m => Sys2Proof.Machine.execAmoxor u m s
  | .amoswp u m => Sys2Proof.Machine.execAmoswp u m s
  | .amocas u m => Sys2Proof.Machine.execAmocas u m s
  | .amofadd u m => Sys2Proof.Machine.execAmofadd u m s
  | .gamoadd u m => Sys2Proof.Machine.execGamoadd u m s
  | .gamomin u m => Sys2Proof.Machine.execGamomin u m s
  | .gamomax u m => Sys2Proof.Machine.execGamomax u m s
  | .gamoswp u m => Sys2Proof.Machine.execGamoswp u m s
  | .gamocas u m => Sys2Proof.Machine.execGamocas u m s
  | .gamofadd u m => Sys2Proof.Machine.execGamofadd u m s
  | .amoaddn u m => Sys2Proof.Machine.execAmoaddn u m s
  | .amominn u m => Sys2Proof.Machine.execAmominn u m s
  | .amomaxn u m => Sys2Proof.Machine.execAmomaxn u m s
  | .amoandn u m => Sys2Proof.Machine.execAmoandn u m s
  | .amoorn u m => Sys2Proof.Machine.execAmoorn u m s
  | .amoxorn u m => Sys2Proof.Machine.execAmoxorn u m s
  | .amoswpn u m => Sys2Proof.Machine.execAmoswpn u m s
  | .amocasn u m => Sys2Proof.Machine.execAmocasn u m s
  | .amofaddn u m => Sys2Proof.Machine.execAmofaddn u m s
  | .gamoaddn u m => Sys2Proof.Machine.execGamoaddn u m s
  | .gamominn u m => Sys2Proof.Machine.execGamominn u m s
  | .gamomaxn u m => Sys2Proof.Machine.execGamomaxn u m s
  | .gamoswpn u m => Sys2Proof.Machine.execGamoswpn u m s
  | .gamocasn u m => Sys2Proof.Machine.execGamocasn u m s
  | .gamofaddn u m => Sys2Proof.Machine.execGamofaddn u m s
  | .drain m => Sys2Proof.Machine.execDrain m s
  | .rel m => Sys2Proof.Machine.execRel m s
  | .acq m => Sys2Proof.Machine.execAcq m s
  | .fadd m => Sys2Proof.Machine.execFadd m s
  | .fset m => Sys2Proof.Machine.execFset m s
  | .fwait m => Sys2Proof.Machine.execFwait m s
  | .join m => Sys2Proof.Machine.execJoin m s
  | .leave m => Sys2Proof.Machine.execLeave m s
  | .gmask m => Sys2Proof.Machine.execGmask m s
  | .hmake m => Sys2Proof.Machine.execHmake m s
  | .hgive m => Sys2Proof.Machine.execHgive m s
  | .hlend m => Sys2Proof.Machine.execHlend m s
  | .hpool m => Sys2Proof.Machine.execHpool m s
  | .hreclaim m => Sys2Proof.Machine.execHreclaim m s
  | .hfree m => Sys2Proof.Machine.execHfree m s
  | .ceCpy m => Sys2Proof.Machine.execCeCpy m s
  | .ceCinit m => Sys2Proof.Machine.execCeCinit m s
  | .cfAwait m => Sys2Proof.Machine.execCfAwait m s
  | .cfRelease m => Sys2Proof.Machine.execCfRelease m s
  | .cfStat m => Sys2Proof.Machine.execCfStat m s
  | .aqPush m => Sys2Proof.Machine.execAqPush m s
  | .yqPop gs dst => Sys2Proof.Machine.execYqPop gs dst s
  | .nmIred u m => Sys2Proof.Machine.execNmIred u m s
  | .nmFadd u m => Sys2Proof.Machine.execNmFadd u m s
  | .nmIadd u m => Sys2Proof.Machine.execNmIadd u m s
  | .nmPop u gs dst => Sys2Proof.Machine.execNmPop u gs dst s
  | .nfence m => Sys2Proof.Machine.execNfence m s
  | .allred m => Sys2Proof.Machine.execAllred m s
  | .bcast m => Sys2Proof.Machine.execBcast m s
  | .rgather m => Sys2Proof.Machine.execRgather m s
  | .cimCall m => Sys2Proof.Machine.execCimCall m s
  | .cimStep m => Sys2Proof.Machine.execCimStep m s
  | .cimStat m => Sys2Proof.Machine.execCimStat m s
  | .cimMpsw m => Sys2Proof.Machine.execCimMpsw m s
  | .mjmp cnd r tgt => Sys2Proof.Machine.execMjmp cnd r tgt s
  | .mlpi l src r cnt => Sys2Proof.Machine.execMlpi l src r cnt s
  | .mlpe l => Sys2Proof.Machine.execMlpe l s
  | .mset d src p hi imm => Sys2Proof.Machine.execMset d src p hi imm s
  | .madd d sreg imm => Sys2Proof.Machine.execMadd d sreg imm s
  | .mmod mf mnm1 mode => Sys2Proof.Machine.execMmod mf mnm1 mode s
  | .mprc cfg => Sys2Proof.Machine.execMprc cfg s
  | .mscl sel r imm => Sys2Proof.Machine.execMscl sel r imm s
  | .msel mf mnm1 pat => Sys2Proof.Machine.execMsel mf mnm1 pat s
  | .mld mf mnm1 r => Sys2Proof.Machine.execMld mf mnm1 r s
  | .mswp mf mnm1 => Sys2Proof.Machine.execMswp mf mnm1 s
  | .mbc mf mnm1 g lane0 src r => Sys2Proof.Machine.execMbc mf mnm1 g lane0 src r s
  | .mprm mf mnm1 stk r lo of_ onm1 => Sys2Proof.Machine.execMprm mf mnm1 stk r lo of_ onm1 s
  | .mclr mf mnm1 rows r nrm1 => Sys2Proof.Machine.execMclr mf mnm1 rows r nrm1 s
  | .mchk mf mnm1 => Sys2Proof.Machine.execMchk mf mnm1 s
  | .mout r nrm1 => Sys2Proof.Machine.execMout r nrm1 s
  | .mpoi r nrm1 clr bits => Sys2Proof.Machine.execMpoi r nrm1 clr bits s
  | .mwtq q n => Sys2Proof.Machine.execMwtq q n s
  | .mtok tok => Sys2Proof.Machine.execMtok tok s
  | .mtkw tok => Sys2Proof.Machine.execMtkw tok s
  | .dispatch picks => Sys2Proof.Machine.execDispatch picks s
  | .schedulerMemoryWrite off bytes => Sys2Proof.Machine.execSchedulerMemoryWrite off bytes s
  | .registerWrite off v => Sys2Proof.Machine.execRegisterWrite off v s
  | .hostW1Access a => Sys2Proof.Machine.execHostW1Access a s
  | .hostW2Read off n write => Sys2Proof.Machine.execHostW2Read off n write s
  | .inboundPeerRequest port a => Sys2Proof.Machine.execInboundPeerRequest port a s
  | .bundleIssue => Sys2Proof.Machine.execBundleIssue s
  | .resultLanding => Sys2Proof.Machine.execResultLanding s
  | .variableResultLanding => Sys2Proof.Machine.execVariableResultLanding s
  | .translationWalk => Sys2Proof.Machine.execTranslationWalk s
  | .checkpointRelease => Sys2Proof.Machine.execCheckpointRelease s
  | .signalPerform => Sys2Proof.Machine.execSignalPerform s
  | .drainComplete => Sys2Proof.Machine.execDrainComplete s
  | .relComplete => Sys2Proof.Machine.execRelComplete s
  | .l1Writeback => Sys2Proof.Machine.execL1Writeback s
  | .canopyFill => Sys2Proof.Machine.execCanopyFill s
  | .remoteAccessArrival => Sys2Proof.Machine.execRemoteAccessArrival s
  | .deferredRefusalArrival => Sys2Proof.Machine.execDeferredRefusalArrival s
  | .handleOperationCheck => Sys2Proof.Machine.execHandleOperationCheck s
  | .handleOperationPerform => Sys2Proof.Machine.execHandleOperationPerform s
  | .trapEntry => Sys2Proof.Machine.execTrapEntry s
  | .mploadComplete => Sys2Proof.Machine.execMploadComplete s
  | .atomicPerform => Sys2Proof.Machine.execAtomicPerform s
  | .copyPacketAccept => Sys2Proof.Machine.execCopyPacketAccept s
  | .carafeSlotAssign => Sys2Proof.Machine.execCarafeSlotAssign s
  | .copyComplete => Sys2Proof.Machine.execCopyComplete s
  | .iredResult => Sys2Proof.Machine.execIredResult s
  | .nearAddApply => Sys2Proof.Machine.execNearAddApply s
  | .nfenceComplete => Sys2Proof.Machine.execNfenceComplete s
  | .collectiveStart => Sys2Proof.Machine.execCollectiveStart s
  | .collectiveComplete => Sys2Proof.Machine.execCollectiveComplete s
  | .cimRoutineStart => Sys2Proof.Machine.execCimRoutineStart s
  | .mnop => Sys2Proof.Machine.execMnop s
  | .mend => Sys2Proof.Machine.execMend s
  | .grinderFill => Sys2Proof.Machine.execGrinderFill s
  | .engineTokenDone => Sys2Proof.Machine.execEngineTokenDone s
  | .taskEnd => Sys2Proof.Machine.execTaskEnd s
  | .launchAccept => Sys2Proof.Machine.execLaunchAccept s
  | .agePromotion => Sys2Proof.Machine.execAgePromotion s
  | .discard => Sys2Proof.Machine.execDiscard s
  | .standbyPrepare => Sys2Proof.Machine.execStandbyPrepare s
  | .instanceComplete => Sys2Proof.Machine.execInstanceComplete s
  | .budgetExpiry => Sys2Proof.Machine.execBudgetExpiry s
  | .budgetGraceExpiry => Sys2Proof.Machine.execBudgetGraceExpiry s
  | .envelopeChange => Sys2Proof.Machine.execEnvelopeChange s
  | .lockstepPairing => Sys2Proof.Machine.execLockstepPairing s
  | .powerClockStep => Sys2Proof.Machine.execPowerClockStep s
  | .capEnforce => Sys2Proof.Machine.execCapEnforce s
  | .errorRecordPlace => Sys2Proof.Machine.execErrorRecordPlace s
  | .patrolScrub => Sys2Proof.Machine.execPatrolScrub s
  | .refresh => Sys2Proof.Machine.execRefresh s
  | .backgroundZeroing => Sys2Proof.Machine.execBackgroundZeroing s
  | .deviceReset => Sys2Proof.Machine.execDeviceReset s
  | .launchWrite => Sys2Proof.Machine.execLaunchWrite s
  | .lstatRead => Sys2Proof.Machine.execLstatRead s
  | .mbstatRead => Sys2Proof.Machine.execMbstatRead s
  | .envelopeWrite => Sys2Proof.Machine.execEnvelopeWrite s
  | .protmodeWrite => Sys2Proof.Machine.execProtmodeWrite s
  | .pcapWrite => Sys2Proof.Machine.execPcapWrite s
  | .pinlimWrite => Sys2Proof.Machine.execPinlimWrite s
  | .ageWrite => Sys2Proof.Machine.execAgeWrite s
  | .errorBankClear => Sys2Proof.Machine.execErrorBankClear s
  | .linkTraining => Sys2Proof.Machine.execLinkTraining s
  | .linkDown => Sys2Proof.Machine.execLinkDown s
  | .flitRetry => Sys2Proof.Machine.execFlitRetry s
  | .glalloc => Sys2Proof.Machine.execGlalloc s
  | .glfree => Sys2Proof.Machine.execGlfree s
  | .cwret => Sys2Proof.Machine.execCwret s
  | .dbgctl => Sys2Proof.Machine.execDbgctl s
  | .dbggo => Sys2Proof.Machine.execDbggo s
  | .dbgrd => Sys2Proof.Machine.execDbgrd s
  | .debugHalt => Sys2Proof.Machine.execDebugHalt s
  | .stepStop => Sys2Proof.Machine.execStepStop s
  | .attest => Sys2Proof.Machine.execAttest s
  | .mpwrite => Sys2Proof.Machine.execMpwrite s
  | .hostTlbinv => Sys2Proof.Machine.execHostTlbinv s
  | .coreswap => Sys2Proof.Machine.execCoreswap s
  | .spareSwap => Sys2Proof.Machine.execSpareSwap s
  | .macret => Sys2Proof.Machine.execMacret s
  | .macroRetirement => Sys2Proof.Machine.execMacroRetirement s
  | .hbmsvc => Sys2Proof.Machine.execHbmsvc s
  | .lanert => Sys2Proof.Machine.execLanert s
  | .fwstage => Sys2Proof.Machine.execFwstage s
  | .fwswitch => Sys2Proof.Machine.execFwswitch s
  | .schedulerImageSwitch => Sys2Proof.Machine.execSchedulerImageSwitch s
  | .keyload => Sys2Proof.Machine.execKeyload s
  | .keyunld => Sys2Proof.Machine.execKeyunld s
  | .globalStoreArrival => Sys2Proof.Machine.execGlobalStoreArrival s
  | .coreResetAndTest => Sys2Proof.Machine.execCoreResetAndTest s
  | .hbmChannelResume => Sys2Proof.Machine.execHbmChannelResume s
  | .hostLinkDown => Sys2Proof.Machine.execHostLinkDown s
  | .laneLoss => Sys2Proof.Machine.execLaneLoss s

end Sys2Proof.Machine
end

