-- ==== Sys2Proof/Machine/Turns.lean ====
section
/-! DEFINITION. Turns: who moves next. The agents of the device take turns: `State.agenda` names them in order, and where it names none a free
value does (notes/assumptions/1.md). A bundle that has started runs its slots first (spec R202). -/

namespace Sys2Proof.Machine

open Sys2Proof

/-- The turn that the next step takes. -/
def State.turn (s : State) : Turn :=
  match s.agenda with
  | a :: _ => a
  | [] => Config.choice s.clock

/-- The state in which the event or micro-operation of a turn happens. -/
def State.atTurn (s : State) (a : Stim) : State := { s with agenda := s.agenda.tail, clock := s.clock + 1, cur := a }

/-- The state in which a slot of the bundle in progress runs. -/
def State.atSlot (s : State) (i : Nat) (rest : List (Bool × Nat × BitVec 24)) : State := { s with todo := rest, cur := { s.cur with slot := i } }

/-- The instruction of a slot that a bundle left to run. -/
def State.slotInstr (s : State) (t : Bool × Nat × BitVec 24) : Option Instr := decodeSlot t.1 (s.cmdOp t.2.1 t.2.2) t.2.2

/-- After a slot: where none is left the bundle ends. -/
def settled : Out → Out
  | .next s => .next s.settle
  | o => o

/-- The micro-operation that a core's sequencer takes next: `none` where no routine is in execution, `some none` where its word is none
(R335, R346). -/
def State.microInstr (s : State) (c : CoreId) : Option (Option Instr) := (s.core c).eng.cim.run.map fun r => r.word (s.core c).eng.cim

/-- The fetch of a word that fails. -/
def State.microStop (s : State) (c : CoreId) : State :=
  match (s.core c).eng.cim.run with
  | some r => s.microFail c r
  | none => s

/-- Whether an instruction is a turn of its own: a slot trigger or a micro-operation is not. -/
def isEvent (i : Instr) : Bool := (encode i).isNone

/-- A routine of one word, as `cim.step` starts it (R341). -/
def stepRoutine (w : W64) : Routine :=
  { call := { entry := 0, step := some w, waits := [], token := none, progress := 0, mps := [], org := {} }
    first := 0, last := 0, mpc := 0, ma := Vector.replicate 8 0, ml := Vector.replicate 4 0, beg := Vector.replicate 4 0 }

/-- Core 0 with a bundle in progress that has one slot left: the trigger of the word or, where it has none, its pop. -/
def State.withSlot (s : State) (w : BitVec 24) : State :=
  { s with todo := [((decodeSlot false 1 w).isNone, 0, w)], saved := some (s.core 0), ctx := { addr := (s.core 0).pc, whN := (s.core 0).ms.wh.length } }

/-- Core 0 with a routine of one word in execution, and its sequencer to move next. -/
def State.withMicro (s : State) (w : W64) : State :=
  { s.modCim 0 fun x => { x with run := some (stepRoutine w) } with todo := [], saved := none, agenda := .micro 0 :: s.agenda }

end Sys2Proof.Machine
end

