-- ==== Sys2Proof/Machine/Step.lean ====
section
/-! DEFINITION. Step: one step of the device: the next slot of the bundle in progress, else the turn of an agent. -/

namespace Sys2Proof.Machine

open Sys2Proof

/-- One step (R202 for bundles; notes/assumptions/1.md for the order of agents). -/
def step (s : State) : Host.Outcome State Fault Refusal :=
  match s.todo with
  | t :: rest =>
    match (s.atSlot t.2.1 rest).slotInstr t with
    | some i => settled (exec i (s.atSlot t.2.1 rest))
    | none => .next (s.atSlot t.2.1 rest).settle
  | [] =>
    match s.turn with
    | .event a i => if isEvent i then exec i (s.atTurn a) else .fault .notAnEvent
    | .micro c =>
      match s.microInstr c with
      | none => .next (s.atTurn { core := c })
      | some (some i) => exec i (s.atTurn { core := c })
      | some none => .next ((s.atTurn { core := c }).microStop c)

/-- The state with an instruction where `step` takes its next one: a slot word of 24 bits as the only slot of a bundle in progress on core
0, a micro-word as the routine of core 0 (notes/assumptions/5.md). -/
def State.withFetchWord (s : State) (nbits w : Nat) : State :=
  if nbits ≤ 24 then s.withSlot (BitVec.ofNat 24 w) else s.withMicro (BitVec.ofNat 64 w)

end Sys2Proof.Machine
end

