-- ==== Sys2Proof/Safety.lean ====
section
/-! DEFINITION. Safety: what claims speak of: what two states share (frames), the canonical form of every sparse store, and the rules
that every state of a running device keeps. -/

namespace Sys2Proof.Machine

open Sys2Proof

/-! ### Frames -/

/-- Everything outside the cores: memory, scheduler, system copy engines and their queues, and the housekeeping registers. -/
structure SameDevice (s t : State) : Prop where
  mem : t.mem = s.mem
  sched : t.sched = s.sched
  sysCopies : t.sysCopies = s.sysCopies
  queues : t.queues = s.queues
  hk : t.hk = s.hk

/-- Every core but one is unchanged. -/
def SameOthers (c : CoreId) (s t : State) : Prop := ∀ d, d ≠ c → t.core d = s.core d

/-- What a program can name of a core is unchanged: registers, program counter, control and trap registers, mode, local memory, snapshot,
buffer ownership, engines, and the task on it. Latches, result ports and what is under way to them are apart. -/
structure SameProgram (k l : Core) : Prop where
  regs : l.regs = k.regs
  pc : l.pc = k.pc
  ctrl : l.ctrl = k.ctrl
  traps : l.traps = k.traps
  mode : l.mode = k.mode
  loc : l.loc = k.loc
  snap : l.snap = k.snap
  own : l.own = k.own
  eng : l.eng = k.eng
  task : l.task = k.task
  ending : l.ending = k.ending
  reports : l.reports = k.reports

/-- Latches and result ports, with the results under way to them, are unchanged. -/
structure SamePorts (k l : Core) : Prop where
  latches : l.tr.latches = k.tr.latches
  ports : l.tr.ports = k.tr.ports
  inflight : l.tr.inflight = k.tr.inflight

/-- The frame of a trigger: it changes its own core only, and of that only what is under way: latches, result ports, the tiles of `tt`, and
the memory side (withheld effects, promised results, translations). -/
structure TriggerFrame (s t : State) : Prop where
  device : SameDevice s t
  others : SameOthers s.ctx.core s t
  program : SameProgram s.me (t.core s.ctx.core)

/-- The frame of a trigger that also leaves the memory side as it was. -/
structure ResultFrame (s t : State) : Prop where
  trigger : TriggerFrame s t
  ms : (t.core s.ctx.core).ms = s.me.ms

/-- The frame of an event of core c: the other cores, the scheduler and the housekeeping registers are unchanged. -/
structure CoreFrame (c : CoreId) (s t : State) : Prop where
  mem : t.mem = s.mem
  sched : t.sched = s.sched
  hk : t.hk = s.hk
  others : SameOthers c s t

/-- The frame of a housekeeping event: every core, memory and the scheduler are unchanged. -/
structure HskFrame (s t : State) : Prop where
  cores : t.cores = s.cores
  mem : t.mem = s.mem
  sched : t.sched = s.sched
  sysCopies : t.sysCopies = s.sysCopies
  queues : t.queues = s.queues

/-! ### One byte as a read gives it -/

/-- A byte of home 0 as the stacks hold it. -/
def State.hbmByte (s : State) (a : Nat) : Byte := mrd 0 s.mem.hbm a

/-- A byte of a core's scratch memory. -/
def Core.scratchByte (k : Core) (a : Nat) : Byte := mrd 0 k.loc.scratch a

/-- Byte o of a line of home 0 or of a Glade, as a read through Canopy, or of a class 3 page at its controller, gives it (R84). -/
def Mem.lineAt (m : Mem) (home key cls ln o : Nat) : Byte := (m.readAt home key cls (ln * 128) 128).bytes.getD o 0

/-- Byte o of the logical block of a class 4 slot (R101, R102). -/
def Mem.slotAt (m : Mem) (home key slot o : Nat) : Byte := (m.readSegs [⟨home, slot * 256, 4, key, 256⟩]).bytes.getD o 0

/-- Segments of a store that lie in one unit of memory of `size` bytes, of one class and key. -/
def oneUnit (segs : List Seg) (home key cls size unit : Nat) : Prop :=
  ∀ g ∈ segs, g.home = home ∧ g.key = key ∧ g.cls = cls ∧ g.pa / size = unit ∧ 0 < g.len ∧ g.pa % size + g.len ≤ size

/-- The byte that a store of bytes over segments of one unit leaves at its offset o: that of the last segment that covers it. -/
def storedOver (segs : List Seg) (bs : List Byte) (size : Nat) (old : Nat → Byte) (o : Nat) : Byte :=
  match (segOffsets segs 0).reverse.find? fun p => decide (p.1.pa % size ≤ o) && decide (o < p.1.pa % size + p.1.len) with
  | some p => bs.getD (p.2 + (o - p.1.pa % size)) 0
  | none => old o

/-! ### Canonical form -/

/-- The canonical form of Canopy: sets in rising order, none listed that is as R93 leaves it. -/
def canopyWf (m : SMap CSet) : Bool := rising (m.map Prod.fst) && m.all fun e => decide (e.2 ≠ setDefault e.1)

/-- Every sparse store of the device's memory is in canonical form. -/
def Mem.wf (m : Mem) : Bool := Memory.wf m.hbm && Memory.wf m.ext && mwf {} m.blocks && mwf 0 m.keys && canopyWf m.canopy

/-- Every sparse store of a core's local memory and ownership tables is in canonical form. -/
def Core.wf (k : Core) : Bool := Memory.wf k.loc.scratch && mwf RowT.zero k.loc.acc && mwf none k.loc.vw && mwf {} k.own.desc && mwf 0 k.own.gran

/-! ### Rules that every step keeps -/

/-- The device registers whose legal values the manual bounds: `PINLIM`, `AGE`, the envelopes in force and asked for, the power granted. -/
def State.modeRegs (s : State) : BitVec 4 × BitVec 16 × Nat × Nat × Nat := (s.hk.pinlim, s.hk.age, s.hk.envelope, s.hk.envTarget, s.hk.grant)

/-- `PINLIM` is never below 4 (R87), `AGE` never zero (R381), the envelopes are among the three that exist (R21, R420), and the power
granted is never below 100 W (R422). -/
structure ModesLegal (s : State) : Prop where
  pinlim : 4 ≤ s.hk.pinlim.toNat
  age : s.hk.age ≠ 0
  envelope : s.hk.envelope ≤ 2
  target : s.hk.envTarget ≤ 2
  grant : 100 ≤ s.hk.grant

/-! ### The issue of a bundle (R201, R212, R217) -/

/-- R217: a slot of a bundle whose guard is true holds it. A source may be a pop of the bundle, looked at and not taken. -/
def Core.slotHolds (k : Core) (h : Header) (live : List SlotAt) (y : SlotAt) : Prop :=
  let b := (peekVal k { core := 0, addr := k.pc, hdr := h } live y).word
  let flag : Fin 16 := ⟨(b.extractLsb' 0 4).toNat, (b.extractLsb' 0 4).isLt⟩
  (y.sl.src = .port .yqPop ∧ k.eng.yq.length < k.eng.yqSpec + popsOf live .yqPop) ∨
  (∃ u, y.sl.src = .port (.nmPop u) ∧ popsOf live (.nmPop u) ≤ k.nmOut u ∧
    (k.eng.nm.get u).results.length < (k.eng.nm.get u).spec + popsOf live (.nmPop u)) ∨
  (∃ q, y.sl.src = .port q ∧ y.sl.src.isPop = false ∧ ((∃ p ∈ k.ms.pend, p.port = q.code ∧ p.dead = false) ∨
    ∃ t, k.task = some t ∧ t.profB = false ∧ k.ctrl.latprof = true ∧ ∃ f ∈ k.tr.inflight, f.port = q.code ∧ f.dwait = 0 ∧ f.wait ≠ 0)) ∨
  (y.isTrig = true ∧
    ((y.dcode = 0x580 ∧ 16 ≤ k.aqn k.ms.wh.length) ∨
     (y.dcode = 0x510 ∧ ∃ f : Fin 16, b.toNat = f.val ∧ (k.eng.carafes.get f).act = true ∧ (k.eng.carafes.get f).nfill = 0) ∨
     (y.dcode = 0x28D ∧ b.toNat < 32 ∧ k.token b.toNat = 1) ∨
     ((y.dcode = 0x550 ∨ y.dcode = 0x551) ∧ 32 ≤ k.cimQueued) ∨
     (y.dcode = 0x4CD ∧ b.extractLsb' 36 28 = 0 ∧ k.eng.flags.get flag < b.extractLsb' 4 32)))

/-- R201, R400: a slot makes a plain move of a poisoned row to a scalar path: over `bs0` or `bs1`, or to an `x`, a `p` or a 64-bit port. -/
def SlotAt.consumes (y : SlotAt) (k : Core) (h : Header) (live : List SlotAt) : Prop :=
  y.isTrig = false ∧ (peekVal k { core := 0, addr := k.pc, hdr := h } live y).poisoned = true ∧
  (y.i < 2 ∨ match y.sl.dst with | .x _ => True | .p _ => True | .latch l => rowWide l.code = false | _ => False)

/-- R159: a slot pops a stream beyond the reduces outstanding on it. -/
def SlotAt.overpops (y : SlotAt) (k : Core) (live : List SlotAt) (u : Fin 4) : Prop :=
  y.sl.src = .port (.nmPop u) ∧ k.nmOut u < popsOf (live.filter fun t => decide (t.i ≤ y.i)) (.nmPop u)

/-- The trap that cancels a bundle before its triggers (R10), raised by slot i. -/
def Core.trapAt (k : Core) (i : Nat) (code detail : Byte) : Trap := { code := code, detail := detail, pc := k.pc, slot := BitVec.ofNat 4 i }

/-- What the start of a bundle leaves (R202, R203, R230): the slots of `made` move in slot order, pops and then triggers are left to the
steps that follow, and `fault` is the trap that ends the bundle. -/
structure Started (s v : State) (c : CoreId) (h : Header) (live made : List SlotAt) (fault : Option Trap) : Prop where
  device : SameDevice s v
  others : SameOthers c s v
  ctx : v.ctx.core = c ∧ v.ctx.addr = (s.core c).pc ∧ v.ctx.hdr = h ∧ v.ctx.whN = (s.core c).ms.wh.length ∧ v.ctx.pending = fault ∧
    v.ctx.effs = [] ∧ v.ctx.produced = [] ∧ v.ctx.next = none
  caught : v.ctx.caught = live.filterMap (statusVal (s.core c) { core := c, addr := (s.core c).pc, hdr := h, whN := (s.core c).ms.wh.length } live)
  saved : v.saved = some (s.core c)
  todo : v.todo = ((made.filter fun y => y.sl.src.isPop).map fun y => (true, y.i, y.word)) ++
    (made.filter SlotAt.isTrig).map fun y => (false, y.i, y.word)
  rest : v.core c = { s.core c with tr := { (s.core c).tr with latches := (v.core c).tr.latches, latchLog := (v.core c).tr.latchLog } }
  writes : v.ctx.writes = (made.filter fun y => !y.sl.src.isPop && match y.sl.dst with | .x _ => true | .p _ => true | .v _ => true | _ => false).map
    fun y => (y.sl.dst, readSrc (s.core c) v.ctx y.i y.sl.src)
  moved : ∀ y ∈ made, ∀ l, y.sl.dst = .latch l → y.sl.src.isPop = false → (∀ z ∈ made, z.sl.dst = .latch l → z = y) →
    (v.core c).latch l.code = if rowWide l.code then readSrc (s.core c) v.ctx y.i y.sl.src else .w (readSrc (s.core c) v.ctx y.i y.sl.src).word
  kept : ∀ n, (∀ y ∈ made, ∀ l, y.sl.dst = .latch l → l.code = n → y.sl.src.isPop = true) → (v.core c).latch n = (s.core c).latch n

/-! ### Triggers that fire (R201, R209) and what they put under way (R213) -/

/-- The guard of the move is true, and a 64-bit port takes no poisoned row. -/
def State.fires (s : State) (m : Mv) : Prop := s.live m = true ∧ (s.srcVal m).poisoned = false

/-- B of a 64-bit port and of a row-wide one. -/
def State.operand (s : State) (m : Mv) : W64 := (s.srcVal m).word
def State.operandRow (s : State) (m : Mv) : RowT := (s.srcVal m).row

/-- The bundle in progress, the turns and the free values are as they were. -/
structure SameBundle (s t : State) : Prop where
  todo : t.todo = s.todo
  ctx : t.ctx = s.ctx
  saved : t.saved = s.saved
  agenda : t.agenda = s.agenda
  cur : t.cur = s.cur
  clock : t.clock = s.clock
  freeCtr : t.freeCtr = s.freeCtr

/-- Exactly one result is put under way, to a port, with the bounds of profiles A and B; the bits of `keep` stay as the port has them. It
counts down under the core's profile, and beside it under the profile the task declares (R214, R221). -/
structure Puts (s t : State) (port boundA boundB : Nat) (v : Val) (keep : Row) : Prop where
  frame : ResultFrame s t
  bundle : SameBundle s t
  latches : (t.core s.ctx.core).tr.latches = s.me.tr.latches
  ports : (t.core s.ctx.core).tr.ports = s.me.tr.ports
  tiles : (t.core s.ctx.core).tr.tiles = s.me.tr.tiles
  inflight : (t.core s.ctx.core).tr.inflight = s.me.tr.inflight ++
    [⟨port, if s.me.ctrl.latprof then boundB else boundA,
      if (match s.me.task with | some k => k.profB | none => s.me.ctrl.latprof) then boundB else boundA, v, keep⟩]

/-- Nothing changes but the record of the bundle in progress. -/
structure CtxOnly (s t : State) : Prop where
  cores : t.cores = s.cores
  device : SameDevice s t
  todo : t.todo = s.todo
  saved : t.saved = s.saved
  agenda : t.agenda = s.agenda
  cur : t.cur = s.cur
  clock : t.clock = s.clock
  freeCtr : t.freeCtr = s.freeCtr

/-! ### The scalar operations as the tables of R247 to R251 give them -/

/-- Zeros or copies of the sign above bit n - 1, n from 1 to 64. -/
def zextTo (n : Nat) (a : W64) : W64 := (a <<< (64 - n)) >>> (64 - n)
def sextTo (n : Nat) (a : W64) : W64 := (a <<< (64 - n)).sshiftRight (64 - n)

/-- n of `sext` and `zext` (R247): B[5:0], and 64 where that is zero. -/
def extCount (b : W64) : Nat := if b.extractLsb' 0 6 = 0 then 64 else (b.extractLsb' 0 6).toNat

/-- The truth table of R249 by its eight rows. -/
def lut3Rows (a b c m : W64) : W64 :=
  (List.range 8).foldl (fun acc i =>
    if m.getLsbD i then
      acc ||| ((if i / 4 = 1 then a else ~~~a) &&& (if i / 2 % 2 = 1 then b else ~~~b) &&& (if i % 2 = 1 then c else ~~~c))
    else acc) 0

/-- A byte of a word, 0 the lowest. -/
def byteAt (b : W64) (i : Nat) : BitVec 8 := b.extractLsb' (8 * i) 8

/-- `bfx` and `bfi` of R250. -/
def bfxField (a b : W64) : W64 :=
  let w := (b.extractLsb' 8 6).toNat + 1
  let f := a >>> (b.extractLsb' 0 6).toNat
  if b.getLsbD 16 then sextTo w f else zextTo w f

def bfiField (a b c : W64) : W64 :=
  let mask := zextTo ((b.extractLsb' 8 6).toNat + 1) (BitVec.allOnes 64) <<< (b.extractLsb' 0 6).toNat
  (a &&& ~~~mask) ||| ((c <<< (b.extractLsb' 0 6).toNat) &&& mask)

/-- A signed 16-bit part of a word. -/
def part16 (a : W64) (i : Nat) : Int := (a.extractLsb' (16 * i) 16).toInt

/-- A part of R251 from its exact value: divided by 2^15, rounded to nearest even, saturated. -/
def q15Part (v : Int) : BitVec 16 := BitVec.ofInt 16 (satS 16 (roundNEshift v 15))

/-- `cmul16` of R251. -/
def cmulParts (a b c : W64) : W64 :=
  let sg : Int := if c.getLsbD 0 then -1 else 1
  let re := fun e => q15Part (part16 a (2 * e) * part16 b (2 * e) - part16 a (2 * e + 1) * (sg * part16 b (2 * e + 1)))
  let im := fun e => q15Part (part16 a (2 * e) * (sg * part16 b (2 * e + 1)) + part16 a (2 * e + 1) * part16 b (2 * e))
  im 1 ++ re 1 ++ im 0 ++ re 0

/-- An operation of `sa0` and `sa1`: the instruction, its bound in cycles (R214), and R from A, B, C and M. -/
structure ScalarOp where
  instr : Fin 2 → Mv → Instr
  bound : Nat
  r : W64 → W64 → W64 → W64 → W64

/-- The arithmetic of `sa0` and `sa1` (R247 to R251). -/
def scalarArith : List ScalarOp :=
  [⟨Instr.add, 1, fun a b _ _ => a + b⟩,
   ⟨Instr.sub, 1, fun a b _ _ => a - b⟩,
   ⟨Instr.addw, 1, fun a b _ _ => sextTo 32 (a + b)⟩,
   ⟨Instr.subw, 1, fun a b _ _ => sextTo 32 (a - b)⟩,
   ⟨Instr.mul, 3, fun a b _ _ => a * b⟩,
   ⟨Instr.mulh, 3, fun a b _ _ => (a.signExtend 128 * b.signExtend 128).extractLsb' 64 64⟩,
   ⟨Instr.mulhz, 3, fun a b _ _ => (a.setWidth 128 * b.setWidth 128).extractLsb' 64 64⟩,
   ⟨Instr.div, 18, fun a b _ _ => if b = 0 then BitVec.allOnes 64 else a.sdiv b⟩,
   ⟨Instr.divz, 18, fun a b _ _ => if b = 0 then BitVec.allOnes 64 else a / b⟩,
   ⟨Instr.rem, 18, fun a b _ _ => if b = 0 then a else a.srem b⟩,
   ⟨Instr.remz, 18, fun a b _ _ => if b = 0 then a else a % b⟩]

/-- The bit operations (R247 to R251). -/
def scalarLogic : List ScalarOp :=
  [⟨Instr.and, 1, fun a b _ _ => a &&& b⟩,
   ⟨Instr.or, 1, fun a b _ _ => a ||| b⟩,
   ⟨Instr.xor, 1, fun a b _ _ => a ^^^ b⟩,
   ⟨Instr.andn, 1, fun a b _ _ => a &&& ~~~b⟩,
   ⟨Instr.orn, 1, fun a b _ _ => a ||| ~~~b⟩,
   ⟨Instr.lut3, 1, lut3Rows⟩,
   ⟨Instr.shl, 1, fun a b _ _ => a <<< b.extractLsb' 0 6⟩,
   ⟨Instr.shr, 1, fun a b _ _ => a >>> b.extractLsb' 0 6⟩,
   ⟨Instr.sra, 1, fun a b _ _ => a.sshiftRight' (b.extractLsb' 0 6)⟩,
   ⟨Instr.rotl, 1, fun a b _ _ => (a <<< b.extractLsb' 0 6) ||| (a >>> (64 - (b.extractLsb' 0 6).toNat))⟩,
   ⟨Instr.clz, 1, fun _ b _ _ => b.clz⟩,
   ⟨Instr.ctz, 1, fun _ b _ _ => b.reverse.clz⟩,
   ⟨Instr.popc, 1, fun _ b _ _ => BitVec.ofNat 64 ((List.range 64).filter fun i => b.getLsbD i).length⟩,
   ⟨Instr.brev, 1, fun _ b _ _ => b.reverse⟩,
   ⟨Instr.bswap, 1, fun _ b _ _ => byteAt b 0 ++ byteAt b 1 ++ byteAt b 2 ++ byteAt b 3 ++ byteAt b 4 ++ byteAt b 5 ++ byteAt b 6 ++ byteAt b 7⟩]

/-- The comparisons, extractions and `cmul16` (R247 to R251). -/
def scalarCompare : List ScalarOp :=
  [⟨Instr.min, 1, fun a b _ _ => if a.slt b then a else b⟩,
   ⟨Instr.max, 1, fun a b _ _ => if a.slt b then b else a⟩,
   ⟨Instr.minz, 1, fun a b _ _ => if a < b then a else b⟩,
   ⟨Instr.maxz, 1, fun a b _ _ => if a < b then b else a⟩,
   ⟨Instr.eq, 1, fun a b _ _ => if a = b then 1 else 0⟩,
   ⟨Instr.ne, 1, fun a b _ _ => if a = b then 0 else 1⟩,
   ⟨Instr.lt, 1, fun a b _ _ => if a.slt b then 1 else 0⟩,
   ⟨Instr.le, 1, fun a b _ _ => if b.slt a then 0 else 1⟩,
   ⟨Instr.ltz, 1, fun a b _ _ => if a < b then 1 else 0⟩,
   ⟨Instr.lez, 1, fun a b _ _ => if b < a then 0 else 1⟩,
   ⟨Instr.bfx, 1, fun a b _ _ => bfxField a b⟩,
   ⟨Instr.bfi, 1, fun a b c _ => bfiField a b c⟩,
   ⟨Instr.sext, 1, fun a b _ _ => sextTo (extCount b) a⟩,
   ⟨Instr.zext, 1, fun a b _ _ => zextTo (extCount b) a⟩,
   ⟨Instr.cmul16, 3, fun a b c _ => cmulParts a b c⟩]

/-- The operations of `sa0` and `sa1`. -/
def scalarOps : List ScalarOp := scalarArith ++ scalarLogic ++ scalarCompare

/-! ### What a trigger leaves for the end of its bundle or for its release (R14, R113, R215, R219) -/

/-- Results under way to a port after one more is promised: earlier ones of that port no longer reach it (R215). -/
def promised (l : List Pend) (p : Pend) : List Pend :=
  (l.map fun q => if q.port = p.port then { q with dead := true } else q) ++ [p]

/-- A trigger leaves one effect for the release of its bundle, with the tokens it produces, and promises at most one result. -/
structure Leaves (s t : State) (place : Place) (ea : W64) (what : CEffKind) (toks : List Nat) (pend : Option Pend) : Prop where
  frame : TriggerFrame s t
  tr : (t.core s.ctx.core).tr = s.me.tr
  ms : (t.core s.ctx.core).ms = { s.me.ms with
    ids := s.me.ms.ids + 1, pend := match pend with | some p => promised s.me.ms.pend p | none => s.me.ms.pend }
  ctx : t.ctx = { s.ctx with
    effs := s.ctx.effs ++ [⟨s.me.ms.ids, s.origin, place, ea, what⟩], produced := s.ctx.produced ++ toks }
  todo : t.todo = s.todo
  saved : t.saved = s.saved
  cur : t.cur = s.cur
  freeCtr : t.freeCtr = s.freeCtr

/-- A trigger withholds effects, in order, until the next release. -/
structure Withholds (s t : State) (l : List (Place × W64 × WhKind)) : Prop where
  frame : TriggerFrame s t
  bundle : SameBundle s t
  tr : (t.core s.ctx.core).tr = s.me.tr
  ms : (t.core s.ctx.core).ms = { s.me.ms with
    ids := s.me.ms.ids + l.length, wh := s.me.ms.wh ++ l.mapIdx fun i w => ⟨s.me.ms.ids + i, s.origin, w.1, w.2.1, w.2.2⟩ }

/-- A trigger promises one result to a variable-latency port. -/
structure Promises (s t : State) (p : Pend) : Prop where
  frame : TriggerFrame s t
  bundle : SameBundle s t
  tr : (t.core s.ctx.core).tr = s.me.tr
  ms : (t.core s.ctx.core).ms = { s.me.ms with ids := s.me.ms.ids + 1, pend := promised s.me.ms.pend p }

/-! ### The tokens of wait and produce latches (R232, R402) -/

/-- The reserved bits of a wait latch are zero. -/
def WaitLegal (w : W64) : Prop :=
  w.extractLsb' 24 40 = 0 ∧ w.extractLsb' 5 2 = 0 ∧ w.extractLsb' 13 2 = 0 ∧ w.extractLsb' 21 2 = 0

/-- A wait latch has a valid entry that names a token. -/
def WaitsOn (w : W64) (t : Nat) : Prop := ∃ o ∈ [0, 8, 16], w.getLsbD (o + 7) = true ∧ (w.extractLsb' o 5).toNat = t

/-- An engine trigger may start: its latches hold no reserved bit, it does not wait on the token it produces, and that token is neither
pending nor produced by a lower slot of the bundle. -/
structure LatchesLegal (s : State) (w k : W64) : Prop where
  wait : WaitLegal w
  produce : k.toNat < 32
  own : ¬ WaitsOn w k.toNat
  idle : s.me.token k.toNat ≠ 1
  fresh : k.toNat ∉ s.ctx.produced

/-! ### Vector operations (R233 to R235, R270 to R289) -/

/-- What R273 looks at: TA, TD, RM, and bits [63:0] of A and of C. -/
structure VecArgs where
  ta : Ty
  td : Option Ty
  rm : Nat
  pa : W64
  pc : W64

/-- The latches of a vector unit. -/
def State.vA (s : State) (u : Fin 3) : RowT := s.me.latchR (0x300 + 64 * u.val)
def State.vC (s : State) (u : Fin 3) : RowT := s.me.latchR (0x301 + 64 * u.val)
def State.vM (s : State) (u : Fin 3) : RowT := s.me.latchR (0x302 + 64 * u.val)
def State.vTy (s : State) (u : Fin 3) : W64 := s.me.latchW (0x303 + 64 * u.val)

/-- The reserved bits of `.ty` are zero (R233). -/
def tyLegal (v : W64) : Bool := v.extractLsb' 5 3 = 0 && v.extractLsb' 24 40 = 0

/-- The arguments of a unit, where `.ty` names a type (R233). -/
def State.vecArgs (s : State) (u : Fin 3) : Option VecArgs :=
  if tyLegal (s.vTy u) then
    (Ty.ofCode ((s.vTy u).extractLsb' 0 5).toNat).map fun ta =>
      ⟨ta, Ty.ofCode ((s.vTy u).extractLsb' 8 5).toNat, ((s.vTy u).extractLsb' 13 3).toNat, (s.vA u).data.extractLsb' 0 64, (s.vC u).data.extractLsb' 0 64⟩
  else none

/-- Types of classes I, F and N, and those that a conversion gives (R276). -/
def Ty.isValue (t : Ty) : Bool := t.isI || t.isF || t.isN
def Ty.isTarget (t : Ty) : Bool := t.isValue && t ≠ .e8m0

/-- PART of R275 lies below the quotient of the lane counts. -/
def partOk (x : VecArgs) (td : Ty) : Bool :=
  (x.pc.extractLsb' 8 3).toNat < max x.ta.lanes td.lanes / min x.ta.lanes td.lanes

/-- LG of R280. -/
def groupOk (x : VecArgs) (least : Nat) : Bool :=
  2 ^ (x.pa.extractLsb' 0 4).toNat ≤ x.ta.lanes && least ≤ (x.pa.extractLsb' 0 4).toNat

/-- Whether TD names a type of the float class of R234, and TA likewise. -/
def isFloatTy (t : Ty) : Bool := t.isF || t.isN || t = .cbf16

/-- The latency bounds of R214 and R234: vector integer, `vdot`, and by type. -/
def boundInt (_ : VecArgs) : Nat := 2
def boundDot (_ : VecArgs) : Nat := 5
def boundTa (x : VecArgs) : Nat := if isFloatTy x.ta then 4 else 2
def boundTd (x : VecArgs) : Nat := if isFloatTy x.ta || x.td.any isFloatTy then 4 else 2

/-- A vector operation: its bound, what R273 accepts, whether it reads A and C, whether `.m` governs it, whether it can set an event, and the
width of its result lanes. -/
structure VecOp where
  instr : Fin 3 → Mv → Instr
  bound : VecArgs → Nat
  accepts : VecArgs → Bool
  readsA : VecArgs → Bool
  readsC : VecArgs → Bool
  masked : Bool
  events : Bool
  width : VecArgs → Nat

def yes (_ : VecArgs) : Bool := true
def no (_ : VecArgs) : Bool := false
def intTa (x : VecArgs) : Bool := x.ta.isI
def intOrFloat (x : VecArgs) : Bool := x.ta.isI || x.ta.isF
/-- I, and F where RM is one of 0 to 3. -/
def intOrRounds (x : VecArgs) : Bool := x.ta.isI || (x.ta.isF && x.rm ≤ 3)

/-- The lanes of TA. -/
def taWidth (x : VecArgs) : Nat := x.ta.width

/-- The lanes of a conversion's result. -/
def tdWidth (x : VecArgs) : Nat := (x.td.map Ty.width).getD 0

/-- R274. -/
def vecElementwise : List VecOp :=
  [⟨Instr.vadd, boundTa, fun x => intOrRounds x || x.ta = .c16 || (x.ta = .cbf16 && x.rm ≤ 3), yes, no, true, false, taWidth⟩,
   ⟨Instr.vsub, boundTa, fun x => intOrRounds x || x.ta = .c16 || (x.ta = .cbf16 && x.rm ≤ 3), yes, no, true, false, taWidth⟩,
   ⟨Instr.vmul, boundTa, intOrRounds, yes, no, true, false, taWidth⟩,
   ⟨Instr.vmulh, boundTa, intTa, yes, no, true, false, taWidth⟩,
   ⟨Instr.vfma, boundTa, intOrRounds, yes, yes, true, false, taWidth⟩,
   ⟨Instr.vabs, boundTa, intOrRounds, no, no, true, false, taWidth⟩,
   ⟨Instr.vneg, boundTa, fun x => intOrRounds x || x.ta = .c16 || (x.ta = .cbf16 && x.rm ≤ 3), no, no, true, false, taWidth⟩,
   ⟨Instr.vmin, boundTa, intOrRounds, yes, no, true, false, taWidth⟩,
   ⟨Instr.vmax, boundTa, intOrRounds, yes, no, true, false, taWidth⟩,
   ⟨Instr.vclamp, boundTa, intOrRounds, yes, yes, true, false, taWidth⟩,
   ⟨Instr.vcmpeq, boundTa, intOrRounds, yes, no, true, false, taWidth⟩,
   ⟨Instr.vcmpne, boundTa, intOrRounds, yes, no, true, false, taWidth⟩,
   ⟨Instr.vcmplt, boundTa, intOrRounds, yes, no, true, false, taWidth⟩,
   ⟨Instr.vcmple, boundTa, intOrRounds, yes, no, true, false, taWidth⟩,
   ⟨Instr.vsel, boundTa, yes, yes, yes, true, false, taWidth⟩]

/-- R274, R234: the operations of the integer class. -/
def vecBits : List VecOp :=
  [⟨Instr.vand, boundInt, yes, yes, no, true, false, taWidth⟩,
   ⟨Instr.vor, boundInt, yes, yes, no, true, false, taWidth⟩,
   ⟨Instr.vxor, boundInt, yes, yes, no, true, false, taWidth⟩,
   ⟨Instr.vlut3, boundInt, yes, yes, yes, true, false, taWidth⟩,
   ⟨Instr.vshl, boundInt, intTa, yes, no, true, false, taWidth⟩,
   ⟨Instr.vshr, boundInt, intTa, yes, no, true, false, taWidth⟩,
   ⟨Instr.vsra, boundInt, intTa, yes, no, true, false, taWidth⟩,
   ⟨Instr.vclz, boundInt, intTa, no, no, true, false, taWidth⟩,
   ⟨Instr.vpopc, boundInt, intTa, no, no, true, false, taWidth⟩,
   ⟨Instr.vperm, boundInt, yes, yes, fun x => 16 ≤ x.ta.width, true, false, taWidth⟩,
   ⟨Instr.vshuf, boundInt, yes, yes, yes, true, false, taWidth⟩,
   ⟨Instr.vrot, boundInt, yes, yes, no, true, false, taWidth⟩,
   ⟨Instr.vbcast, boundInt, yes, yes, no, true, false, taWidth⟩,
   ⟨Instr.vext, boundInt, yes, yes, no, false, false, taWidth⟩,
   ⟨Instr.vins, boundInt, yes, yes, yes, false, false, taWidth⟩]

/-- R275 to R282, R287. -/
def vecOthers : List VecOp :=
  [⟨Instr.vcvt, boundTd, fun x => x.ta.isValue && x.rm ≤ 4 && x.td.any fun d => d.isTarget && partOk x d, fun x => x.rm = 4, yes, true, true, tdWidth⟩,
   ⟨Instr.vsatq, boundTd, fun x => x.ta.isI && x.rm ≤ 4 && x.td.any fun d => d.isI && partOk x d, fun x => x.rm = 4, yes, true, false, tdWidth⟩,
   ⟨Instr.vscale, boundTd, fun x => x.ta.isTarget && x.rm ≤ 3 && x.td.any fun d => d.isTarget && partOk x d, yes, yes, true, true, tdWidth⟩,
   ⟨Instr.vdot2, boundDot, fun x => ((x.ta = .f16 || x.ta = .bf16) && x.td = some .f32) || (x.ta = .s16 && x.td = some .s32), yes, yes, true, false, fun _ => 32⟩,
   ⟨Instr.vdot4, boundDot, fun x => ((x.ta = .e4m3 || x.ta = .e5m2 || x.ta = .e3m2 || x.ta = .e2m3) && x.td = some .f32) ||
      ((x.ta = .s8 || x.ta = .z8) && x.td = some .s32), yes, yes, true, false, fun _ => 32⟩,
   ⟨Instr.vsum, boundTa, fun x => intOrFloat x && groupOk x 0, yes, no, true, false, taWidth⟩,
   ⟨Instr.vrmax, boundTa, fun x => intOrFloat x && groupOk x 0, yes, no, true, false, taWidth⟩,
   ⟨Instr.vrmin, boundTa, fun x => intOrFloat x && groupOk x 0, yes, no, true, false, taWidth⟩,
   ⟨Instr.vscan, boundTa, fun x => intOrFloat x && groupOk x 0, yes, no, true, false, taWidth⟩,
   ⟨Instr.vmin2, boundTa, fun x => [Ty.s8, .s16, .s32, .f16, .bf16, .f32].contains x.ta && groupOk x 2, yes, no, true, false, taWidth⟩,
   ⟨Instr.vcmul, boundTa, fun x => x.ta.isX, yes, no, true, false, taWidth⟩,
   ⟨Instr.vcmac, boundTa, fun x => x.ta.isX, yes, yes, true, false, taWidth⟩,
   ⟨Instr.vconj, boundTa, fun x => x.ta.isX, no, no, true, false, taWidth⟩,
   ⟨Instr.vcabs2, boundTa, fun x => x.ta.isX, no, no, true, false, taWidth⟩,
   ⟨Instr.vsort2, boundTa, fun x => intOrFloat x && 2 ^ (x.pa.extractLsb' 0 4).toNat < x.ta.lanes, yes, no, true, false, taWidth⟩]

/-- The operations whose types and parameters R273 checks. -/
def vecOps : List VecOp := vecElementwise ++ vecBits ++ vecOthers

/-- Lane j of width w. -/
def laneBv (w : Nat) (r : Row) (j : Nat) : BitVec w := r.extractLsb' (w * j) w

/-- The bits that a masked result leaves to the port: the lanes that M disables (R235, R272). -/
def KeepsDisabled (w : Nat) (mask keep : Row) : Prop :=
  ∀ j, j < 4096 / w → laneBv w keep j = if mask.getLsbD j then BitVec.allOnes w else 0

/-- An operation on the lanes of class I (R274); `any` where it takes every type. `f` gives the lane from the width, whether the type is
signed, A, B, C and TT. -/
structure LaneOp where
  instr : Fin 3 → Mv → Instr
  any : Bool
  f : (w : Nat) → Bool → BitVec w → BitVec w → BitVec w → BitVec 8 → BitVec w

/-- The lesser of two lanes, and the greater. -/
def laneLt {w : Nat} (sg : Bool) (a b : BitVec w) : Bool := if sg then a.slt b else a.ult b
def laneMin {w : Nat} (sg : Bool) (a b : BitVec w) : BitVec w := if laneLt sg a b then a else b
def laneMax {w : Nat} (sg : Bool) (a b : BitVec w) : BitVec w := if laneLt sg a b then b else a
def laneIf {w : Nat} (b : Bool) : BitVec w := if b then BitVec.allOnes w else 0

/-- Bits [2w-1:w] of the exact product. -/
def laneMulh {w : Nat} (sg : Bool) (a b : BitVec w) : BitVec w :=
  if sg then (a.signExtend (2 * w) * b.signExtend (2 * w)).extractLsb' w w else (a.setWidth (2 * w) * b.setWidth (2 * w)).extractLsb' w w

/-- The truth table TT by its eight rows. -/
def laneLut {w : Nat} (a b c : BitVec w) (tt : BitVec 8) : BitVec w :=
  (List.range 8).foldl (fun acc i =>
    if tt.getLsbD i then
      acc ||| ((if i / 4 = 1 then a else ~~~a) &&& (if i / 2 % 2 = 1 then b else ~~~b) &&& (if i % 2 = 1 then c else ~~~c))
    else acc) 0

def laneArith : List LaneOp :=
  [⟨Instr.vadd, false, fun _ _ a b _ _ => a + b⟩,
   ⟨Instr.vsub, false, fun _ _ a b _ _ => a - b⟩,
   ⟨Instr.vmul, false, fun _ _ a b _ _ => a * b⟩,
   ⟨Instr.vmulh, false, fun _ sg a b _ _ => laneMulh sg a b⟩,
   ⟨Instr.vfma, false, fun _ _ a b c _ => a * b + c⟩,
   ⟨Instr.vabs, false, fun _ sg _ b _ _ => if sg && b.msb then -b else b⟩,
   ⟨Instr.vneg, false, fun _ _ _ b _ _ => -b⟩,
   ⟨Instr.vmin, false, fun _ sg a b _ _ => laneMin sg a b⟩,
   ⟨Instr.vmax, false, fun _ sg a b _ _ => laneMax sg a b⟩,
   ⟨Instr.vclamp, false, fun _ sg a b c _ => laneMin sg (laneMax sg b a) c⟩,
   ⟨Instr.vcmpeq, false, fun _ _ a b _ _ => laneIf (a = b)⟩,
   ⟨Instr.vcmpne, false, fun _ _ a b _ _ => laneIf (a ≠ b)⟩,
   ⟨Instr.vcmplt, false, fun _ sg a b _ _ => laneIf (laneLt sg a b)⟩,
   ⟨Instr.vcmple, false, fun _ sg a b _ _ => laneIf (!laneLt sg b a)⟩]

def laneBits : List LaneOp :=
  [⟨Instr.vand, true, fun _ _ a b _ _ => a &&& b⟩,
   ⟨Instr.vor, true, fun _ _ a b _ _ => a ||| b⟩,
   ⟨Instr.vxor, true, fun _ _ a b _ _ => a ^^^ b⟩,
   ⟨Instr.vlut3, true, fun _ _ a b c tt => laneLut a b c tt⟩,
   ⟨Instr.vsel, true, fun _ _ a b c _ => if c = 0 then b else a⟩,
   ⟨Instr.vshl, false, fun w _ a b _ _ => a <<< (b.toNat % w)⟩,
   ⟨Instr.vshr, false, fun w _ a b _ _ => a >>> (b.toNat % w)⟩,
   ⟨Instr.vsra, false, fun w _ a b _ _ => a.sshiftRight (b.toNat % w)⟩,
   ⟨Instr.vclz, false, fun _ _ _ b _ _ => b.clz⟩,
   ⟨Instr.vpopc, false, fun w _ _ b _ _ => BitVec.ofNat w ((List.range w).filter fun i => b.getLsbD i).length⟩]

/-- The operations of R274 as lanes of class I, or of any type. -/
def laneOps : List LaneOp := laneArith ++ laneBits

/-- `totalOrder` of IEEE 754-2019 on codes, and the order of integer lanes (R287). -/
def sortsBefore {w : Nat} (ta : Ty) (a b : BitVec w) : Bool :=
  if ta.isF then (if a.msb then (if b.msb then b.ult a else true) else if b.msb then false else a.ult b) else laneLt ta.signed a b

/-- Lane j of `vperm` (R283), `vshuf`, `vrot` and `vbcast` (R284), from the lanes of A, B and C. -/
def permLane (x : VecArgs) (a b c : Nat → BitVec x.ta.width) (j : Nat) : BitVec x.ta.width :=
  let n := x.ta.lanes
  if 16 ≤ x.ta.width then (if (b j).toNat % (2 * n) < n then a ((b j).toNat % (2 * n)) else c ((b j).toNat % (2 * n) - n))
  else a (j / 256 * 256 + (b j).toNat)

def shufLane (x : VecArgs) (a b : Nat → BitVec x.ta.width) (j : Nat) : BitVec x.ta.width :=
  let h := x.ta.lanes / 2
  match (x.pc.extractLsb' 0 2).toNat with
  | 0 => if j % 2 = 0 then a (j / 2) else b (j / 2)
  | 1 => if j % 2 = 0 then a (h + j / 2) else b (h + j / 2)
  | 2 => if j < h then a (2 * j) else b (2 * (j - h))
  | _ => if j < h then a (2 * j + 1) else b (2 * (j - h) + 1)

/-- The lane that a parameter names (R284, R288). -/
def namedLane (x : VecArgs) (v : W64) : Nat := (v.extractLsb' 0 16).toNat % x.ta.lanes

/-- A vector trigger puts a row under way whose enabled lanes of width `wr` are as `f` says, with the bound of its class. -/
def State.VecGives (s : State) (u : Fin 3) (i : Instr) (wr bound : Nat) (f : Nat → BitVec wr → Prop) : Prop :=
  ∃ t v keep, exec i s = .next t ∧ Puts s t (0x110 + u.val) bound bound (.r v) keep ∧ KeepsDisabled wr (s.vM u).data keep ∧
    ∀ j, j < 4096 / wr → (s.vM u).data.getLsbD j = false → f j (laneBv wr v.data j)

/-! ### Float lanes (R176, R274, R280) -/

/-- A lane of a float type is a NaN; the canonical quiet NaN; a zero of either sign. -/
def laneNan {w : Nat} (ta : Ty) (v : BitVec w) : Bool := match ta.fmt with | some fm => (fm.decode v.toNat).isNan | none => false
def laneQuiet (ta : Ty) (w : Nat) : BitVec w := BitVec.ofNat w ((ta.fmt.bind Fmt.nanCode).getD 0)
def laneZero {w : Nat} (v : BitVec w) : Bool := v <<< 1 = 0

/-- `minimum` and `maximum` of IEEE 754-2019: a NaN gives the canonical one, and -0 is below +0. -/
def floatMin {w : Nat} (ta : Ty) (a b : BitVec w) : BitVec w :=
  if laneNan ta a || laneNan ta b then laneQuiet ta w else if sortsBefore ta a b then a else b
def floatMax {w : Nat} (ta : Ty) (a b : BitVec w) : BitVec w :=
  if laneNan ta a || laneNan ta b then laneQuiet ta w else if sortsBefore ta a b then b else a

/-- A float is less than another, -0 and +0 being equal. -/
def floatLt {w : Nat} (ta : Ty) (a b : BitVec w) : Bool := sortsBefore ta a b && !(laneZero a && laneZero b)
def floatEq {w : Nat} (a b : BitVec w) : Bool := a = b || (laneZero a && laneZero b)
/-- A comparison, with its answer for a NaN operand. -/
def floatCmp {w : Nat} (ta : Ty) (un : Bool) (f : Bool) (a b : BitVec w) : BitVec w :=
  laneIf (if laneNan ta a || laneNan ta b then un else f)

/-- An operation on float lanes that rounds nothing: the lane from TA, A, B and C. -/
structure FloatOp where
  instr : Fin 3 → Mv → Instr
  f : (w : Nat) → Ty → BitVec w → BitVec w → BitVec w → BitVec w

def floatOps : List FloatOp :=
  [⟨Instr.vmin, fun _ ta a b _ => floatMin ta a b⟩,
   ⟨Instr.vmax, fun _ ta a b _ => floatMax ta a b⟩,
   ⟨Instr.vclamp, fun _ ta a b c => floatMin ta (floatMax ta b a) c⟩,
   ⟨Instr.vabs, fun w ta _ b _ => if laneNan ta b then laneQuiet ta w else b &&& ~~~BitVec.intMin w⟩,
   ⟨Instr.vneg, fun w ta _ b _ => if laneNan ta b then laneQuiet ta w else b ^^^ BitVec.intMin w⟩,
   ⟨Instr.vcmpeq, fun _ ta a b _ => floatCmp ta false (floatEq a b) a b⟩,
   ⟨Instr.vcmpne, fun _ ta a b _ => floatCmp ta true (!floatEq a b) a b⟩,
   ⟨Instr.vcmplt, fun _ ta a b _ => floatCmp ta false (floatLt ta a b) a b⟩,
   ⟨Instr.vcmple, fun _ ta a b _ => floatCmp ta false (floatLt ta a b || floatEq a b) a b⟩]

/-- The exact sum of terms, rounded once by RNE to a format (R197, R280). -/
def sumRne (fm : Fmt) (w : Nat) (l : List Fv) : BitVec w := BitVec.ofNat w (fm.encode .rne (Fv.sum false l)).1

/-! ### Complex lanes (R174, R251, R274, R282) -/

/-- The real and the imaginary part of a lane of class X, and the lane of two parts. -/
def rePart (v : BitVec 32) : BitVec 16 := v.extractLsb' 0 16
def imPart (v : BitVec 32) : BitVec 16 := v.extractLsb' 16 16

/-- The value of a `bf16` part, and a part that is a NaN made canonical. -/
def bfVal (v : BitVec 16) : Fv := fmtBf16.decode v.toNat
def bfCanon (v r : BitVec 16) : BitVec 16 := if laneNan .bf16 v then 0x7FC0 else r

/-- The exact parts of a product of two `c16` lanes. -/
def c16Re (a b : BitVec 32) : Int := (rePart a).toInt * (rePart b).toInt - (imPart a).toInt * (imPart b).toInt
def c16Im (a b : BitVec 32) : Int := (rePart a).toInt * (imPart b).toInt + (imPart a).toInt * (rePart b).toInt

/-- The terms of the parts of a product of two `cbf16` lanes. -/
def cbfRe (a b : BitVec 32) : List Fv := [(bfVal (rePart a)).mul (bfVal (rePart b)), ((bfVal (imPart a)).mul (bfVal (imPart b))).neg]
def cbfIm (a b : BitVec 32) : List Fv := [(bfVal (rePart a)).mul (bfVal (imPart b)), (bfVal (imPart a)).mul (bfVal (rePart b))]

/-- An operation on complex lanes: the bounds for `c16` and `cbf16` are those of R234; the lane from the rounding, A, B and C. -/
structure ComplexOp where
  instr : Fin 3 → Mv → Instr
  /-- whether RM must be 0 to 3 on `cbf16` -/
  rounds : Bool
  fc : BitVec 32 → BitVec 32 → BitVec 32 → BitVec 32
  fb : Rm → BitVec 32 → BitVec 32 → BitVec 32 → BitVec 32

/-- A sum or difference of `bf16` parts, rounded once. -/
def bfAdd (rm : Rm) (x y : Fv) : BitVec 16 := BitVec.ofNat 16 (fmtBf16.encode rm (Fv.sum rm.zneg [x, y])).1

def complexOps : List ComplexOp :=
  [⟨Instr.vadd, true, fun a b _ => (imPart a + imPart b) ++ (rePart a + rePart b),
     fun rm a b _ => bfAdd rm (bfVal (imPart a)) (bfVal (imPart b)) ++ bfAdd rm (bfVal (rePart a)) (bfVal (rePart b))⟩,
   ⟨Instr.vsub, true, fun a b _ => (imPart a - imPart b) ++ (rePart a - rePart b),
     fun rm a b _ => bfAdd rm (bfVal (imPart a)) (bfVal (imPart b)).neg ++ bfAdd rm (bfVal (rePart a)) (bfVal (rePart b)).neg⟩,
   ⟨Instr.vneg, true, fun _ b _ => (-imPart b) ++ (-rePart b),
     fun _ _ b _ => bfCanon (imPart b) (imPart b ^^^ 0x8000) ++ bfCanon (rePart b) (rePart b ^^^ 0x8000)⟩,
   ⟨Instr.vcmul, false, fun a b _ => q15Part (c16Im a b) ++ q15Part (c16Re a b),
     fun _ a b _ => sumRne fmtBf16 16 (cbfIm a b) ++ sumRne fmtBf16 16 (cbfRe a b)⟩,
   ⟨Instr.vcmac, false, fun a b c => q15Part ((imPart c).toInt * 2 ^ 15 + c16Im a b) ++ q15Part ((rePart c).toInt * 2 ^ 15 + c16Re a b),
     fun _ a b c => sumRne fmtBf16 16 (bfVal (imPart c) :: cbfIm a b) ++ sumRne fmtBf16 16 (bfVal (rePart c) :: cbfRe a b)⟩,
   ⟨Instr.vconj, false, fun _ b _ => BitVec.ofInt 16 (satS 16 (-(imPart b).toInt)) ++ rePart b,
     fun _ _ b _ => bfCanon (imPart b) (imPart b ^^^ 0x8000) ++ bfCanon (rePart b) (rePart b)⟩,
   ⟨Instr.vcabs2, false, fun _ b _ => BitVec.ofInt 32 ((rePart b).toInt * (rePart b).toInt + (imPart b).toInt * (imPart b).toInt),
     fun _ _ b _ => sumRne fmtF32 32 [(bfVal (rePart b)).mul (bfVal (rePart b)), (bfVal (imPart b)).mul (bfVal (imPart b))]⟩]

/-! ### Min-sum (R281) -/

/-- The magnitude of a lane: the most negative integer gives the largest one, and -0 gives +0. -/
def laneMag {w : Nat} (ta : Ty) (v : BitVec w) : BitVec w :=
  if ta.isF then v &&& ~~~BitVec.intMin w else if v = BitVec.intMin w then BitVec.intMax w else if v.msb then -v else v

/-- The largest positive value of a type, or its infinity. -/
def laneTop (ta : Ty) (w : Nat) : BitVec w := if ta.isF then BitVec.ofNat w ((ta.fmt.bind Fmt.infCode).getD 0) else BitVec.intMax w

/-- What result lane i of a group of n lanes holds, from the enabled lanes `on` of the group and their values. -/
def Min2Lane {w : Nat} (ta : Ty) (n : Nat) (on : Nat → Bool) (b : Nat → BitVec w) (i : Nat) (r : BitVec w) : Prop :=
  let sgn := BitVec.ofNat w (((List.range n).filter fun k => on k && (b k).msb).length % 2)
  let bad := fun k => on k && laneNan ta (b k)
  (4 ≤ i → r = 0) ∧ (i = 3 → r = sgn) ∧
  (i < 3 → (∃ k, k < n ∧ bad k = true) → ∃ k, k < n ∧ bad k = true ∧ (∀ q, q < k → bad q = false) ∧
    r = if i = 2 then BitVec.ofNat w k else laneQuiet ta w) ∧
  (i < 3 → (∀ k, k < n → bad k = false) → ∃ k, k < n ∧ on k = true ∧
    (∀ q, q < n → on q = true → (laneMag ta (b k)).toNat ≤ (laneMag ta (b q)).toNat) ∧
    (∀ q, q < k → on q = true → (laneMag ta (b k)).toNat < (laneMag ta (b q)).toNat) ∧
    (i = 0 → r = laneMag ta (b k)) ∧
    (i = 1 → ((∃ q, q < n ∧ q ≠ k ∧ on q = true ∧ r = laneMag ta (b q)) ∧
        ∀ q, q < n → q ≠ k → on q = true → r.toNat ≤ (laneMag ta (b q)).toNat) ∨
      ((∀ q, q < n → on q = true → q = k) ∧ r = laneTop ta w)) ∧
    (i = 2 → r = BitVec.ofNat w k))

/-! ### Conversions (R275 to R278) -/

/-- A conversion: each enabled result lane holds what `f` makes of its source lane and its own number, or 0 where R275 gives it none; the tag
is the `Inherit` of the rows read, with bits 0 and 1 where an enabled lane had the event that `f` names. -/
def State.Converts (s : State) (u : Fin 3) (m : Mv) (x : VecArgs) (td : Ty) (i : Instr) (readA : Bool) (f : (src dst : Nat) → Nat × Bool) : Prop :=
  let n := min x.ta.lanes td.lanes
  let part := (x.pc.extractLsb' 8 3).toNat
  let on := fun j => decide (j < td.lanes) && !(s.vM u).data.getLsbD j
  let src := fun j => if x.ta.lanes < td.lanes then (if part * n ≤ j ∧ j < part * n + n then some (j - part * n) else none) else some (part * n + j)
  let tags := [(s.operandRow m).tag, (s.vM u).tag] ++ (if readA then [(s.vA u).tag] else []) ++ [(s.vC u).tag]
  let event := ∃ j k, on j = true ∧ src j = some k ∧ (f k j).2 = true
  ∃ t v keep, exec i s = .next t ∧ Puts s t (0x110 + u.val) (boundTd x) (boundTd x) (.r v) keep ∧ KeepsDisabled td.width (s.vM u).data keep ∧
    (∀ j, on j = true → (laneBv td.width v.data j).toNat = match src j with | some k => (f k j).1 | none => 0) ∧
    (event → v.tag = tagOf tags 3) ∧ (¬event → v.tag = tagOf tags 0)

/-- An operation of `sf`: whether it reads A, and a lane of its result from those of A and B (R290 to R294). -/
structure SfOp where
  instr : Mv → Instr
  readsA : Bool
  f : Nat → Nat → Nat

def sfuOps : List SfOp :=
  [⟨Instr.rcp, false, fun _ b => sfRcp b⟩, ⟨Instr.rsq, false, fun _ b => sfRsq b⟩, ⟨Instr.rcpstep, true, sfRcpStep⟩,
   ⟨Instr.rsqstep, true, sfRsqStep⟩, ⟨Instr.sqrt, false, fun _ b => sfSqrt b⟩, ⟨Instr.exp2, false, fun _ b => sfExp2 b⟩,
   ⟨Instr.log2, false, fun _ b => sfLog2 b⟩, ⟨Instr.sinp, false, fun _ b => sfSinp b⟩, ⟨Instr.cosp, false, fun _ b => sfCosp b⟩,
   ⟨Instr.tanh, false, fun _ b => sfTanh b⟩, ⟨Instr.sigm, false, fun _ b => sfSigm b⟩]

/-- FP32 codes by kind, a subnormal counting as the zero of its sign (R290). -/
def f32Nan (x : Nat) : Prop := x < 2 ^ 32 ∧ 0x7F800000 < x % 2 ^ 31
def f32Zero (neg : Bool) (x : Nat) : Prop := if neg then 2 ^ 31 ≤ x ∧ x < 2 ^ 31 + 2 ^ 23 else x < 2 ^ 23
/-- A negative finite code that is no zero, or -∞. -/
def f32Below (x : Nat) : Prop := 2 ^ 31 + 2 ^ 23 ≤ x ∧ x ≤ 0xFF800000

/-- A finite non-zero code that is no subnormal; its exponent, its significand, and the exact value rounded once with the flush of R290. -/
def f32Ordinary (x : Nat) : Prop := x < 2 ^ 32 ∧ 2 ^ 23 ≤ x % 2 ^ 31 ∧ x % 2 ^ 31 < 0x7F800000
def f32Exp (x : Nat) : Int := ((x / 2 ^ 23 % 256 : Nat) : Int) - 127
def f32Sig (x : Nat) : Nat := 2 ^ 23 + x % 2 ^ 23
def f32Neg (x : Nat) : Bool := decide (2 ^ 31 ≤ x)
def f32Flushed (v : Fv) : Nat :=
  let r := (fmtF32.encode .rne v).1
  if r % 2 ^ 31 < 2 ^ 23 then (if f32Neg r then 2 ^ 31 else 0) else r

/-- The magnitude of a code is k / 2. -/
def f32Halves (x k : Nat) : Prop := f32Sig x * 2 ^ (x / 2 ^ 23 % 256) = k * 2 ^ 149

/-- n is 2^31 / (128 + i) to the nearest integer: T[i] of R292. -/
def RcpEntry (i n : Nat) : Prop := 2 ^ 32 ≤ (2 * n + 1) * (128 + i) ∧ (2 * n - 1) * (128 + i) ≤ 2 ^ 32

/-- n is 2^24 / √((1 + i/128) 2^b) to the nearest integer: Q[b][i] of R292. -/
def RsqEntry (b i n : Nat) : Prop :=
  2 ^ 57 ≤ (2 * n + 1) * (2 * n + 1) * ((128 + i) * 2 ^ b) ∧ (2 * n - 1) * (2 * n - 1) * ((128 + i) * 2 ^ b) ≤ 2 ^ 57

/-- An estimate or a refinement passes y through (R293): x or y is zero, infinite or a NaN, a subnormal counting as zero. -/
def f32Passes (x y : Nat) : Prop := ¬ f32Ordinary x ∨ ¬ f32Ordinary y

/-- y as it is passed through: a NaN as the canonical one, a subnormal as the zero of its sign. -/
def f32Passed (y : Nat) : Nat :=
  if 0x7F800000 < y % 2 ^ 31 then 0x7FC00000 else if y % 2 ^ 31 < 2 ^ 23 then (if f32Neg y then 2 ^ 31 else 0) else y

/-- Element (r, c) of a tile of `tt` (R295). -/
def Core.tileAt (k : Core) (tile r c : Nat) : BitVec 32 := laneBv 32 (mrd RowT.zero k.tr.tiles (tile * 64 + r)).data c

/-- The OR of `Inherit` of the tags of a tile's 64 rows (R199, R296). -/
def Core.tileTag (k : Core) (tile : Nat) (ev : Byte) : Byte :=
  tagOf ((List.range 64).map fun r => (mrd RowT.zero k.tr.tiles (tile * 64 + r)).tag) ev

/-- A trigger that changes tile rows of its own core and nothing else. -/
structure TilesOnly (s t : State) : Prop where
  frame : ResultFrame s t
  bundle : SameBundle s t
  ports : SamePorts s.me (t.core s.ctx.core)

/-! ### Local, remote and global accesses (R297 to R306) -/

/-- A result as it is under way in a core, with the bounds of profiles A and B (R214, R221). -/
def Core.flight (k : Core) (port boundA boundB : Nat) (v : Val) : Inflight :=
  ⟨port, if k.ctrl.latprof then boundB else boundA,
    if (match k.task with | some t => t.profB | none => k.ctrl.latprof) then boundB else boundA, v, 0⟩

/-- What a read of memory may do besides giving its value: repair words, leave records, and report poison for a later boundary. -/
structure Repaired (s t : State) (reports : List Report) : Prop where
  others : SameOthers s.ctx.core s t
  bundle : SameBundle s t
  mem : t.mem = s.mem
  sched : t.sched = s.sched
  sysCopies : t.sysCopies = s.sysCopies
  queues : t.queues = s.queues
  me : t.me = { s.me with loc.ceWords := t.me.loc.ceWords, reports := s.me.reports ++ reports }
  hk : ∃ l : List ErrRec, t.hk = { s.hk with recs := l.foldl queueRec s.hk.recs }

/-- Poison met by a load, an atomic or a consumption, as it is reported at a later boundary (R400). -/
def State.poisonReport (s : State) (src : Byte) (addr : W64) : Report :=
  ⟨{ code := 0x03, detail := src, isDef := true, addr := addr, pc := s.ctx.addr, slot := BitVec.ofNat 4 s.cur.slot }, s.me.seq⟩

/-- The granules of n bytes from an offset let a core make an access of a kind (R74). -/
def State.granulesOk (s : State) (home : CoreId) (kind off n : Nat) : Prop :=
  ∀ i, i < n → granuleOk home (s.core home) (some s.ctx.core) kind ((off + i) / 4096) = true

/-- The address of a local access that the window may serve is well formed (R29, R30, R53, R66). -/
def State.localAddrOk (s : State) (align n : Nat) (ea : W64) : Prop :=
  ea.toNat % align = 0 ∧ (ea.toNat + n ≤ 0x400000 ∨
    (0x400000 ≤ ea.toNat ∧ ea.toNat + n ≤ 0x800000 ∧ ∀ i, i < n → s.me.windowOk (windowMacro (ea.toNat + i)) = true))

/-- Bytes of a row. -/
def rowByte (r : Row) (i : Nat) : Byte := laneBv 8 r i

/-- The bytes of a word and of a row that a store writes. -/
def wordBytes (n : Nat) (b : W64) : List Byte := (List.range n).map (byteAt b)
def fullRow (r : Row) : List Byte := (List.range 512).map (rowByte r)

/-- A 64-bit result holds n bytes, and above them zeros or copies of their sign. -/
def HoldsBytes (r : W64) (n : Nat) (signed : Bool) (bs : List Byte) : Prop :=
  (∀ i, i < n → byteAt r i = bs.getD i 0) ∧ ∀ j, 8 * n ≤ j → j < 64 → r.getLsbD j = (signed && r.getLsbD (8 * n - 1))

/-- A row result holds 512 bytes. -/
def HoldsRow (r : RowT) (bs : List Byte) (bad : Bool) : Prop :=
  (∀ i, i < 512 → rowByte r.data i = bs.getD i 0) ∧ r.tag = if bad then 5 else 0

/-- A local load: the instruction, its bytes, whether it extends the sign. -/
structure LoadOp where
  instr : Fin 2 → Mv → Instr
  bytes : Nat
  signed : Bool

def localLoads : List LoadOp :=
  [⟨Instr.lds8, 1, true⟩, ⟨Instr.ldz8, 1, false⟩, ⟨Instr.lds16, 2, true⟩, ⟨Instr.ldz16, 2, false⟩, ⟨Instr.lds32, 4, true⟩,
   ⟨Instr.ldz32, 4, false⟩, ⟨Instr.ld64, 8, false⟩]

/-- A local store and its bytes. -/
structure StoreOp where
  instr : Fin 2 → Mv → Instr
  bytes : Nat

def localStores : List StoreOp := [⟨Instr.st8, 1⟩, ⟨Instr.st16, 2⟩, ⟨Instr.st32, 4⟩, ⟨Instr.st64, 8⟩]

/-- The withhold buffer with one more store of a trigger, and whether it still fits (R69). -/
def State.withStore (s : State) (place : Place) (ea : W64) (bs : List Byte) (poison : Bool) : List Withheld :=
  s.me.ms.wh ++ [⟨s.me.ms.ids, s.origin, place, ea, .store bs poison⟩]

def State.storeFits (s : State) (place : Place) (ea : W64) (bs : List Byte) (poison : Bool) : Prop :=
  granuleCount (s.withStore place ea bs poison) ≤ 256

/-- A trigger withholds one store where it fits. Where it might need a 257th granule, the walks that stores of the core wait for end first,
and the bundle is cancelled with `CKWIN` where it still does (R69). -/
def StoresOrFull (s : State) (out : Out) (place : Place) (ea : W64) (bs : List Byte) (poison : Bool) : Prop :=
  (s.storeFits place ea bs poison → ∃ t, out = .next t ∧ Withholds s t [(place, ea, .store bs poison)]) ∧
  (¬ s.storeFits place ea bs poison →
    let t := s.me.ms.walks.foldl (fun t w => t.settleWalk s.ctx.core true w) (s.withhold place ea (.store bs poison))
    out = .next (if granuleCount (t.me.ms.wh.filter fun w => w.place ≠ .va) > 256 then t.raise 0x02 0 ea else t))

/-- What a translation at issue may do to a core: fill its TLB, and note the handler's first access to its stack area (R44, R398). -/
structure Looked (s t : State) : Prop where
  device : SameDevice s t
  others : SameOthers s.ctx.core s t
  bundle : SameBundle s t
  me : t.me = { s.me with ms.tlb := t.me.ms.tlb, mode.stackSeq := t.me.mode.stackSeq }

/-- The state in which an access left to the walker has its walk queued (R45). -/
def State.walking (s : State) (kind : AccKind) (ea : W64) (n : Nat) : State :=
  s.modCore s.ctx.core fun k => { k with ms.walks := k.ms.walks ++ [⟨k.ms.ids, s.origin, ea, n, kind, s.clock⟩] }

/-- A global access of n bytes from a trigger (R38, R39, R45, R49): misaligned, it traps `GALIGN`; a fault found at issue cancels the bundle,
`raiseXl` letting the walks of its lower slots end first; on a miss its walk is queued; and what it then does, with its place, is `f`. -/
def GlobalAccess (s : State) (out : Out) (kind : AccKind) (align n : Nat) (ea : W64) (f : State → Place → Prop) : Prop :=
  (ea.toNat % align ≠ 0 → out = .next ((s.touchStack ea n).raise 0x07 (preDetail kind) ea)) ∧
  (ea.toNat % align = 0 →
    let s1 := s.touchStack ea n
    let r := s1.transCore s.ctx.core s.me.domain kind false ea n
    Looked s r.2 ∧
    (∀ c d a, r.1 = .fault c d a → out = .next (r.2.raiseXl c d a)) ∧
    (∀ l, r.1 = .ok l → f r.2 (.glob l)) ∧
    (r.1 = .miss → f (r.2.walking kind ea n) .va))

/-- The address of a remote access is well formed (R31, R53). -/
def remoteAddrOk (align n : Nat) (ea : W64) : Prop := ea.toNat < 2 ^ 29 ∧ ea.toNat % 2 ^ 23 + n ≤ 0x400000 ∧ ea.toNat % align = 0

/-- Its home core and offset. -/
def homeOf (ea : W64) : CoreId := coreId (ea.toNat / 2 ^ 23)
def offOf (ea : W64) : Nat := ea.toNat % 2 ^ 23

/-- Where a remote access traps at issue (R53, R78, R401); `atHome` says that the access to an own granule is left to the home core's check, after
its release (R77). -/
def RemoteTraps (s : State) (out : Out) (kind align n : Nat) (ea : W64) (atHome : Prop := False) : Prop :=
  (¬ remoteAddrOk align n ea → out = .next (s.raise 0x08 (BitVec.ofNat 8 (kind * 8)) ea)) ∧
  (remoteAddrOk align n ea → s.absent (homeOf ea) = true → out = .next (s.raise 0x04 (BitVec.ofNat 8 (homeOf ea).val) ea)) ∧
  (remoteAddrOk align n ea → s.absent (homeOf ea) = false → homeOf ea = s.ctx.core → ¬ atHome → ¬ s.granulesOk s.ctx.core kind (offOf ea) n →
    ∃ o, offOf ea ≤ o ∧ o < offOf ea + n ∧ out = .next (s.raise 0x09 (ownDetail (s.me.ownState o) kind false) (BitVec.ofNat 64 o)))

/-- An atomic: its instruction, its operation, and whether it returns the old value. -/
structure AmoForm where
  instr : Fin 2 → Mv → Instr
  op : AmoOp
  ret : Bool

def scratchAmos : List AmoForm :=
  [⟨Instr.amoadd, .add, true⟩, ⟨Instr.amomin, .min, true⟩, ⟨Instr.amomax, .max, true⟩, ⟨Instr.amoand, .and, true⟩, ⟨Instr.amoor, .or, true⟩,
   ⟨Instr.amoxor, .xor, true⟩, ⟨Instr.amoswp, .swp, true⟩, ⟨Instr.amocas, .cas, true⟩, ⟨Instr.amofadd, .fadd, true⟩] ++
  [⟨Instr.amoaddn, .add, false⟩, ⟨Instr.amominn, .min, false⟩, ⟨Instr.amomaxn, .max, false⟩, ⟨Instr.amoandn, .and, false⟩,
   ⟨Instr.amoorn, .or, false⟩, ⟨Instr.amoxorn, .xor, false⟩, ⟨Instr.amoswpn, .swp, false⟩, ⟨Instr.amocasn, .cas, false⟩,
   ⟨Instr.amofaddn, .fadd, false⟩]

def globalAmos : List AmoForm :=
  [⟨Instr.gamoadd, .add, true⟩, ⟨Instr.gamomin, .min, true⟩, ⟨Instr.gamomax, .max, true⟩, ⟨Instr.gamoswp, .swp, true⟩,
   ⟨Instr.gamocas, .cas, true⟩, ⟨Instr.gamofadd, .fadd, true⟩] ++
  [⟨Instr.gamoaddn, .add, false⟩, ⟨Instr.gamominn, .min, false⟩, ⟨Instr.gamomaxn, .max, false⟩, ⟨Instr.gamoswpn, .swp, false⟩,
   ⟨Instr.gamocasn, .cas, false⟩, ⟨Instr.gamofaddn, .fadd, false⟩]

/-- A result put under way to a `.g` port, whose earlier results no longer reach it (R215). -/
structure PutsG (s t : State) (port : Nat) (v : W64) : Prop where
  frame : TriggerFrame s t
  bundle : SameBundle s t
  tr : (t.core s.ctx.core).tr = { s.me.tr with inflight := s.me.tr.inflight ++ [s.me.flight port 1 1 (.w v)] }
  ms : (t.core s.ctx.core).ms = { s.me.ms with pend := s.me.ms.pend.map fun q => if q.port = port then { q with dead := true } else q }

/-! ### Signals and engine triggers (R113, R232, R307 to R316, R340 to R343) -/

/-- A mask names no absent core and none outside the gang (R309, R401). -/
def State.maskOk (s : State) (mask : W64) : Prop :=
  (∀ i : CoreId, mask.getLsbD i.val = true → s.absent i = false) ∧ mask &&& ~~~s.me.eng.gangMask = 0

/-- Where a target mask traps: its lowest absent core first, with the mask as address (R395, R401), then one outside the gang (R309). -/
def TargetTraps (s : State) (out : Out) (mask addr : W64) : Prop :=
  (∀ i : CoreId, mask.getLsbD i.val = true → s.absent i = true →
    (∀ j : CoreId, j < i → mask.getLsbD j.val = true → s.absent j = false) → out = .next (s.raise 0x04 (BitVec.ofNat 8 i.val) mask)) ∧
  ((∀ i : CoreId, mask.getLsbD i.val = true → s.absent i = false) → mask &&& ~~~s.me.eng.gangMask ≠ 0 → out = .next (s.raise 0x0B 0 addr))

/-- The operands of a collective (R316); `kind` 0 `allred`, 1 `bcast`, 2 `rgather`. -/
structure CollLegal (kind : Nat) (a c mask : W64) (me : CoreId) : Prop where
  zero : a.extractLsb' 54 10 = 0 ∧ a.getLsbD 45 = false ∧ a.getLsbD 39 = false ∧ a.extractLsb' 23 9 = 0 ∧ c.extractLsb' 23 41 = 0
  reduce : kind = 0 → a.extractLsb' 46 2 ≠ 3 ∧ (a.extractLsb' 40 5 = 0x04 ∨ a.extractLsb' 40 5 = 0x08)
  unused : kind ≠ 0 → a.extractLsb' 46 2 = 0 ∧ a.extractLsb' 40 5 = 0
  root : if kind = 1 then mask.getLsbD (a.extractLsb' 48 6).toNat = true else a.extractLsb' 48 6 = 0
  aligned : (a.extractLsb' 0 23).toNat % 512 = 0 ∧ (c.extractLsb' 0 23).toNat % 512 = 0
  source : (a.extractLsb' 0 23).toNat + ((a.extractLsb' 32 7).toNat + 1) * 512 ≤ 0x400000
  dest : (c.extractLsb' 0 23).toNat +
    (if kind = 2 then ((a.extractLsb' 32 7).toNat + 1) * ((List.range 64).filter fun i => mask.getLsbD i).length
      else (a.extractLsb' 32 7).toNat + 1) * 512 ≤ 0x400000
  self : mask.getLsbD me.val = true

/-- The bundle in progress takes a value that a pop delivered to the slot in progress (R230, R203). -/
structure Pops (s t : State) (dst : Dst) (r : RowT) (k : Core) : Prop where
  device : SameDevice s t
  others : SameOthers s.ctx.core s t
  me : t.core s.ctx.core = match dst with
    | .latch l => k.setLatch l.code (if rowWide l.code then .r r else .w (r.data.extractLsb' 0 64))
    | _ => k
  ctx : t.ctx = { s.ctx with
    caught := (s.cur.slot, .r r) :: s.ctx.caught
    writes := match dst with
      | .x _ | .p _ | .v _ => s.ctx.writes ++ [(dst, .r r)]
      | _ => s.ctx.writes }
  todo : t.todo = s.todo
  saved : t.saved = s.saved

/-- Withheld releases of a Carafe (R155). -/
def Core.heldReleases (k : Core) (f : Fin 16) : Nat := (k.ms.wh.filter fun w => decide (w.what = .cfRelease f)).length

/-- A 64-bit word from fields: bit offset and value. -/
def wordOf (l : List (Nat × Nat)) : W64 := BitVec.ofNat 64 ((l.map fun f => f.2 * 2 ^ f.1).sum)

/-! ### Micro-operations (R344 to R350) -/

/-- A word of a routine ends and the sequencer goes on at n; a step ends with its one word (R341). -/
def State.goes (s : State) (r r' : Routine) (n : Nat) : State :=
  if r.call.step.isSome then s.modCore s.cur.core fun k => k.cimEnd { r' with mpc := r.mpc }
  else s.modCore s.cur.core fun k => { k with eng.cim.run := some { r' with mpc := n % 4096 }, eng.cim.mpc := n % 4096 }

/-- A word fails its routine with a cause, an address and the detail of its trap (R350). -/
def State.fails (s : State) (r : Routine) (cause : Nat) (addr : W64) (detail : Byte := 0) : State :=
  s.modCore s.cur.core fun k => k.cimFail r.call r.mpc cause addr detail

/-- The core whose sequencer moves, and its engine. -/
def State.seqCore (s : State) : Core := s.core s.cur.core
def State.seqCim (s : State) : Cim := s.seqCore.eng.cim

/-- A range of macros that a word may name (R346): where it is refused, and where not. -/
def macroIn (mf mnm1 : BitVec 7) (m : Nat) : Prop := mf.toNat ≤ m ∧ m ≤ mf.toNat + mnm1.toNat
def Core.inStandby (k : Core) (m : Nat) : Prop := ∃ b, k.standby = some b ∧ b.macroFirst ≤ m ∧ m < b.macroFirst + b.macroCount
def Core.macroUse (k : Core) (scratchOk : Bool) (m : Nat) : Prop :=
  (k.eng.cim.macro' m).retired = false ∧ ¬ k.inStandby m ∧ (scratchOk = false → (k.eng.cim.macro' m).scratch = false)

/-- Where a word over macros fails for its range. -/
def RangeFails (s : State) (r : Routine) (out : Out) (mf mnm1 : BitVec 7) (scratchOk : Bool) : Prop :=
  (127 < mf.toNat + mnm1.toNat → out = .next (s.fails r 1 0)) ∧
  (mf.toNat + mnm1.toNat ≤ 127 → (∃ m, macroIn mf mnm1 m ∧ ¬ s.seqCore.macroUse scratchOk m) → out = .next (s.fails r 3 0))

def RangeOk (s : State) (mf mnm1 : BitVec 7) (scratchOk : Bool) : Prop :=
  mf.toNat + mnm1.toNat ≤ 127 ∧ ∀ m, macroIn mf mnm1 m → s.seqCore.macroUse scratchOk m

/-- A word changes each macro of its range, and of its core nothing else but accumulator rows, which a core read of the cycle may still meet as
they were (R62). -/
structure EachMacro (s : State) (k : Core) (mf mnm1 : BitVec 7) (f : Macro → Macro) : Prop where
  cim : k.eng.cim = { s.seqCim with macros := k.eng.cim.macros, fresh := k.eng.cim.fresh }
  rest : k = { s.seqCore with eng.cim := k.eng.cim, loc := k.loc }
  named : ∀ m, macroIn mf mnm1 m → k.eng.cim.macro' m = f (s.seqCim.macro' m)
  others : ∀ m, ¬ macroIn mf mnm1 m → k.eng.cim.macro' m = s.seqCim.macro' m

/-- Row i beyond the one that ma[R] names (R344). -/
def Routine.rowNo (r : Routine) (x : BitVec 3) (i : Nat) : Nat := ((r.ma.get ⟨x.toNat, x.isLt⟩).toNat + i) % 8192

/-- A core changes accumulator rows and nothing else: each row that `f` names reads as it gives. -/
structure RowsOnly (k l : Core) (f : Nat → Option RowT) : Prop where
  rest : l = { k with loc.acc := l.loc.acc, loc.badRows := l.loc.badRows, loc.ceRows := l.loc.ceRows, loc.paired := l.loc.paired }
  rows : ∀ q, l.rowAt q = (f q).getD (k.rowAt q)

/-! ### Events: boundaries, releases, accesses (R74, R77, R112, R396) -/

/-- The core may take a report now: none in handler mode (R396), none of a fault that waits for the walk of a lower slot (R49), and once an
`end` bundle has issued only one of its own interval (log 15). -/
def Core.takes (k : Core) (r : Report) : Prop :=
  k.mode.handler = false ∧ (k.endIssued = true → k.mode.openSeq ≤ r.seq) ∧
  ¬ ((0x10 ≤ r.trap.code.toNat ∧ r.trap.code.toNat ≤ 0x17 ∨ r.trap.code = 0x0A) ∧ ∃ w ∈ k.ms.walks, w.org.seq = r.seq ∧ w.org.slot < r.trap.slot.toNat)

/-- Of two reports, the one of the older bundle comes first, and in one bundle the one of the lower slot (R396). -/
def Report.notAfter (r q : Report) : Prop := r.seq < q.seq ∨ (r.seq = q.seq ∧ r.trap.slot.toNat ≤ q.trap.slot.toNat)

/-- The report of a condition found after its bundle issued (R396). -/
def reportOf (o : Origin) (code detail : Byte) (addr : W64) : Report :=
  ⟨{ code := code, detail := detail, isDef := true, addr := addr, pc := o.pc, slot := BitVec.ofNat 4 o.slot }, o.seq⟩

/-- A withheld store to scratch. -/
def Withheld.inScratch (w : Withheld) : Prop := ∃ off bs p, w.place = .loc off ∧ w.what = .store bs p ∧ off + bs.length ≤ 0x400000

/-- The byte that the last of some withheld local stores gives an offset. -/
def storedAt (l : List Withheld) (a : Nat) : Option Byte :=
  l.reverse.findSome? fun w => match w.place, w.what with
    | .loc off, .store bs _ => if off ≤ a then bs[a - off]? else none
    | _, _ => none

/-- A core after a result reached its pending entry. -/
def gotResult (l : List Pend) (id : Nat) (v : Val) : List Pend := l.map fun p => if p.id = id then { p with got := some v } else p

/-- A remote access of n bytes is accepted at its home core (R74, R401). -/
def State.homeAccepts (s : State) (c h : CoreId) (kind off n : Nat) : Prop :=
  s.absent h = false ∧ ∀ j, j < n → granuleOk h (s.core h) (some c) kind ((off + j) / 4096) = true

/-- What its refusal reports (R77, R78). -/
def State.homeRefuses (s : State) (c h : CoreId) (kind off n : Nat) (later : Bool) (code detail : Byte) : Prop :=
  if s.absent h = true then code = 0x04 ∧ detail = BitVec.ofNat 8 h.val
  else code = 0x09 ∧ ∃ j, j < n ∧ granuleOk h (s.core h) (some c) kind ((off + j) / 4096) = false ∧
    detail = ownDetail ((s.core h).ownState (off + j)) kind later

/-- An atomic that delivers the old value is a signal (R113, R306). -/
def Comm.returns (w : Comm) : Bool := match w.what with | .signal (.amo ..) => true | _ => false

/-- An item of a core's commit order that the order lets be performed: the oldest, or one with no access to its point and no drain, `rel`
or signal before it (R110, R113), nor an `l1inv` that its release still waits for (R269). -/
def Core.freeItem (k : Core) (i : Nat) (w : Comm) : Prop :=
  k.ms.comm[i]? = some w ∧ (∀ r, k.ms.releasing = some r → r.committed = true → ∀ e ∈ r.effs, w.id ≤ e.id) ∧ ∀ d ∈ k.ms.comm.take i, (d.isAccess = true → d.samePath w = false) ∧
    match d.what with | .store .. => True | .amo .. => True | _ => False

/-! ### Events: handles, signals, copies, near commands, collectives -/

/-- The handle of the descriptor i of a home core (R73). -/
def handleOf (home : CoreId) (gen i : Nat) : W64 := wordOf [(16, home.val), (8, gen), (0, i)]

/-- A wait entry is met, failed, or holds its operation (R122). -/
def Core.waits (k : Core) (l : List Nat) : Prop := ∃ t ∈ l, t < 32 ∧ k.token t = 1
def Core.waitFailed (k : Core) (l : List Nat) : Prop := ∃ t ∈ l, 32 ≤ t ∨ k.token t = 3

/-- The tokens of a core after its token t has ended (R402). -/
def Core.tokensAfter (k : Core) (t : Option Nat) (ok : Bool) (u : Nat) : BitVec 2 :=
  if t = some u ∧ k.token u = 1 then (if ok then 2 else 3) else k.token u

/-- A Carafe packet that waits for a slot of Carafe j (R155). -/
def CopyEnt.waitsSlot (e : CopyEnt) (j : Nat) : Prop :=
  e.caf = none ∧ e.early = none ∧ (Packet.ofWords e.words).op = 3 ∧ (Packet.ofWords e.words).caf = j

/-- n bytes at an offset of a core's own scratch that it, or an engine of its task, may access (R53, R74). -/
def Core.scratchOk (k : Core) (c : CoreId) (kind a n : Nat) : Prop :=
  a + n ≤ 0x400000 ∧ ∀ j, j < n → granuleOk c k (some c) kind ((a + j) / 4096) = true

/-- The 8-byte word at an offset of a core's scratch. -/
def Core.scratchWord (k : Core) (a : Nat) : W64 := BitVec.ofNat 64 (leNat ((List.range 8).map fun i => k.scratchByte (a + i)))

/-- The weight that a dense fill of integers stores (R358 to R360): the low WW bits of the byte of row r and output o, 0 beyond the tile. -/
def denseCode (k : Core) (d : FillDesc) (ww r o : Nat) : Nat :=
  if r < d.kd ∧ o < d.nout then (k.scratchByte (d.src + r * d.rstride + o)).toNat % 2 ^ ww else 0

/-- The shadow half after a dense fill of integers with WBS 0 (R331, R359, R360, R367). -/
structure DenseHalf (k : Core) (cfg : CimCfg) (d : FillDesc) (h : Half) : Prop where
  cells : ∀ r o, r < 512 → o < 256 / cfg.ww → nb (h.rowBits r) (cfg.ww * o) cfg.ww = denseCode k d cfg.ww r o
  sels : h.sels = []
  checks : ∀ r, r < 512 → cfg.cke = true → cfg.tree = false → mrd 0 h.checks r =
    BitVec.ofInt 16 (((List.range (256 / cfg.ww)).map fun o => weightOf cfg (h.rowBits r) o).sum)
  valid : h.ckValid = cfg.cke
  scales : h.shifts = [] ∧ h.shift0 = 0 ∧ h.scales = [] ∧ h.scale0 = .one
  flags : h.nanMet = [] ∧ h.memErr = [] ∧ h.bad = false

/-- A fill without failure has ended: its macro has a new shadow half, and nothing else of the macros changes (R360); its record, where it has
one, is written, and no other byte (R365). -/
structure FillEnds (s t : State) (c : CoreId) (f : Fill) (d : FillDesc) (h : Half → Prop) : Prop where
  shadow : h (((t.core c).eng.cim.macro' f.macr).half 1)
  macr : (t.core c).eng.cim.macro' f.macr = ((s.core c).eng.cim.macro' f.macr).putHalf 1 (((t.core c).eng.cim.macro' f.macr).half 1)
  others : ∀ m, m ≠ f.macr → (t.core c).eng.cim.macro' m = (s.core c).eng.cim.macro' m
  record : d.stv = true → (t.core c).scratchWord d.stat = BitVec.ofNat 64 (f.idle * 2 ^ 32 + 1) ∧ (t.core c).scratchWord (d.stat + 8) = 0
  bytes : ∀ a, (d.stv = true → a < d.stat ∨ d.stat + 16 ≤ a) → (t.core c).scratchByte a = (s.core c).scratchByte a
  fills : (t.core c).eng.cim.fills = (s.core c).eng.cim.fills.filter fun g => !(g.group = f.group && g.macr = f.macr)
  out : (t.core c).eng.cim.out = none

/-- A copy of one row of n bytes from offset a to offset b of the scratch of core c, with no record, stream or slot (R132 to R134). -/
structure RowCopy (e : CopyEnt) (c : CoreId) (a b n : Nat) : Prop where
  op : (Packet.ofWords e.words).op = 1
  dims : (Packet.ofWords e.words).nz = 1 ∧ (Packet.ofWords e.words).ny = 1 ∧ (Packet.ofWords e.words).nx = n
  src : (Packet.ofWords e.words).src = wordOf [(60, 1), (23, c.val), (0, a)]
  dst : (Packet.ofWords e.words).dst = wordOf [(60, 1), (23, c.val), (0, b)]
  plain : (Packet.ofWords e.words).rec_ = 0 ∧ (Packet.ofWords e.words).cmp = false ∧ (Packet.ofWords e.words).exp = false
  owner : e.core = some c ∧ e.queue = none ∧ e.caf = none ∧ e.early = none ∧ e.ordAfter = []
  room : a + n ≤ 0x400000 ∧ b + n ≤ 0x400000 ∧ (a + n ≤ b ∨ b + n ≤ a)
  whole : e.moved = [] ∧ e.buf = []

/-- The slot that bring-up takes of a pair (R418): the active one or, where it is bad or fails verification, the other. -/
def Flash.Boots (f : Flash) (ok : Option (List Byte) → Bool) (bad : Bool) (g : Flash) : Prop :=
  (bad = false ∧ ok f.activeSlot = true ∧ g = { f with used := f.active, image := f.activeSlot }) ∨
  ((bad = true ∨ ok f.activeSlot = false) ∧ ok f.otherSlot = true ∧ g = { f with used := !f.active, image := f.otherSlot })

/-- No slot of a pair verifies. -/
def Flash.Dead (f : Flash) (ok : Option (List Byte) → Bool) (bad : Bool) : Prop := (bad = true ∨ ok f.activeSlot = false) ∧ ok f.otherSlot = false

/-- The macros of a core in a list of broken ones, and the cores of a die that have more than eight (R419). -/
def brokenOf (l : List (Nat × Nat)) (d : CoreId) : List (Nat × Nat) := l.filter fun p => decide (p.1 = d.val)
def brokenCores (l : List (Nat × Nat)) (die : Nat) : List CoreId :=
  (List.finRange 64).filter fun d => decide (d.val / 32 = die) && decide (8 < (brokenOf l d).length)

/-! ### Percolators (R164 to R169) -/

/-- A finite FP32 code in units of 2^-149, and RoundNE(L × 2^-149, f32), +0 for zero (R164). -/
def f32Units (x : Nat) : Int :=
  let m : Nat := if x / 2 ^ 23 % 256 = 0 then x % 2 ^ 23 else f32Sig x * 2 ^ (x / 2 ^ 23 % 256 - 1)
  if f32Neg x then -(m : Int) else m
def longF32 (l : Int) : Nat := if l = 0 then 0 else (fmtF32.encode .rne (.fin (decide (l < 0)) l.natAbs 1 (-149))).1

/-- A finite FP32 code. -/
def f32Finite (x : Nat) : Prop := x < 2 ^ 32 ∧ x % 2 ^ 31 < 0x7F800000

/-- n is 2^(j/64) × 2^23 to the nearest integer: T[j] of R166. -/
def ExpEntry (j n : Nat) : Prop := (2 * n - 1) ^ 64 ≤ 2 ^ (j + 64 * 24) ∧ 2 ^ (j + 64 * 24) ≤ (2 * n + 1) ^ 64

/-- A term of the scaled-exponential-sum in units of 2^-149, `none` for OVF (R166); −∞ contributes 0 (R167). -/
def ExpTerm (m x : Nat) (r : Option Nat) : Prop :=
  let dq := roundNEshift (f32Units x - f32Units m) 133
  let fr := (dq % 65536).toNat
  let t := fr % 1024
  if x = 0xFF800000 then r = some 0
  else if 128 * 65536 ≤ dq then r = none
  else if dq < -126 * 65536 then r = some 0
  else ∃ t0 t1, ExpEntry (fr / 1024) t0 ∧ ExpEntry (fr / 1024 + 1) t1 ∧
    r = some ((t0 + ((t1 - t0) * t + 512) / 1024) * 2 ^ (dq / 65536 + 126).toNat)

/-- Element j of index i of a reduce, from the bytes that its command read: LEN elements of `nmElem` bytes each row, BF16 widened (R161, R164). -/
def reduceElem (r : Row) (data : List (Byte × Bool)) (i j : Nat) : Nat :=
  let v := leNat (((data.drop ((i * nmLen r + j) * nmElem r)).take (nmElem r)).map Prod.fst)
  if nmEf r = 1 then v * 65536 else v

/-- The deferred record of a bank group that met a bad block, and the record of one that it corrected (R169). -/
def nearRecord (event sev : Nat) (dom pa : Nat) : ErrRec :=
  { event := event, sev := sev, unit := 9, addr := BitVec.ofNat 64 (pa / 64 * 64), domain := dom }

/-- A segment that a bank group reads from one 64-byte block of home 0 at its controller, under the key it was written with. -/
def State.oneBlock (s : State) (g : Seg) : Prop :=
  g.home = 0 ∧ g.cls = 3 ∧ 0 < g.len ∧ g.pa % 64 + g.len ≤ 64 ∧ (s.mem.block (g.pa / 64)).key = s.mem.fullKey g.key

/-- The part of a segment in its first 64-byte block, and the rest. -/
def Seg.firstPart (g : Seg) : Seg := { g with len := 64 - g.pa % 64 }
def Seg.restPart (g : Seg) : Seg := { g with pa := g.pa + (64 - g.pa % 64), len := g.len - (64 - g.pa % 64) }

/-- The source rows that a participant gives to a collective (R316, R317), and whether a word of one is uncorrectable or marked. -/
def State.sourceRow (s : State) (q : CollReq) (j : Nat) : List Byte := (List.range 512).map fun i => (s.core q.core).scratchByte (q.src + 512 * j + i)
def State.sourceBad (s : State) (q : CollReq) (j : Nat) : Bool :=
  (List.range 512).any fun i => (s.core q.core).loc.badWords.contains ((q.src + 512 * j + i) / 8)

/-- Lane n of source row j of a participant. -/
def State.sourceLane (s : State) (q : CollReq) (j n : Nat) : BitVec 32 := BitVec.ofNat 32 (leNat (((s.sourceRow q j).drop (4 * n)).take 4))

/-! ### Events: scheduling and the end of a task -/

/-- An instance all of whose tiles are done or killed (R379). -/
def Inst.over (i : Inst) : Prop :=
  ∀ n t, n < i.nodes.length → t < i.count n → (i.tile n t).st = .done ∨ (i.tile n t).st = .killed

/-- A node that is loaded without images or static fills (R383, R386). -/
def plainNode (w : List W64) : Prop :=
  (w.getD 6 0).getLsbD 63 = false ∧ (w.getD 8 0).getLsbD 63 = false ∧ (w.getD 10 0).getLsbD 63 = false ∧ (w.getD 13 0).extractLsb' 0 8 = 0

/-- The registers of a core at dispatch (R260, R383). -/
structure DispatchedAs (k l : Core) (i : Inst) (n t : Nat) (profile : Bool) : Prop where
  pc : l.pc = (i.words n).getD 1 0
  args : ∀ r : BitVec 6, 48 ≤ r.toNat → l.regs.getX r = (i.words n).getD (16 + (r.toNat - 48)) 0
  history : l.regs.getX 47 = wordOf [(0, if (i.tile n t).lastOver then 1 else 0), (1, if (i.tile n t).rerun then 1 else 0)]
  zeros : ∀ r : BitVec 6, r.toNat < 47 → l.regs.getX r = 0
  preds : ∀ j, l.regs.getP j = false
  loop : l.regs.lcnt = 0 ∧ l.regs.lbeg = 0
  seed : l.regs.srseed = (i.words n).getD 4 0
  place : l.ctrl.tx.toNat = t % (((i.words n).getD 2 0).extractLsb' 0 20).toNat.succ ∧ l.ctrl.awb = 0
  profile : l.ctrl.latprof = profile ∧ l.ctrl.cyc = k.ctrl.cyc
  traps : l.traps = { TrapRegs.reset with tvec := k.traps.tvec }
  mode : l.mode.handler = false ∧ l.mode.stopped = false
  idle : (∀ j, j < 32 → l.token j = 0) ∧ l.eng.aq = [] ∧ l.eng.yq = [] ∧ l.ms.wh = [] ∧ l.ms.pend = [] ∧ l.ms.comm = [] ∧ l.reports = []
  snap : l.snap.regs = l.regs ∧ l.snap.resume = l.pc
  task : ∃ x, l.task = some x ∧ x.inst = i.slot ∧ x.node = n ∧ x.tile = t ∧ x.domain = i.domain ∧ x.used = 0

/-- The boundary of a core has nothing to take before a budget expiry (R396). -/
def State.quietBoundary (s : State) (c : CoreId) : Prop :=
  s.canIssue c = true ∧ (s.core c).fatal = [] ∧ (s.core c).endIssued = false ∧ (s.core c).asked = none ∧ (∀ r ∈ (s.core c).reports, ¬ (s.core c).takes r) ∧
  ((s.core c).mode.handler = true ∨ (s.core c).eng.cim.fails = [])

/-- The running members of a gang: those that have not begun to end. -/
def State.inGang (s : State) (g : Nat) (d : CoreId) : Prop :=
  (s.core d).ending = none ∧ (s.core d).asked = none ∧ ∃ x, (s.core d).task = some x ∧ x.gang = g

/-- A task that R390 may choose for a unit of a level. -/
def State.canGoFor (s : State) (level : Nat) (d : CoreId) (x : Task) : Prop :=
  (s.core d).ending = none ∧ (s.core d).asked = none ∧ (s.core d).task = some x ∧ x.idem = true ∧ level < x.prio

/-- The end of a task at a boundary: the core rolls back, and its task is to end. -/
structure EndsAt (s t : State) (c : CoreId) (e : EndKind) : Prop where
  ending : (t.core c).ending = some e
  asked : (t.core c).asked = none
  regs : (t.core c).regs = (s.core c).snap.regs
  wh : (t.core c).ms.wh = []
  task : (t.core c).task = (s.core c).task
  scratch : (t.core c).loc.scratch = (s.core c).loc.scratch
  mem : t.mem = s.mem
  hk : t.hk = s.hk
  others : SameOthers c s t

/-- A descriptor at the end of a task of core c: the buffers it owns are freed, those it holds return (R75). -/
def endDesc (h c : CoreId) (d : Desc) : Desc :=
  if d.st = 0 then d
  else if h = c then { d with st := 0, hcore := 0, mask := 0, gen := d.gen + 1 }
  else if d.hcore = c.val then { d with st := 1, hcore := h.val, mask := 0 }
  else d

/-! ### Events: power, records, links, the mailbox and the windows -/

/-- The effective cap (R422). -/
def Hsk.capNow (h : Hsk) : Nat := min (max h.pcap.toNat 100) (if h.envelope = 0 then 1000 else if h.envelope = 1 then 650 else 320)

/-- The full clock of an envelope in units of 10 MHz (R21, R422). -/
def fullClock (e : Nat) : Nat := if e = 0 then 125 else if e = 1 then 110 else 90

/-- A bank holds a record of the same event, unit, address and core (R408). -/
def ErrBank.matchesRec (b : ErrBank) (r : ErrRec) : Prop :=
  b.w0.getLsbD 63 = true ∧ b.w0.extractLsb' 0 8 = BitVec.ofNat 8 r.event ∧ b.w3.extractLsb' 56 8 = BitVec.ofNat 8 r.unit ∧
  b.w3.getLsbD 55 = r.core.isSome ∧ b.w1 = r.addr ∧ ∀ c, r.core = some c → b.w3.extractLsb' 48 6 = BitVec.ofNat 6 c

/-- The words of a bank that holds a record once (R406). -/
def recordWords (r : ErrRec) (ovf : BitVec 16) : ErrBank :=
  { w0 := wordOf [(63, 1), (61, r.sev % 4), (40, ovf.toNat), (24, 1), (16, r.detail.toNat), (8, r.cause.toNat), (0, r.event % 256)]
    w1 := r.addr
    w2 := r.synd
    w3 := wordOf [(56, r.unit % 256), (55, if r.core.isSome then 1 else 0), (48, (r.core.getD 0) % 64), (47, if r.macr.isSome then 1 else 0),
      (40, (r.macr.getD (0, 0)).1 % 128), (28, (r.macr.getD (0, 0)).2 % 4096), (20, r.domain % 256), (16, r.port % 16)] }

/-- A word with one 16-bit count changed. -/
def countAt (w v : W64) (lo n : Nat) : Prop := v.extractLsb' lo 16 = BitVec.ofNat 16 n ∧ ∀ i, i < 64 → (i < lo ∨ lo + 16 ≤ i) → v.getLsbD i = w.getLsbD i

/-- Only one bank differs. -/
def BankOnly (a b : Vector ErrBank 32) (i : Fin 32) (v : ErrBank) : Prop := b.get i = v ∧ ∀ j, j ≠ i → b.get j = a.get j

/-- The word of `LINKSTATn` (R424). -/
def linkstatOf (lanes : Nat) (rx tx up : Bool) : W64 :=
  wordOf [(8, lanes), (2, if rx then 1 else 0), (1, if tx then 1 else 0), (0, if up then 1 else 0)]

/-- A core whose outstanding accesses at a home have completed with `XLHOME` (R39, R424). -/
structure LosesHome (k l : Core) (h : Nat) : Prop where
  pend : l.ms.pend = k.ms.pend.filter fun p => !(p.got.isNone && p.place.atHome h)
  comm : l.ms.comm = k.ms.comm.filter fun w => !w.place.atHome h
  reports : l.reports = k.reports ++
    (k.ms.pend.filter fun p => p.got.isNone && p.place.atHome h).map (fun p => reportOf p.org 0x15 (xlDetail .load (k.levelOf p.ea)) p.ea) ++
    (k.ms.comm.filter fun w => w.place.atHome h).map (fun w => reportOf w.org 0x15 (xlDetail w.what.accKind (k.levelOf w.ea)) w.ea)
  rest : l = { k with reports := l.reports, ms := { k.ms with pend := l.ms.pend, comm := l.ms.comm } }

/-- `HINT` with bit i set; its vector is raised once more where the bit was 0 (R412). -/
def Hsk.hinted (h : Hsk) (i : Fin 5) : Hsk :=
  { h with
    hint := h.hint ||| (1 <<< i.val : W64)
    msix := Vector.ofFn fun j : Fin 5 => if j = i ∧ h.hint.getLsbD i.val = false then h.msix.get j + 1 else h.msix.get j }

/-- A mailbox command that housekeeping performs is running, with its opcode and request words 1 and 2 (R410, R414). -/
def State.mbRuns (s : State) (op : Nat) (a b : W64) : Prop :=
  (s.hk.ready = true ∨ op = 1) ∧ op ∈ mailboxOps ∧ ∃ c, s.hk.mbCmd = some c ∧ ((c.words.getD 0 0).extractLsb' 0 8).toNat = op ∧ c.words.getD 1 0 = a ∧ c.words.getD 2 0 = b

/-- The state u with the command completed: the response words written, BUSY clear, DONE and `HINT.MBDONE` set (R414). -/
def AnswersWith (out : Out) (u : State) (op st : Nat) (w1 w2 : W64) : Prop :=
  ∃ m, mrd 0 m 0 = wordOf [(8, st), (0, op)] ∧ mrd 0 m 1 = w1 ∧ mrd 0 m 2 = w2 ∧
    out = .next { u with hk := Hsk.hinted { u.hk with mbCmd := none, mbstat := 2, mbResp := m } 0 }

/-- Steps of mailbox commands with their opcodes (R415, R89, R103, R409). -/
def mailboxSteps : List (Instr × Nat) :=
  [(.attest, 0x01), (.glalloc, 0x10), (.glfree, 0x11), (.cwret, 0x12), (.dbgctl, 0x20), (.dbggo, 0x21), (.dbgrd, 0x22), (.mpwrite, 0x30)] ++
  [(.hostTlbinv, 0x31), (.coreswap, 0x32), (.macret, 0x33), (.hbmsvc, 0x34), (.lanert, 0x35), (.fwstage, 0x36), (.fwswitch, 0x37)] ++
  [(.keyload, 0x38), (.keyunld, 0x39)]

/-- A request from the host or a peer has completed with a status and data. -/
def State.answers (s : State) (st : Nat) (data : List Byte) : State := { s with hk := { s.hk with lastStatus := st, lastRead := data } }

end Sys2Proof.Machine
end

