-- ==== Sys2Proof/Certificates/Slice0/Obligations.lean ====
section
/-! DEFINITION. Obligations: the statements for the provers. Each docstring names the rules of spec/ that it formalises; OBLIGATIONS.json lists
them. -/

open Sys2Proof Sys2Proof.Machine

/-! ### Encodings -/

/-- Tier 3. Decoding the slot word of a trigger or pop gives the instruction back, with its unit, guard select, source and destination at
every value the encoding admits (R209 to R211, R229, R230, R236 to R243). -/
def Obligations.SlotEncodingReadsBack : Prop :=
  ∀ (i : Instr) (w : BitVec 24), i.wellFormed = true → encodeSlot i = some w → decodeSlot i.isPop i.nmOpCode w = some i

/-- Tier 3. Decoding the micro-word of a micro-operation gives it back, with every field at every value (R346, R347). -/
def Obligations.MicroEncodingReadsBack : Prop :=
  ∀ (i : Instr) (w : W64), encodeMicro i = some w → decodeMicro w = some i

/-- A word has one meaning: what decodes is the encoding of what it decodes to, so that no reserved code or non-zero zero bit falls through
to a neighbour (R209 to R211, R346, R347). So for the header: a non-zero reserved field and a binding of 96 to 127 are refused in that order
with details `0x01` and `0x02`, and any other word gives its fields, which give the word back (R207, R208, R212). -/
def Obligations.DecodedWordsAndHeadersReadBack : Prop :=
  ((∀ (pop : Bool) (op : Nat) (w : BitVec 24) (i : Instr), decodeSlot pop op w = some i → encodeSlot i = some w) ∧
  ∀ (w : W64) (i : Instr), decodeMicro w = some i → encodeMicro i = some w) ∧
  (∀ w : W64,
    (w.extractLsb' 60 2 ≠ 0 ∨ w.extractLsb' 32 4 ≠ 0 → decodeHeader w = .error 0x01) ∧
    (w.extractLsb' 60 2 = 0 → w.extractLsb' 32 4 = 0 →
      ((∃ o ∈ [36, 44, 52], 96 ≤ (w.extractLsb' o 7).toNat) → decodeHeader w = .error 0x02) ∧
      ((∀ o ∈ [36, 44, 52], (w.extractLsb' o 7).toNat < 96) →
        ∃ h, decodeHeader w = .ok h ∧ h.c = w.getLsbD 63 ∧ h.l = w.getLsbD 62 ∧ h.g1 = w.extractLsb' 52 8 ∧ h.g2 = w.extractLsb' 44 8 ∧
          h.g3 = w.extractLsb' 36 8 ∧ h.limm = w.extractLsb' 0 32 ∧ h.encode = w)))

/-- The bundle that R212 writes out passes the checks as the three moves it stands for, slot words that R251, R263 and others give decode to
their instructions, and the words of `mend` and `mtok` to theirs. -/
def Obligations.WordsOfTheManualDecode : Prop :=
  bundleCheck (0x3FF8003FF8003FF8_003FF8003FF80006_20C3404FFB003EFC_C8C0000012345678) =
    .ok (⟨true, true, 0x8C, 0, 0, 0x12345678⟩,
      [⟨0, 0x003EFC, ⟨0, .x 7, .limmS⟩⟩, ⟨1, 0x404FFB, ⟨1, .x 9, .imm 0xFB⟩⟩, ⟨2, 0x0620C3, ⟨0, .v 4, .v 3⟩⟩,
       ⟨3, 0x3FF800, ⟨0, .null, .x 0⟩⟩, ⟨4, 0x3FF800, ⟨0, .null, .x 0⟩⟩, ⟨5, 0x3FF800, ⟨0, .null, .x 0⟩⟩,
       ⟨6, 0x3FF800, ⟨0, .null, .x 0⟩⟩, ⟨7, 0x3FF800, ⟨0, .null, .x 0⟩⟩]) ∧
  decodeFields 0x100003 = .ok ⟨0, .latch (.saA 0), .x 3⟩ ∧
  decodeSlot false 1 0x107804 = some (.div 0 ⟨0, .x 4⟩) ∧
  decodeSlot false 1 0x305800 = some (.eret ⟨0, .x 0⟩) ∧
  decodeSlot false 1 0x58F8FD = some (.vsel 0 ⟨1, .v 61⟩) ∧
  decodeSlot false 3 0x2E4A00 = none ∧
  decodeSlot false 3 0x2E48C3 = some (.nmIadd 1 ⟨0, .v 3⟩) ∧
  decodeSlot true 1 0x3FF948 = some (.yqPop 0 .null) ∧
  decodeSlot false 1 0x020000 = none ∧
  decodeMicro 0x0400000000000000 = some .mend ∧
  decodeMicro 0x6400000000000005 = some (.mtok 5) ∧
  decodeMicro 0xFC00000000000000 = none

/-! ### Steps -/

/-- A step runs what the decoder reads: the next slot of the bundle in progress, under the latches that the slots before it left, and the
bundle ends after its last; the micro-word at the sequencer of the core whose turn it is; otherwise the event whose turn it is.
The model's choices that it rests on: log 1, log 9. -/
def Obligations.StepRunsTheDecodedInstruction : Prop :=
  (∀ (s : State) (pop : Bool) (n : Nat) (w : BitVec 24) (rest : List (Bool × Nat × BitVec 24)) (i : Instr),
    s.todo = (pop, n, w) :: rest → decodeSlot pop ((s.atSlot n rest).cmdOp n w) w = some i →
    ∀ t, exec i (s.atSlot n rest) = .next t →
      step s = .next (if t.saved.isSome = true ∧ t.todo = [] then t.finishBundle else t)) ∧
  (∀ (s : State) (c : CoreId) (r : Routine) (w : W64) (i : Instr),
    s.todo = [] → s.turn = .micro c → (s.core c).eng.cim.run = some r →
    (r.call.step = some w ∨ r.call.step = none ∧ r.first ≤ r.mpc ∧ r.mpc ≤ r.last ∧ mrd 0 (s.core c).eng.cim.store r.mpc = w) →
    decodeMicro w = some i → step s = exec i (s.atTurn { core := c })) ∧
  ∀ (s : State) (a : Stim) (i : Instr), s.todo = [] → s.turn = .event a i → encode i = none → step s = exec i (s.atTurn a)

/-- BUNDLE_ISSUE (R201, R202, R206, R212, R217, R218, R400, R404): where the core issues, its boundary takes nothing and no release is awaited,
the two cores of a lockstep pair that differ issue nothing and rerun the interval; a fetch that faults traps; an illegal bundle traps with the first
condition of R212 in slot order, of which the details `0x03` to `0x09` are stated; a slot whose guard is true and to which a row of R217 applies holds
the bundle for a cycle; and any other bundle starts at the program counter with its guards on the predicates held then, its plain moves made, and its
pops and triggers left in slot order. A move of a poisoned row to a scalar path raises `POISON` with SRC 0 in place of the slots from it on. Here no
row is met with an error of its code or in the cycle in which the CIM engine writes it.
The model's choices that it rests on: log 10, log 13, log 87. -/
def Obligations.BundleIssueStartsTheBundle : Prop :=
  (∀ (s : State) (r : FetchRes) (s' : State),
    let c := s.cur.core
    s.canIssue c = true → s.boundary c = none → (s.core c).mode.dbgHalt = false → (s.core c).ms.releasing = none →
    (s.core c).mode.stepPc = none → (s.core c).handleOnWay = false → s.fetch c = (r, s') →
    let k := s'.core c
    let differ := s.cur.flag = true ∧ s.lockstep (groveOf c) = true ∧ c.val % 2 = 0
    let out := exec .bundleIssue s
    let cycle := s'.modCore c Core.tick
    (differ → out = .next (s'.lockstepMismatch c k.pc)) ∧
    (∀ t, ¬ differ → r = .trap t → out = .next (cycle.takeTrap c k.seq t)) ∧
    ∀ b, ¬ differ → r = .ok b →
      (∀ d sl, bundleCheck b = .error (d, sl) → out = .next (cycle.takeTrap c k.seq (k.trapAt sl 0x01 d))) ∧
      ∀ h all, bundleCheck b = .ok (h, all) →
        let live := all.filter fun t => guardOf h k.regs t.sl.gs
        ((∃ y ∈ live, k.slotHolds h live y) → out = .next cycle) ∧
        ((∀ y ∈ live, ¬ k.slotHolds h live y) → k.loc.ceRows = [] → k.loc.badRows = [] → k.eng.cim.fresh = [] →
          let starts := fun (made : List SlotAt) (fault : Option Trap) => ∃ v, Started s' v c h live made fault ∧
            out = .next (if v.todo = [] then v.finishBundle else v)
          let fails := fun (y : SlotAt) => y.consumes k h live ∨ ∃ u, y.overpops k live u
          ((∀ y ∈ live, ¬ fails y) → starts live none) ∧
          ∀ y ∈ live, (∀ z ∈ live, z.i < y.i → ¬ fails z) →
            let low := live.filter fun z => decide (z.i < y.i)
            (∀ u, y.overpops k live u → starts low (some (k.trapAt y.i 0x0D (BitVec.ofNat 8 u.val)))) ∧
            ((∀ u, ¬ y.overpops k live u) → y.consumes k h live → starts low (some (k.trapAt y.i 0x03 0))))) ∧
  (∀ (b : BitVec 256) (h : Header) (i : Nat) (low : List SlotAt), decodeHeader (bundleHeader b) = .ok h → i < 8 →
    slotsCheck h [] 0 ((List.range i).map (bundleSlot b)) = .ok low →
    let w := bundleSlot b i
    let d := SlotWord.dst w
    let stops := fun (x : Byte) => bundleCheck b = .error (x, i)
    let named := fun (p : Nat → Prop) => ∃ j, j < i ∧ p (SlotWord.dst (bundleSlot b j))
    let trigger := fun (x : Nat) => ∃ t, dstOf x = some (.trigger t)
    (srcOf (SlotWord.src w) = none → stops 0x03) ∧
    ∀ src, srcOf (SlotWord.src w) = some src →
      (dstOf d = none → stops 0x04) ∧
      (dstOf d ≠ none →
        (busReaches i d = false → stops 0x05) ∧
        (busReaches i d = true → d ≠ 0x7FF → named (· = d) → stops 0x06) ∧
        (busReaches i d = true → ¬ named (· = d) → trigger d →
          (named (fun x => trigger x ∧ trigUnit x = trigUnit d) → stops 0x07) ∧
          (¬ named (fun x => trigger x ∧ trigUnit x = trigUnit d) → (src.usesLimm = true ∧ h.l = false → stops 0x08) ∧
            (¬ (src.usesLimm = true ∧ h.l = false) → needsC d = true → h.c = false → stops 0x09))) ∧
        (busReaches i d = true → (d = 0x7FF ∨ ¬ named (· = d)) → ¬ trigger d → src.usesLimm = true → h.l = false → stops 0x08))) ∧
  ∀ (s : State) (t : Trap), s.ctx.pending = some t →
    s.finishBundle = { s with cur := { s.cur with slot := t.slot.toNat } }.raise t.code t.detail

/-! ### Guards and moves -/

/-- R208: a binding names predicate 0 to 95 in its low bits and inverts with bit 7; one that names 96 to 127 makes the bundle illegal with
detail `0x02` and TSLOT 8, whether or not a slot selects it. A trigger or pop whose guard is false does nothing (R202), whatever its operation. -/
def Obligations.GuardsFollowTheirBitsAndStopWhatTheyGuard : Prop :=
  ((∀ (r : Regs) (b : BitVec 8) (n : Fin 96), (b.extractLsb' 0 7).toNat = n.val →
    guardVal r b = if b.getLsbD 7 then !r.getP n else r.getP n) ∧
  ∀ b : BitVec 256, (bundleHeader b).extractLsb' 60 2 = 0 → (bundleHeader b).extractLsb' 32 4 = 0 →
    (∃ o ∈ [36, 44, 52], 96 ≤ ((bundleHeader b).extractLsb' o 7).toNat) → bundleCheck b = .error (0x02, 8)) ∧
  ((∀ (op d : Nat) (m : Mv) (i : Instr) (s : State), trigOf op d m = some i → s.live m = false → exec i s = .next s) ∧
  ∀ (u : Fin 4) (gs : BitVec 2) (dst : Dst) (s : State), guardOf s.ctx.hdr s.me.regs gs = false →
    exec (.yqPop gs dst) s = .next s ∧ exec (.nmPop u gs dst) s = .next s)

/-- The width rules of R203 and the discarded write of `x0`, with R58 and R60 for a `v` register, whose write the core itself reads at once and
the accumulator store takes at the release (R104). R201, R400: a poisoned row that reaches a 64-bit port's trigger raises POISON with SRC 0. -/
def Obligations.MovesFollowTheWidthRules : Prop :=
  (∀ r : RowT, (Val.r r).row = r ∧ (Val.r r).word = r.data.extractLsb' 0 64) ∧
  (∀ w : W64, (Val.w w).word = w ∧ (Val.w w).row.tag = 0 ∧ (Val.w w).row.data.extractLsb' 0 64 = w ∧
    (Val.w w).row.data.extractLsb' 64 4032 = 0) ∧
  (∀ (k : Core) (x : Ctx) (n : Nat),
    (∀ i, readSrc k x n (.p i) = .w (if k.regs.getP i then 1 else 0)) ∧
    (∀ j, readSrc k x n (.tok j) = .w ((k.eng.tokens.get ⟨j.toNat, j.isLt⟩).setWidth 64)) ∧
    readSrc k x n (.x 0) = .w 0) ∧
  (∀ (k : Core) (v : Val),
    k.write (.x 0) v = k ∧
    (∀ i, i ≠ 0 → (k.write (.x i) v).regs.getX i = v.word ∧
      ∀ j, j ≠ i → (k.write (.x i) v).regs.getX j = k.regs.getX j) ∧
    (∀ i, (k.write (.p i) v).regs.getP i = (v.word != 0) ∧
      ∀ j, j ≠ i → (k.write (.p i) v).regs.getP j = k.regs.getP j) ∧
    (∀ i, let r := (k.ctrl.awb.toNat + i.toNat) % 8192
      let l := k.write (.v i) v
      l.vAt r = v.row ∧ r ∈ l.loc.written ∧ (∀ q, q ≠ r → l.vAt q = k.vAt q ∧ (q ∈ l.loc.written ↔ q ∈ k.loc.written)) ∧
      l.loc.acc = k.loc.acc ∧ (k.wf = true → ∀ q, l.commitV.rowAt q = l.vAt q) ∧
      l.regs = k.regs ∧ l.loc.scratch = k.loc.scratch)) ∧
  ∀ (op d : Nat) (m : Mv) (i : Instr) (s : State), trigOf op d m = some i → rowWide d = false → s.live m = true → (s.srcVal m).poisoned = true →
    exec i s = .next (s.raise 0x03 0)

/-! ### Scalar operations -/

/-- The operations of `sa0` and `sa1` (R247 to R251): a trigger that fires puts R of its table row under way to the unit's result port, with
the bound of its class (R214), and changes nothing else. -/
def Obligations.ScalarOperationsGiveTheirResults : Prop :=
  ∀ o ∈ scalarOps, ∀ (u : Fin 2) (m : Mv) (s : State), s.fires m →
    let l := fun n => s.me.latchW (0x200 + 64 * u.val + n)
    ∃ t, exec (o.instr u m) s = .next t ∧
      Puts s t (0x100 + u.val) o.bound o.bound (.w (o.r (l 0) (s.operand m) (l 1) (l 2))) 0

/-- R252: predicate logic, with the range of `pany` and `pall` and its illegal case. -/
def Obligations.PredicateLogicGivesItsResults : Prop :=
  ∀ (m : Mv) (s : State), s.fires m →
    let a := s.me.latchW 0x2C0
    let b := s.operand m
    let puts := fun (i : Instr) (r : Bool) => ∃ t, exec i s = .next t ∧ Puts s t 0x103 1 1 (.w (if r then 1 else 0)) 0
    let f := (b.extractLsb' 0 7).toNat
    let n := (b.extractLsb' 8 7).toNat + 1
    puts (.pand m) (a != 0 && b != 0) ∧ puts (.por m) (a != 0 || b != 0) ∧ puts (.pxor m) ((a != 0) != (b != 0)) ∧ puts (.pnot m) (b == 0) ∧
    (f + n ≤ 96 →
      puts (.pany m) (decide (∃ i : Fin 96, f ≤ i.val ∧ i.val < f + n ∧ s.me.regs.getP i = true)) ∧
      puts (.pall m) (decide (∀ i : Fin 96, f ≤ i.val → i.val < f + n → s.me.regs.getP i = true))) ∧
    (96 < f + n → exec (.pany m) s = .next (s.illegal 0x0A) ∧ exec (.pall m) s = .next (s.illegal 0x0A))

/-! ### The end of a bundle, traps and the return from them -/

/-- R202, R206, R255, R119, R220, R300: at the end of a bundle the registers it names take their new values, the next one issues at the transfer's
target or 32 bytes on, one cycle passes and those of its stall, in which the results due land (R213); memory, engines, withheld effects and the
other cores are as the triggers left them. `acq` drops the clean bytes of the L1, and no load triggered before it fills a line. A bundle with C leaves
its effects, the address to resume at and whether it is an `eret` to its release; a stepped bundle too, with what its stop reports (R409). -/
def Obligations.BundleEndWritesItsRegisters : Prop :=
  ∀ s : State, s.ctx.pending = none →
    let k := s.me
    let x := s.ctx
    let t := s.finishBundle
    let l := t.core x.core
    let last := fun d => ((x.writes.filter fun w => decide (w.1 = d)).getLast?).map Prod.snd
    let releases := x.hdr.c || k.mode.dbgStep
    let next := x.next.getD (x.addr + 32)
    let m := if x.acq then { k.ms with
        l1 := (k.ms.l1.filter fun y => decide (y.dirty ≠ 0)).map fun y => { y with valid := y.dirty }
        pend := k.ms.pend.map fun p => if p.got.isNone then { p with noFill := true } else p }
      else k.ms
    releases = true ∨ x.eret = false →
    l.pc = next ∧
    (∀ i, i ≠ 0 → l.regs.getX i = match last (.x i) with | some v => v.word | none => k.regs.getX i) ∧
    (∀ i, l.regs.getP i = match last (.p i) with | some v => v.word != 0 | none => k.regs.getP i) ∧
    (l.regs.lcnt, l.regs.lbeg) = x.loop.getD (k.regs.lcnt, k.regs.lbeg) ∧
    l.regs.srseed = x.srseed.getD k.regs.srseed ∧
    (∀ i, l.vAt (k.vRow i) = match last (.v i) with | some v => v.row | none => k.vAt (k.vRow i)) ∧
    l.ctrl = { k.ctrl with cyc := k.ctrl.cyc + 1 + BitVec.ofNat 64 x.stall } ∧
    l.loc.acc = k.loc.acc ∧ l.loc.scratch = k.loc.scratch ∧ l.eng = { k.eng with cim.fresh := [] } ∧ l.traps = k.traps ∧
    l.ms = (if releases then { m with releasing := some ⟨x.effs, next, x.eret, x.addr, false⟩ } else m) ∧
    l.own = k.own ∧ l.tr.latches = k.tr.latches ∧ l.tr.tiles = k.tr.tiles ∧ l.snap = k.snap ∧
    (∀ p, (∀ f ∈ k.tr.inflight, f.port = p → 1 + x.stall < f.wait) → mrd (.w 0) l.tr.ports p = mrd (.w 0) k.tr.ports p) ∧
    (k.mode.dbgStep = false → l.mode = k.mode) ∧
    (k.mode.dbgStep = true → ∃ d a, l.mode = { k.mode with stepPc := some x.addr, stepDetail := d, stepAddr := a } ∧
      (∀ u us, x.produced = u :: us → d = BitVec.ofNat 8 (128 + u)) ∧
      (x.produced = [] → d = 128 ∧ (∃ e ∈ x.effs, ∃ n r g, e.what = .signal (.nmCmd n r g)) ∨
        d = 0 ∧ ¬ ∃ e ∈ x.effs, ∃ n r g, e.what = .signal (.nmCmd n r g)) ∧
      (a = 1 ∧ (∃ e ∈ x.effs, ∃ b, e.what = .signal (.launch b)) ∨ a = 0 ∧ ¬ ∃ e ∈ x.effs, ∃ b, e.what = .signal (.launch b))) ∧
    t.todo = [] ∧ t.saved = none ∧ t.ctx = {} ∧ SameDevice s t ∧ SameOthers x.core s t

/-- R10, R393, R394, R398: a trap taken outside the handler whose cause a handler takes rolls the core back to its snapshot, writes the five
trap registers, and enters the handler at `TVEC`; what R393 names as unchanged is so, with memory and every other core. -/
def Obligations.TrapEntryRollsBackAndEntersTheHandler : Prop :=
  ∀ (s : State) (c : CoreId) (seq : Nat) (x : Trap),
    (s.core c).mode.handler = false → x.code ∉ [(0x02 : Byte), 0x30, 0x21, 0x22] →
    let k := s.core c
    let t := s.takeTrap c seq x
    let l := t.core c
    (l.regs = k.snap.regs ∧ l.pc = k.traps.tvec ∧ l.mode.handler = true ∧ l.ending = k.ending) ∧
    (l.traps.tvec = k.traps.tvec ∧ l.traps.taddr = x.addr ∧ l.traps.tbpc = x.pc &&& 0xFFFFFFFFFFFFE0 ∧ l.traps.tmpc = x.mpc ∧
      l.traps.tslot = x.slot.setWidth 64 ∧ l.traps.tcause.extractLsb' 0 8 = x.code ∧ l.traps.tcause.extractLsb' 8 8 = x.detail ∧
      l.traps.tcause.getLsbD 16 = x.isDef ∧ l.traps.tcause.getLsbD 17 = x.eng ∧ l.traps.tcause.extractLsb' 18 46 = 0) ∧
    (l.ms.wh = [] ∧ l.ms.walks = [] ∧ l.eng.yqSpec = 0 ∧ (∀ u, (l.eng.nm.get u).spec = 0) ∧ l.loc.written = [] ∧ l.loc.vw = []) ∧
    (l.ctrl = k.ctrl ∧ l.eng.tokens = k.eng.tokens ∧ l.eng.flags = k.eng.flags ∧ l.eng.aq = k.eng.aq ∧ l.eng.yq = k.eng.yq ∧
      l.eng.cim = k.eng.cim ∧ l.own = k.own ∧ l.ms.l1 = k.ms.l1 ∧ l.ms.comm = k.ms.comm ∧ l.loc.scratch = k.loc.scratch ∧ l.task = k.task) ∧
    SameDevice s t ∧ SameOthers c s t

/-- R13, R60: a snapshot holds the registers, the resume address and the 64 window rows, each row once, and clears the written flags. R60,
R393: a rollback gives every row whose written flag is set the value of the snapshot, tag included, leaves every other row, and drops the
writes of the interval. The model's choices that it rests on: log 65, log 66. -/
def Obligations.SnapshotsHoldTheWindowAndRollbackRestoresIt : Prop :=
  (∀ (k : Core) (resume : W64),
    let l := k.takeSnapshot resume
    l.snap.regs = k.regs ∧ l.snap.resume = resume ∧ (l.snap.rows.map Prod.fst).Nodup ∧ l.loc.written = [] ∧
    (∀ i : BitVec 6, (k.vRow i, k.rowAt (k.vRow i)) ∈ l.snap.rows) ∧ l.snap.rows.length = 64 ∧
    l.regs = k.regs ∧ l.loc.acc = k.loc.acc ∧ l.loc.scratch = k.loc.scratch ∧ l.eng = k.eng ∧ l.ms = k.ms) ∧
  (∀ (k : Core) (ctr : Nat), (k.snap.rows.map Prod.fst).Nodup →
    let l := k.rollback ctr
    (∀ r v, (r, v) ∈ k.snap.rows → r ∈ k.loc.written → mrd RowT.zero l.loc.acc r = v) ∧
    (∀ r, r ∉ k.loc.written ∨ r ∉ k.snap.rows.map Prod.fst → mrd RowT.zero l.loc.acc r = mrd RowT.zero k.loc.acc r) ∧
    l.loc.written = [] ∧ l.loc.vw = [] ∧ l.regs = k.snap.regs ∧ l.pc = k.snap.resume)

/-- R395, R398: a trap in handler mode is nested, kills the task and leaves the nested trap in the registers; one raised by the handler's first
bundle, or by the bundle of its first access to its stack area, is a double fault with its code, record and offline core; a cause taken by
kill ends the task without a handler; outside the handler one delivered to the debug interface stops the core.
The model's choices that it rests on: log 15. -/
def Obligations.NestedDoubleKilledAndDebugTraps : Prop :=
  ∀ (s : State) (c : CoreId) (seq : Nat) (x : Trap),
    let k := s.core c
    let t := s.takeTrap c seq x
    let l := t.core c
    let dbg := x.code ∈ [(0x21 : Byte), 0x22]
    let double := k.mode.handler = true ∧ (seq = k.mode.entrySeq ∨ k.mode.stackSeq = some seq)
    (double →
      l.ending = some .killed ∧ l.mode.offline = true ∧ l.traps.tcause.extractLsb' 0 8 = 0x31 ∧ l.traps.tcause.extractLsb' 8 8 = x.code ∧
      l.traps.taddr = x.addr ∧ l.traps.tbpc = x.pc &&& 0xFFFFFFFFFFFFE0 ∧
      ∃ r, t.hk.recs = queueRec s.hk.recs r ∧ r.event = 0x0B ∧ r.core = some c.val ∧ r.cause = 0x31 ∧ r.detail = x.code) ∧
    (¬ double → (k.mode.handler = true ∨ x.code ∈ [(0x02 : Byte), 0x30]) →
      l.ending = some .killed ∧ l.mode = k.mode ∧ l.traps.tcause.extractLsb' 0 8 = x.code ∧ l.traps.tcause.extractLsb' 8 8 = x.detail ∧
      l.traps.taddr = x.addr ∧ t.hk = s.hk) ∧
    (dbg → k.mode.handler = false → l.mode = { k.mode with stopped := true } ∧ l.ending = k.ending ∧ l.traps.tcause.extractLsb' 0 8 = x.code ∧
      l.pc = k.snap.resume ∧ t.hk = s.hk) ∧
    t.mem = s.mem ∧ t.sched = s.sched ∧ SameOthers c s t

/-- R10, R212: a trap raised by a trigger cancels its bundle: what is trapped is the core as it stood before the bundle, a cycle later, with
DEF 0, the bundle's address and the slot; nothing of the bundle is left. -/
def Obligations.RaisedTrapsCancelTheBundle : Prop :=
  ∀ (s : State) (code detail : Byte) (addr : W64), ∃ u : State,
    s.raise code detail addr = u.takeTrap s.ctx.core s.me.seq
      { code := code, detail := detail, addr := addr, pc := s.ctx.addr, slot := BitVec.ofNat 4 s.cur.slot } ∧
    u.todo = [] ∧ u.saved = none ∧ u.ctx = {} ∧ SameDevice s u ∧ SameOthers s.ctx.core s u ∧
    (let k := s.saved.getD s.me
     let l := u.core s.ctx.core
     l.regs = k.regs ∧ l.pc = k.pc ∧ l.ctrl = { k.ctrl with cyc := k.ctrl.cyc + 1 } ∧
     l.loc = { k.loc with ceWords := s.me.loc.ceWords, fresh := [] } ∧ l.snap = k.snap ∧ l.ms = k.ms ∧ l.own = k.own ∧
     l.eng = { k.eng with cim.fresh := [] } ∧ l.traps = k.traps ∧ l.tr.latches = k.tr.latches ∧ l.tr.tiles = k.tr.tiles ∧
     (∀ p, (∀ f ∈ k.tr.inflight, f.port = p → 1 < f.wait) → mrd (.w 0) l.tr.ports p = mrd (.w 0) k.tr.ports p) ∧
     l.mode = { k.mode with stackSeq := s.me.mode.stackSeq })

/-- R263, R399: `eret` is illegal outside the handler; in it, at the end of a bundle without C, it discards what the interval withheld,
restores the snapshot, leaves handler mode and goes on at the resume address, with the trap registers kept. In a bundle with C it acts so at the
release, after the handler's interval has committed (R399, R13). -/
def Obligations.EretReturnsToTheSnapshot : Prop :=
  (∀ (m : Mv) (s : State), s.fires m →
    (s.me.mode.handler = false → exec (.eret m) s = .next (s.illegal 0x0A)) ∧
    (s.me.mode.handler = true → ∃ t, exec (.eret m) s = .next t ∧ CtxOnly s t ∧ t.ctx = { s.ctx with eret := true })) ∧
  (∀ (s : State) (r : Release),
    let c := s.cur.core
    let k := s.core c
    k.ms.releasing = some r → r.committed = false → r.eret = true → k.releaseHeld r = false → k.mode.handler = true → k.ending = none →
    ¬ (s.cur.flag = true ∧ s.lockstep (groveOf c) = true ∧ c.val % 2 = 0) → (∀ e ∈ r.effs, ∀ x, e.what ≠ .endTask x) →
    (∀ x, k.task = some x → x.tookBudget = false) →
    ∃ t, exec .checkpointRelease s = .next t ∧
      let l := t.core c
      l.regs = k.snap.regs ∧ l.pc = k.snap.resume ∧ l.mode.handler = false ∧ l.ms.wh = [] ∧ l.loc.written = [] ∧ l.snap = k.snap ∧ l.traps = k.traps ∧
      l.task = k.task ∧
      ((∀ w ∈ k.ms.wh, w.inScratch) → r.effs = [] → SameDevice s t ∧ SameOthers c s t ∧ l.ctrl = k.ctrl ∧ l.ms.releasing = none ∧
        ∀ a, a < 0x400000 → l.scratchByte a = (storedAt k.ms.wh a).getD (k.scratchByte a))) ∧
  ∀ s : State, s.ctx.pending = none → s.ctx.hdr.c = false → s.me.mode.dbgStep = false → s.ctx.eret = true →
    (∀ x, s.me.task = some x → x.tookBudget = false) → s.ctx.acq = false →
    let k := s.me
    let t := s.finishBundle
    let l := t.core s.ctx.core
    l.regs = k.snap.regs ∧ l.pc = k.snap.resume ∧ l.mode.handler = false ∧ l.ms.wh = [] ∧ l.traps = k.traps ∧ l.loc.written = [] ∧
    l.ctrl.awb = k.ctrl.awb ∧ l.eng.tokens = k.eng.tokens ∧ l.loc.scratch = k.loc.scratch ∧ SameDevice s t ∧ SameOthers s.ctx.core s t

/-! ### Control -/

/-- R254, R255: transfers and the hardware loop, and where their targets are illegal. R256 to R258: the end of the task, tokens, the cycle count
and the software trap. -/
def Obligations.ControlOperationsLeaveTheirEffects : Prop :=
  (∀ (m : Mv) (s : State), s.fires m →
    let b := s.operand m
    (b.extractLsb' 0 5 = 0 →
      (∃ t, exec (.jump m) s = .next t ∧ CtxOnly s t ∧ t.ctx = { s.ctx with next := some b }) ∧
      ∃ t u, exec (.jlink m) s = .next t ∧ Puts s u 0x102 1 1 (.w (s.ctx.addr + 32)) 0 ∧
        t = { u with ctx := { s.ctx with next := some b } }) ∧
    (b.extractLsb' 0 5 ≠ 0 → exec (.jump m) s = .next (s.illegal 0x0A) ∧ exec (.jlink m) s = .next (s.illegal 0x0A)) ∧
    (b.extractLsb' 0 5 = 0 → b.extractLsb' 56 8 = 0 →
      ∃ t, exec (.loopset m) s = .next t ∧ CtxOnly s t ∧ t.ctx = { s.ctx with loop := some (s.me.latchW 0x280, b) }) ∧
    (b.extractLsb' 0 5 ≠ 0 ∨ b.extractLsb' 56 8 ≠ 0 → exec (.loopset m) s = .next (s.illegal 0x0A)) ∧
    ∃ t, exec (.loopend m) s = .next t ∧ CtxOnly s t ∧
      t.ctx = if 1 < s.me.regs.lcnt.toNat
        then { s.ctx with loop := some (s.me.regs.lcnt - 1, s.me.regs.lbeg), next := some s.me.regs.lbeg }
        else { s.ctx with loop := some (0, s.me.regs.lbeg) }) ∧
  (∀ (m : Mv) (s : State), s.fires m →
    let b := s.operand m
    (∃ t, exec (.endTask m) s = .next t ∧ Leaves s t .va 0 (.endTask (b.extractLsb' 0 32)) [] none) ∧
    (b.toNat < 32 → s.me.token b.toNat ≠ 3 → exec (.kwait m) s = .next s) ∧
    (b.toNat < 32 → s.me.token b.toNat = 3 → exec (.kwait m) s = .next (s.raise 0x05 (b.extractLsb' 0 8))) ∧
    (32 ≤ b.toNat → exec (.kwait m) s = .next (s.illegal 0x0A)) ∧
    (∃ t r, exec (.kpoll m) s = .next t ∧ Puts s t 0x102 1 1 (.w r) 0 ∧ ∀ k, k < 32 → r.extractLsb' (2 * k) 2 = s.me.token k) ∧
    (b.extractLsb' 32 32 = 0 → (∀ k, k < 32 → b.getLsbD k = true → s.me.token k ≠ 1) →
      ∃ t, exec (.kfree m) s = .next t ∧ Leaves s t .va 0 (.kfree (b.extractLsb' 0 32)) [] none) ∧
    (b.extractLsb' 32 32 ≠ 0 ∨ (∃ k, k < 32 ∧ b.getLsbD k = true ∧ s.me.token k = 1) → exec (.kfree m) s = .next (s.illegal 0x0A)) ∧
    (∃ t, exec (.rdcyc m) s = .next t ∧ Puts s t 0x102 1 1 (.w s.me.ctrl.cyc) 0) ∧
    exec (.swtrap m) s = .next (s.raise 0x20 (b.extractLsb' 0 8) (s.me.latchW 0x281)))

/-! ### Special registers and the system operations -/

/-- R259, R260: which numbers a core reads and what they hold; an unassigned one, or a number of more than 12 bits, is illegal. R259, R58: which
registers a core writes, when, and with which bits; a register other than `SRSEED` needs C.
The model's choices that it rests on: log 12, log 93. -/
def Obligations.ControlRegistersReadAndWrite : Prop :=
  (∀ (m : Mv) (s : State), s.fires m →
    let b := s.operand m
    let k := s.me
    let reads := fun (n : W64) (v : W64) => b = n → ∃ t, exec (.csrr m) s = .next t ∧ Puts s t 0x104 1 1 (.w v) 0
    reads 0x000 (k.ctrl.awb.setWidth 64) ∧ reads 0x001 k.regs.srseed ∧ reads 0x002 k.regs.lcnt ∧ reads 0x003 k.regs.lbeg ∧
    reads 0x008 (k.ctrl.tx.setWidth 64) ∧ reads 0x009 (k.ctrl.ty.setWidth 64) ∧ reads 0x00A (k.ctrl.tz.setWidth 64) ∧
    reads 0x00B (k.ctrl.taskid.setWidth 64) ∧
    reads 0x00C ((k.ctrl.member ++ (0 : BitVec 2) ++ k.ctrl.sizem1).setWidth 64) ∧
    reads 0x00D (if k.ctrl.latprof then 1 else 0) ∧ reads 0x00E k.ctrl.cyc ∧
    reads 0x010 k.traps.tvec ∧ reads 0x011 k.traps.tcause ∧ reads 0x012 k.traps.taddr ∧ reads 0x013 k.traps.tbpc ∧
    reads 0x014 k.traps.tmpc ∧ reads 0x015 k.traps.tslot ∧
    reads 0x020 s.hk.pinlimReg ∧ reads 0x021 s.hk.ageReg ∧ reads 0x022 s.hk.pcapReg ∧ reads 0x023 s.hk.pstat ∧
    reads 0x024 s.hk.envelopeReg ∧ reads 0x025 s.hk.protmode ∧ reads 0x026 s.hk.devstat ∧
    (b.toNat ∉ [0x000, 0x001, 0x002, 0x003, 0x008, 0x009, 0x00A, 0x00B, 0x00C, 0x00D, 0x00E, 0x010, 0x011, 0x012, 0x013, 0x014, 0x015,
        0x020, 0x021, 0x022, 0x023, 0x024, 0x025, 0x026] → exec (.csrr m) s = .next (s.illegal 0x0A))) ∧
  ((∀ (m : Mv) (s : State), s.fires m →
    let a := s.me.latchW 0x600
    let b := s.operand m
    (3 < a.toNat → exec (.csrw m) s = .next (s.illegal 0x0A)) ∧
    (a = 1 → ∃ t, exec (.csrw m) s = .next t ∧ CtxOnly s t ∧ t.ctx = { s.ctx with srseed := some b }) ∧
    (a ∈ [0, 2, 3] → s.ctx.hdr.c = false → exec (.csrw m) s = .next (s.illegal 0x09)) ∧
    (a ∈ [0, 2, 3] → s.ctx.hdr.c = true → ∃ t, exec (.csrw m) s = .next t ∧ Leaves s t .va 0 (.csrw a.toNat b) [] none)) ∧
  ∀ (k : Core) (v : W64),
    k.csrWrite 0 v = { k with ctrl.awb := v.extractLsb' 0 13 } ∧
    k.csrWrite 2 v = { k with regs.lcnt := v } ∧
    k.csrWrite 3 v = { k with regs.lbeg := (0 : BitVec 8) ++ v.extractLsb' 5 51 ++ (0 : BitVec 5) } ∧
    ∀ i : BitVec 6, (k.csrWrite 0 v).vRow i = ((v.extractLsb' 0 13).toNat + i.toNat) % 8192)

/-- R262, R265 to R268, R232: `launch`, `idle`, `tlbinv`, `l1inv` and `mpload`, with their illegal operands. R264: `bkpt` traps with its detail to
the debug interface where debug is enabled for the core, nested in the handler as R398 has it, and has no effect otherwise.
The model's choices that it rests on: log 15. -/
def Obligations.SystemOperationsAndBreakpoints : Prop :=
  (∀ (m : Mv) (s : State), s.fires m →
    let a := s.me.latchW 0x600
    let b := s.operand m
    let c := s.me.latchW 0x601
    let w := s.me.latchW 0x604
    let k := s.me.latchW 0x605
    let first := (c.extractLsb' 0 12).toNat
    let n := (c.extractLsb' 16 12).toNat + 1
    (b.extractLsb' 58 5 = 0 → ∃ t, exec (.launch m) s = .next t ∧
      Leaves s t .va 0 (.signal (.launch b)) []
        (some { id := s.me.ms.ids, org := s.origin, port := 0x105, place := .va, n := 8 })) ∧
    (b.extractLsb' 58 5 ≠ 0 → exec (.launch m) s = .next (s.illegal 0x0A)) ∧
    exec (.idle m) s = .next s ∧
    (c.getLsbD 11 = true ∨ a.extractLsb' 56 8 = 0 → ∃ t, exec (.tlbinv m) s = .next t ∧ Leaves s t .va 0 (.tlbinv a b c) [] none) ∧
    (c.getLsbD 11 = false → a.extractLsb' 56 8 ≠ 0 → exec (.tlbinv m) s = .next (s.illegal 0x0A)) ∧
    (∃ t, exec (.l1inv m) s = .next t ∧ Leaves s t .va 0 .l1inv [] none) ∧
    (a.extractLsb' 0 3 = 0 → a.extractLsb' 56 8 = 0 → first + n ≤ 4096 → LatchesLegal s w k →
      (∀ i, i < n → s.me.eng.cim.pinned (first + i) = false) →
      ∃ t, exec (.mpload m) s = .next t ∧ Leaves s t .va 0 (.signal (.mpload a c w k)) [k.toNat] none) ∧
    (a.extractLsb' 0 3 ≠ 0 ∨ a.extractLsb' 56 8 ≠ 0 ∨ 4096 < first + n ∨ ¬ LatchesLegal s w k →
      exec (.mpload m) s = .next (s.illegal 0x0A)) ∧
    (a.extractLsb' 0 3 = 0 → a.extractLsb' 56 8 = 0 → first + n ≤ 4096 → LatchesLegal s w k →
      ∀ i, i < n → s.me.eng.cim.pinned (first + i) = true → (∀ j, j < i → s.me.eng.cim.pinned (first + j) = false) →
      exec (.mpload m) s = .next (s.raise 0x06 0 (BitVec.ofNat 64 (first + i))))) ∧
  (∀ (m : Mv) (s : State), s.fires m →
    (s.me.mode.dbgEn = true →
      exec (.bkpt m) s = .next (s.raise 0x21 ((s.operand m).extractLsb' 0 8)) ∧
      let l := (s.raise 0x21 ((s.operand m).extractLsb' 0 8)).core s.ctx.core
      let k := s.saved.getD s.me
      (k.mode.handler = false → l.mode.stopped = true ∧ l.mode.handler = false ∧ l.traps.tcause.extractLsb' 0 8 = 0x21 ∧
        l.traps.tcause.extractLsb' 8 8 = (s.operand m).extractLsb' 0 8 ∧ l.traps.taddr = 0) ∧
      (k.mode.handler = true → l.ending = some .killed)) ∧
    (s.me.mode.dbgEn = false → exec (.bkpt m) s = .next s))

/-! ### Vector operations -/

/-- R199, R214, R233 to R235, R271 to R273: a vector trigger whose types, rounding mode and parameters its operation accepts puts one row
under way to the unit's port with the bound of its class; lanes that `.m` disables are left to the port, and the tag is the `Inherit` of the
rows it reads with the events it sets. Any other is illegal with detail `0x0A`; a reserved bit of `.ty` that is not zero refuses `vbperm` and
`vbmat8` as well, which a reserved TA code does not.
The model's choices that it rests on: log 24, log 40. -/
def Obligations.VectorOperationsCompleteOrAreIllegal : Prop :=
  (∀ o ∈ vecOps, ∀ (u : Fin 3) (m : Mv) (s : State), s.live m = true →
    let b := s.operandRow m
    (∀ x, s.vecArgs u = some x → o.accepts x = true →
      ∃ t v keep ev, exec (o.instr u m) s = .next t ∧ Puts s t (0x110 + u.val) (o.bound x) (o.bound x) (.r v) keep ∧
        v.tag = tagOf ([b.tag] ++ (if o.masked then [(s.vM u).tag] else []) ++ (if o.readsA x then [(s.vA u).tag] else []) ++
          (if o.readsC x then [(s.vC u).tag] else [])) ev ∧
        (o.events = false → ev = 0) ∧ (o.masked = false → keep = 0) ∧
        (o.masked = true → KeepsDisabled (o.width x) (s.vM u).data keep)) ∧
    ((s.vecArgs u = none ∨ ∃ x, s.vecArgs u = some x ∧ o.accepts x = false) → exec (o.instr u m) s = .next (s.illegal 0x0A))) ∧
  ∀ (u : Fin 3) (m : Mv) (s : State), s.live m = true → tyLegal (s.vTy u) = false →
    exec (.vbperm u m) s = .next (s.illegal 0x0A) ∧ exec (.vbmat8 u m) s = .next (s.illegal 0x0A)

/-- R274: what the element-wise operations give in every enabled lane of the integer types; the bit operations and `vsel` in every type.
The model's choices that it rests on: log 23. -/
def Obligations.VectorLanesOfIntegerTypes : Prop :=
  ∀ o ∈ laneOps, ∀ (u : Fin 3) (m : Mv) (s : State) (x : VecArgs), s.live m = true → s.vecArgs u = some x →
    (x.ta.isI = true ∨ o.any = true) →
    let w := x.ta.width
    ∃ t v keep n, exec (o.instr u m) s = .next t ∧ Puts s t (0x110 + u.val) n n (.r v) keep ∧ KeepsDisabled w (s.vM u).data keep ∧
      ∀ j, j < 4096 / w → (s.vM u).data.getLsbD j = false →
        laneBv w v.data j = o.f w x.ta.signed (laneBv w (s.vA u).data j) (laneBv w (s.operandRow m).data j)
          (laneBv w (s.vC u).data j) ((s.vTy u).extractLsb' 16 8)

/-- R283, R284, R287, R288: the permutations by lanes, the compare-exchange stage of `vsort2`, and `vext` and `vins`, which ignore `.m`; a lane of
a six-bit type counts by its low six bits, and zeros are written above them (R270). -/
def Obligations.VectorPermutationsByLanes : Prop :=
  ∀ (u : Fin 3) (m : Mv) (s : State) (x : VecArgs), s.live m = true → s.vecArgs u = some x →
    let w := x.ta.width
    let n := x.ta.lanes
    let code := fun (v : BitVec w) => if x.ta.six then v &&& 63 else v
    let a := fun j => code (laneBv w (s.vA u).data j)
    let b := fun j => code (laneBv w (s.operandRow m).data j)
    let c := fun j => code (laneBv w (s.vC u).data j)
    let gives := fun (i : Instr) (bd : Nat) (f : Nat → BitVec w) => ∃ t v keep, exec i s = .next t ∧
      Puts s t (0x110 + u.val) bd bd (.r v) keep ∧ KeepsDisabled w (s.vM u).data keep ∧
      ∀ j, j < n → (s.vM u).data.getLsbD j = false → laneBv w v.data j = f j
    gives (.vperm u m) 2 (permLane x a b c) ∧
    gives (.vshuf u m) 2 (shufLane x a b) ∧
    gives (.vrot u m) 2 (fun j => b ((j + namedLane x x.pa) % n)) ∧
    gives (.vbcast u m) 2 (fun _ => b (namedLane x x.pa)) ∧
    (∃ t v, exec (.vext u m) s = .next t ∧ Puts s t (0x110 + u.val) 2 2 (.r v) 0 ∧
      v.data = ((if x.ta.signed then (b (namedLane x x.pa)).signExtend 64 else (b (namedLane x x.pa)).setWidth 64) : W64).setWidth 4096) ∧
    (∃ t v, exec (.vins u m) s = .next t ∧ Puts s t (0x110 + u.val) 2 2 (.r v) 0 ∧
      ∀ j, j < n → laneBv w v.data j = if j = namedLane x x.pc then b 0 else a j) ∧
    (let d := (x.pa.extractLsb' 0 4).toNat
     let k := (x.pa.extractLsb' 8 4).toNat
     (x.ta.isI = true ∨ x.ta.isF = true) → 2 ^ d < n →
      ∃ t v keep, exec (.vsort2 u m) s = .next t ∧ Puts s t (0x110 + u.val) (boundTa x) (boundTa x) (.r v) keep ∧
        KeepsDisabled w (s.vM u).data keep ∧
        ∀ j, j < n → j.testBit d = false →
          let swap := sortsBefore x.ta (b (j + 2 ^ d)) (b j)
          let lo := if swap then b (j + 2 ^ d) else b j
          let hi := if swap then b j else b (j + 2 ^ d)
          let asc := j.testBit k == x.pa.getLsbD 12
          ((s.vM u).data.getLsbD j = false → laneBv w v.data j = if asc then lo else hi) ∧
          ((s.vM u).data.getLsbD (j + 2 ^ d) = false → laneBv w v.data (j + 2 ^ d) = if asc then hi else lo))

/-- R285, R286: `vbperm` and `vbmat8` bit by bit, whatever TA and `.m` hold. R289: the poison operations, which ignore `.m` and `.ty`. -/
def Obligations.PoisonAndBitMatrixOperations : Prop :=
  (∀ (u : Fin 3) (m : Mv) (s : State), s.live m = true → tyLegal (s.vTy u) = true →
    let a := (s.vA u).data
    let b := (s.operandRow m).data
    let c := (s.vC u).data
    (∃ t v, exec (.vbperm u m) s = .next t ∧ Puts s t (0x110 + u.val) 2 2 (.r v) 0 ∧
      v.tag = tagOf [(s.vA u).tag, (s.operandRow m).tag] 0 ∧
      (∀ i, i < 256 → v.data.getLsbD i = (!a.getLsbD (16 * i + 15) && b.getLsbD (a.extractLsb' (16 * i) 12).toNat)) ∧
      ∀ i, 256 ≤ i → v.data.getLsbD i = false) ∧
    ∃ t v, exec (.vbmat8 u m) s = .next t ∧ Puts s t (0x110 + u.val) 2 2 (.r v) 0 ∧
      v.tag = tagOf [(s.vA u).tag, (s.operandRow m).tag, (s.vC u).tag] 0 ∧
      ∀ j k i, j < 64 → k < 8 → i < 8 →
        let x := laneBv 8 a (8 * j + i) &&& laneBv 8 b (8 * j + k)
        v.data.getLsbD (64 * j + 8 * k + i) =
          if c.getLsbD 0 then x != 0 else decide (((List.range 8).filter fun n => x.getLsbD n).length % 2 = 1)) ∧
  (∀ (u : Fin 3) (m : Mv) (s : State), s.live m = true →
    let b := s.operandRow m
    let a := (s.vA u).data
    (∃ t v, exec (.vptest u m) s = .next t ∧ Puts s t (0x110 + u.val) 2 2 (.r v) 0 ∧ v.data = b.tag.setWidth 4096 ∧ v.tag = 0) ∧
    (∃ t v, exec (.vpset u m) s = .next t ∧ Puts s t (0x110 + u.val) 2 2 (.r v) 0 ∧ v.data = b.data ∧
      ∀ i, i < 8 → v.tag.getLsbD i =
        (decide (i < 6) && (b.tag.getLsbD i || a.getLsbD i || (decide (i = 0) && a.extractLsb' 1 4 != 0)))) ∧
    ∃ t v, exec (.vpclr u m) s = .next t ∧ Puts s t (0x110 + u.val) 2 2 (.r v) 0 ∧ v.data = b.data ∧
      ∀ i, i < 8 → v.tag.getLsbD i = (decide (i < 6) && b.tag.getLsbD i && !a.getLsbD i))

/-- R279, R280: dot products, reductions and scans of integer types: each enabled result lane, with disabled lanes left out of every sum. -/
def Obligations.VectorReductionsOfIntegerTypes : Prop :=
  ∀ (u : Fin 3) (m : Mv) (s : State) (x : VecArgs), s.live m = true → s.vecArgs u = some x → x.ta.isI = true →
    let w := x.ta.width
    let lg := (x.pa.extractLsb' 0 4).toNat
    let on := fun j => !(s.vM u).data.getLsbD j
    let a := fun j => laneBv w (s.vA u).data j
    let b := fun j => laneBv w (s.operandRow m).data j
    let c := fun j => laneBv 32 (s.vC u).data j
    let int := fun (v : BitVec w) => if x.ta.signed then v.toInt else (v.toNat : Int)
    let sum := fun (l : List Nat) => l.foldl (fun acc j => if on j then acc + b j else acc) (0 : BitVec w)
    let gives := fun (i : Instr) (wr bd : Nat) (f : Nat → BitVec wr → Prop) => ∃ t v keep, exec i s = .next t ∧
      Puts s t (0x110 + u.val) bd bd (.r v) keep ∧ KeepsDisabled wr (s.vM u).data keep ∧
      ∀ j, j < 4096 / wr → on j = true → f j (laneBv wr v.data j)
    (2 ^ lg ≤ x.ta.lanes →
      gives (.vsum u m) w 2 (fun j r => r = if j % 2 ^ lg = 0 then sum ((List.range (2 ^ lg)).map (j + ·)) else 0) ∧
      gives (.vscan u m) w 2 (fun j r => r = sum ((List.range (j % 2 ^ lg + 1)).map (j / 2 ^ lg * 2 ^ lg + ·))) ∧
      gives (.vrmax u m) w 2 (fun j r => if j % 2 ^ lg = 0 then
          (∃ i, i < 2 ^ lg ∧ on (j + i) = true ∧ r = b (j + i)) ∧ ∀ i, i < 2 ^ lg → on (j + i) = true → int (b (j + i)) ≤ int r
        else r = 0) ∧
      gives (.vrmin u m) w 2 (fun j r => if j % 2 ^ lg = 0 then
          (∃ i, i < 2 ^ lg ∧ on (j + i) = true ∧ r = b (j + i)) ∧ ∀ i, i < 2 ^ lg → on (j + i) = true → int r ≤ int (b (j + i))
        else r = 0)) ∧
    (x.td = some .s32 → x.ta = .s16 →
      gives (.vdot2 u m) 32 5 (fun j r => r = c j + BitVec.ofInt 32 (int (a (2 * j)) * int (b (2 * j)) + int (a (2 * j + 1)) * int (b (2 * j + 1))))) ∧
    (x.td = some .s32 → (x.ta = .s8 ∨ x.ta = .z8) →
      gives (.vdot4 u m) 32 5 (fun j r => r = c j + BitVec.ofInt 32 (((List.range 4).map fun e => int (a (4 * j + e)) * int (b (4 * j + e))).sum)))

/-- R179, R197, R274 to R282: float arithmetic is exact and rounded once under RM; minimum, maximum, sign and comparison of floats; dot products,
sums, scans, maxima and minima of float lanes; the complex operations and, on X types, `vadd`, `vsub` and `vneg`; `vmin2`; and where `vcvt`, `vsatq`
and `vscale` place their elements, what each becomes, and the event that the tag then holds.
The model's choices that it rests on: log 24. -/
def Obligations.VectorFloatsRoundOnce : Prop :=
  ∀ (u : Fin 3) (m : Mv) (s : State) (x : VecArgs), s.live m = true → s.vecArgs u = some x →
    let w := x.ta.width
    let code := fun (v : Nat) => v % (if x.ta.six then 64 else 2 ^ x.ta.width)
    let la := fun j => laneBv w (s.vA u).data j
    let lb := fun j => laneBv w (s.operandRow m).data j
    let lc := fun j => laneBv w (s.vC u).data j
    let a := fun j => code (la j).toNat
    let b := fun j => code (lb j).toNat
    let on := fun j => !(s.vM u).data.getLsbD j
    let rm := rmOf x.rm s.me.regs.srseed x.pa
    let lg := (x.pa.extractLsb' 0 4).toNat
    let gives := s.VecGives u
    (∀ fm, x.ta.isF = true → x.ta.fmt = some fm →
      let d := fun n => fm.decode n
      let z := (rm 0).zneg
      let c := fun j => (lc j).toNat
      let rounded := fun (j : Nat) (v : Fv) (r : BitVec w) => r = BitVec.ofNat w (fm.encode (rm j) v).1
      let terms := fun (l : List Nat) => (l.filter on).map fun j => d (b j)
      let group := fun j => (List.range (2 ^ lg)).map (j + ·)
      (x.rm ≤ 3 →
        gives (.vadd u m) w 4 (fun j => rounded j (Fv.sum z [d (a j), d (b j)])) ∧
        gives (.vsub u m) w 4 (fun j => rounded j (Fv.sum z [d (a j), (d (b j)).neg])) ∧
        gives (.vmul u m) w 4 (fun j => rounded j ((d (a j)).mul (d (b j)))) ∧
        gives (.vfma u m) w 4 (fun j => rounded j (Fv.sum z [(d (a j)).mul (d (b j)), d (c j)])) ∧
        ∀ o ∈ floatOps, gives (o.instr u m) w 4 (fun j r => r = o.f w x.ta (la j) (lb j) (lc j))) ∧
      (2 ^ lg ≤ x.ta.lanes →
        gives (.vsum u m) w 4 (fun j r => r = if j % 2 ^ lg = 0 then sumRne fm w (terms (group j)) else 0) ∧
        gives (.vscan u m) w 4 (fun j r => r = sumRne fm w (terms ((List.range (j % 2 ^ lg + 1)).map (j / 2 ^ lg * 2 ^ lg + ·)))) ∧
        gives (.vrmax u m) w 4 (fun j r =>
          if j % 2 ^ lg ≠ 0 then r = 0
          else if (group j).any fun i => on i && laneNan x.ta (lb i) then r = laneQuiet x.ta w
          else (∃ i ∈ group j, on i = true ∧ r = lb i) ∧ ∀ i ∈ group j, on i = true → sortsBefore x.ta r (lb i) = false) ∧
        gives (.vrmin u m) w 4 (fun j r =>
          if j % 2 ^ lg ≠ 0 then r = 0
          else if (group j).any fun i => on i && laneNan x.ta (lb i) then r = laneQuiet x.ta w
          else (∃ i ∈ group j, on i = true ∧ r = lb i) ∧ ∀ i ∈ group j, on i = true → sortsBefore x.ta (lb i) r = false))) ∧
    (x.td = some .f32 →
      let c := fun j => fmtF32.decode (laneBv 32 (s.vC u).data j).toNat
      let p := fun j => (x.ta.value (a j)).mul (x.ta.value (b j))
      ((x.ta = .f16 ∨ x.ta = .bf16) → gives (.vdot2 u m) 32 5 (fun j r => r = sumRne fmtF32 32 [c j, p (2 * j), p (2 * j + 1)])) ∧
      ((x.ta = .e4m3 ∨ x.ta = .e5m2 ∨ x.ta = .e3m2 ∨ x.ta = .e2m3) →
        gives (.vdot4 u m) 32 5 (fun j r => r = sumRne fmtF32 32 [c j, p (4 * j), p (4 * j + 1), p (4 * j + 2), p (4 * j + 3)]))) ∧
    (∀ o ∈ complexOps,
      let a := fun j => laneBv 32 (s.vA u).data j
      let b := fun j => laneBv 32 (s.operandRow m).data j
      let c := fun j => laneBv 32 (s.vC u).data j
      (x.ta = .c16 → gives (o.instr u m) 32 2 (fun j r => r = o.fc (a j) (b j) (c j))) ∧
      (x.ta = .cbf16 → (o.rounds = true → x.rm ≤ 3) → gives (o.instr u m) 32 4 (fun j r => r = o.fb (rm 0) (a j) (b j) (c j)))) ∧
    (x.ta ∈ [Ty.s8, .s16, .s32, .f16, .bf16, .f32] → 2 ≤ lg → 2 ^ lg ≤ x.ta.lanes →
      gives (.vmin2 u m) w (boundTa x) (fun j r =>
        let g := j / 2 ^ lg * 2 ^ lg
        Min2Lane x.ta (2 ^ lg) (fun k => on (g + k)) (fun k => lb (g + k)) (j % 2 ^ lg) r)) ∧
    ∀ td, x.td = some td → partOk x td = true →
      (x.ta.isValue = true → td.isTarget = true → x.rm ≤ 4 → s.Converts u m x td (.vcvt u m) (x.rm = 4) fun src dst =>
        let e := td.encode (rm dst) (x.ta.value (b src))
        (e.1, e.2 != 0)) ∧
      (x.ta.isI = true → td.isI = true → x.rm ≤ 4 → s.Converts u m x td (.vsatq u m) (x.rm = 4) fun src dst =>
        let v := if x.ta.signed then (lb src).toInt else ((lb src).toNat : Int)
        let q := roundInt (rm dst) (decide (v < 0)) v.natAbs 1 (-((x.pc.extractLsb' 0 6).toNat : Int))
        ((BitVec.ofInt td.width (satTo td.signed td.width q)).toNat, false)) ∧
      (x.ta.isTarget = true → td.isTarget = true → x.rm ≤ 3 → s.Converts u m x td (.vscale u m) true fun src dst =>
        let e4 := x.pc.getLsbD 0
        let scale := scaleVal e4 (laneBv 8 (s.vA u).data (if e4 then src / 16 else src / 32)).toNat
        let v := x.ta.value (b src)
        let e := td.encode (rm dst) (if scale.isNan then .nan else if x.pc.getLsbD 1 then v.div scale else v.mul scale)
        (e.1, e.2 != 0 || scale.isNan))

/-! ### The special-function and transpose units -/

/-- R216, R290 to R294: an `sf` trigger four cycles or more after the last one puts its row under way, 128 lanes under `.m`, and starts the
count again; an earlier one is illegal with detail `0x0B`. The special inputs of R291 and R294 give the results of their tables. On every other
input the estimates are those of R292 and the refinements those of R293, a root is the exact one rounded once, the exact points of the other
functions are exact, `exp2` overflows and underflows as R290 says, and at twelve named inputs the six transcendental functions give the function's
value rounded once. -/
def Obligations.SpecialFunctionsAndTheirSpecialInputs : Prop :=
  (∀ o ∈ sfuOps, ∀ (m : Mv) (s : State), s.live m = true →
    let a := s.me.latchR 0x3C0
    let mk := s.me.latchR 0x3C2
    let b := s.operandRow m
    (s.me.tr.sfWait = 0 → ∃ t u v keep, exec (o.instr m) s = .next t ∧ Puts s u 0x113 8 8 (.r v) keep ∧
      t = u.modCore s.ctx.core (fun k => { k with tr.sfWait := 4 }) ∧ KeepsDisabled 32 mk.data keep ∧
      v.tag = tagOf ([b.tag, mk.tag] ++ (if o.readsA then [a.tag] else [])) 0 ∧
      ∀ j, j < 128 → mk.data.getLsbD j = false →
        laneBv 32 v.data j = BitVec.ofNat 32 (o.f (laneBv 32 a.data j).toNat (laneBv 32 b.data j).toNat)) ∧
    (s.me.tr.sfWait ≠ 0 → exec (o.instr m) s = .next (s.illegal 0x0B))) ∧
  (∀ x, f32Nan x → [sfRcp x, sfRsq x, sfSqrt x, sfExp2 x, sfLog2 x, sfSinp x, sfCosp x, sfTanh x, sfSigm x] = List.replicate 9 0x7FC00000) ∧
  (∀ x, f32Zero false x → [sfRcp x, sfRsq x, sfSqrt x, sfExp2 x, sfLog2 x, sfSinp x, sfCosp x, sfTanh x, sfSigm x] =
    [0x7F800000, 0x7F800000, 0, 0x3F800000, 0xFF800000, 0, 0x3F800000, 0, 0x3F000000]) ∧
  (∀ x, f32Zero true x → [sfRcp x, sfRsq x, sfSqrt x, sfExp2 x, sfLog2 x, sfSinp x, sfCosp x, sfTanh x, sfSigm x] =
    [0xFF800000, 0xFF800000, 0x80000000, 0x3F800000, 0xFF800000, 0x80000000, 0x3F800000, 0x80000000, 0x3F000000]) ∧
  [sfRcp 0x7F800000, sfRsq 0x7F800000, sfSqrt 0x7F800000, sfExp2 0x7F800000, sfLog2 0x7F800000, sfSinp 0x7F800000, sfCosp 0x7F800000,
    sfTanh 0x7F800000, sfSigm 0x7F800000] = [0, 0, 0x7F800000, 0x7F800000, 0x7F800000, 0x7FC00000, 0x7FC00000, 0x3F800000, 0x3F800000] ∧
  [sfRcp 0xFF800000, sfRsq 0xFF800000, sfExp2 0xFF800000, sfSinp 0xFF800000, sfCosp 0xFF800000, sfTanh 0xFF800000, sfSigm 0xFF800000] =
    [0x80000000, 0x7FC00000, 0, 0x7FC00000, 0x7FC00000, 0xBF800000, 0] ∧
  (∀ x, f32Below x → [sfRsq x, sfSqrt x, sfLog2 x] = [0x7FC00000, 0x7FC00000, 0x7FC00000]) ∧
  sfLog2 0x3F800000 = 0 ∧
  (∀ x, f32Ordinary x →
    let i := x / 2 ^ 16 % 128
    let t := x % 2 ^ 16
    let e := f32Exp x
    let b := (e % 2).toNat
    (∃ t0 t1, RcpEntry i t0 ∧ RcpEntry (i + 1) t1 ∧
      sfRcp x = f32Flushed (.fin (f32Neg x) (t0 - ((t0 - t1) * t + 32768) / 65536) 1 (-24 - e))) ∧
    (f32Neg x = false → ∃ q0 q1, RsqEntry b i q0 ∧ RsqEntry b (i + 1) q1 ∧
      sfRsq x = f32Flushed (.fin false (q0 - ((q0 - q1) * t + 32768) / 65536) 1 (-24 - (e - b) / 2))) ∧
    (∀ y, f32Ordinary y →
      let fx := fmtF32.decode x
      let fy := fmtF32.decode y
      sfRcpStep x y = f32Flushed (fy.mul (Fv.sum false [.fin false 2 1 0, (fx.mul fy).neg])) ∧
      sfRsqStep x y = f32Flushed ((fy.mul (Fv.sum false [.fin false 3 1 0, ((fx.mul fy).mul fy).neg])).mul (.fin false 1 1 (-1)))) ∧
    (f32Neg x = false → ∃ (p q c : Nat) (k : Int), 2 * k + c = e - 23 ∧ p * p ≤ f32Sig x * 2 ^ c ∧ f32Sig x * 2 ^ c ≤ q * q ∧
      sfSqrt x = f32Flushed (.fin false p 1 k) ∧ sfSqrt x = f32Flushed (.fin false q 1 k)) ∧
    (∀ n, f32Halves x (2 * n) →
      (e < 8 → sfExp2 x = f32Flushed (.fin false 1 1 (if f32Neg x then -(n : Int) else n))) ∧ sfSinp x = 0 ∧
      sfCosp x = if n % 2 = 1 then 0xBF800000 else 0x3F800000) ∧
    (∀ n, f32Halves x (2 * n + 1) →
      sfCosp x = 0 ∧ sfSinp x = if f32Neg x = decide (n % 2 = 1) then 0x3F800000 else 0xBF800000) ∧
    (f32Sig x = 2 ^ 23 → f32Neg x = false → sfLog2 x = f32Flushed (.fin (decide (e < 0)) e.natAbs 1 0)) ∧
    (7 ≤ e → [sfExp2 x, sfTanh x, sfSigm x] = if f32Neg x then [0, 0xBF800000, 0] else [0x7F800000, 0x3F800000, 0x3F800000])) ∧
  (∀ x y, x < 2 ^ 32 → y < 2 ^ 32 → f32Passes x y → sfRcpStep x y = f32Passed y ∧ sfRsqStep x y = f32Passed y) ∧
  [sfExp2 0x3F000000, sfExp2 0xC0133333, sfLog2 0x40400000, sfLog2 0x3E99999A, sfSinp 0x40300000, sfSinp 0xBE99999A, sfCosp 0x3E800000,
    sfCosp 0xBFD9999A, sfTanh 0x3F800000, sfTanh 0xBE99999A, sfSigm 0x3F800000, sfSigm 0xC0400000] =
  [0x3FB504F3, 0x3E4FEFC6, 0x3FCAE00D, 0xBFDE54E3, 0x3F3504F3, 0xBF4F1BBD, 0x3F3504F3, 0x3F16791A, 0x3F42F7D6, 0xBE9526EE, 0x3F3B26A8, 0x3D4241A2]

/-- R295, R296: the transpose unit: a written tile row, a cleared tile, the read of columns, the conversion of columns, and where a selector
or a type makes the trigger illegal.
The model's choices that it rests on: log 95. -/
def Obligations.TransposeUnitTiles : Prop :=
  ∀ (m : Mv) (s : State),
    let k := s.me
    let a := k.latchW 0x400
    let w := s.operand m
    let tile := (w.extractLsb' 0 2).toNat
    let col := (w.extractLsb' 8 6).toNat
    let ty := k.latchW 0x403
    let elem := fun i => k.tileAt tile (i % 64) ((col + i / 64) % 64)
    (s.live m = true →
      (a &&& 0xFFFFFFFFFFFEC0FC = 0 → ∃ t, exec (.ttw m) s = .next t ∧ TilesOnly s t ∧
        (∀ c, c < 64 → (t.core s.ctx.core).tileAt (a.extractLsb' 0 2).toNat (a.extractLsb' 8 6).toNat c =
          laneBv 32 (s.operandRow m).data (64 * (a.extractLsb' 16 1).toNat + c)) ∧
        mrd RowT.zero (t.core s.ctx.core).tr.tiles ((a.extractLsb' 0 2).toNat * 64 + (a.extractLsb' 8 6).toNat) =
          ⟨((s.operandRow m).data >>> (2048 * (a.extractLsb' 16 1).toNat)) &&& ((BitVec.allOnes 2048).setWidth 4096), (s.operandRow m).tag⟩ ∧
        ∀ i, i ≠ (a.extractLsb' 0 2).toNat * 64 + (a.extractLsb' 8 6).toNat →
          mrd RowT.zero (t.core s.ctx.core).tr.tiles i = mrd RowT.zero k.tr.tiles i) ∧
      (a &&& 0xFFFFFFFFFFFEC0FC ≠ 0 → exec (.ttw m) s = .next (s.illegal 0x0A))) ∧
    (s.fires m →
      (w &&& 0xFFFFFFFFFFFFC0FC = 0 → ∃ t v, exec (.ttr m) s = .next t ∧ Puts s t 0x114 3 3 (.r v) 0 ∧ v.tag = k.tileTag tile 0 ∧
        ∀ i, i < 128 → laneBv 32 v.data i = elem i) ∧
      (w &&& 0xFFFFFFFFFFFFFFFC = 0 → ∃ t, exec (.ttclr m) s = .next t ∧ TilesOnly s t ∧
        ∀ i, mrd RowT.zero (t.core s.ctx.core).tr.tiles i = if i / 64 = tile then RowT.zero else mrd RowT.zero k.tr.tiles i) ∧
      (w &&& 0xFFFFFFFFFFFFC0FC ≠ 0 → exec (.ttr m) s = .next (s.illegal 0x0A) ∧ exec (.ttcvt m) s = .next (s.illegal 0x0A)) ∧
      (w &&& 0xFFFFFFFFFFFFFFFC ≠ 0 → exec (.ttclr m) s = .next (s.illegal 0x0A)) ∧
      (w &&& 0xFFFFFFFFFFFFC0FC = 0 → tyLegal ty = true →
        ∀ ta td, Ty.ofCode (ty.extractLsb' 0 5).toNat = some ta → Ty.ofCode (ty.extractLsb' 8 5).toNat = some td →
          (ta ∈ [Ty.s32, Ty.z32, Ty.f32] → td.isTarget = true → (ty.extractLsb' 13 3).toNat ≤ 4 →
            ∃ t v ev, exec (.ttcvt m) s = .next t ∧ Puts s t 0x114 3 3 (.r v) 0 ∧ v.tag = k.tileTag tile ev ∧
              ∀ i, i < td.lanes → (laneBv td.width v.data i).toNat =
                (td.encode (rmOf (ty.extractLsb' 13 3).toNat k.regs.srseed a i) (ta.value (elem i).toNat)).1 % 2 ^ td.width) ∧
          (ta ∉ [Ty.s32, Ty.z32, Ty.f32] ∨ td.isTarget = false ∨ 4 < (ty.extractLsb' 13 3).toNat →
            exec (.ttcvt m) s = .next (s.illegal 0x0A))) ∧
      (w &&& 0xFFFFFFFFFFFFC0FC = 0 →
        (tyLegal ty = false ∨ Ty.ofCode (ty.extractLsb' 0 5).toNat = none ∨ Ty.ofCode (ty.extractLsb' 8 5).toNat = none) →
        exec (.ttcvt m) s = .next (s.illegal 0x0A)))

/-! ### Loads and stores -/

/-- R299, R70, R55, R69, R200, R214: a local load whose address and granules its checks accept puts the bytes that the core sees under way, and
reports poison for a later boundary where it delivers a scalar; such a store is withheld, little-endian, with its row's poison, or cancels its
bundle where it would need a 257th granule; any other access traps. What the core sees of scratch is the youngest withheld store of an earlier
bundle to each byte, else memory. -/
def Obligations.LocalLoadsAndStores : Prop :=
  ((∀ (u : Fin 2) (m : Mv) (s : State), s.fires m →
    let ea := s.me.latchW (0x440 + 64 * u.val) + s.operand m
    let see := fun n => s.me.loadLocal s.ctx.whN ea.toNat n
    let traps := fun (i : Instr) (align n : Nat) =>
      (¬ s.localAddrOk align n ea → ∃ x : W64, (ea.toNat % align ≠ 0 ∨ ea.toNat < 0x400000 → x = ea) ∧ exec i s = .next (s.raise 0x08 0 x)) ∧
      (s.localAddrOk align n ea → ea.toNat < 0x400000 → ¬ s.granulesOk s.ctx.core 0 ea.toNat n →
        ∃ o, ea.toNat ≤ o ∧ o < ea.toNat + n ∧ exec i s = .next (s.raise 0x09 (ownDetail (s.me.ownState o) 0 false) (BitVec.ofNat 64 o)))
    let ok := fun (align n : Nat) => s.localAddrOk align n ea ∧ (ea.toNat < 0x400000 → s.granulesOk s.ctx.core 0 ea.toNat n)
    (∀ o ∈ localLoads, traps (o.instr u m) o.bytes o.bytes ∧
      (ok o.bytes o.bytes → ∃ v t r, exec (o.instr u m) s = .next t ∧
        Repaired s v (if (see o.bytes).2 then [s.poisonReport 4 ea] else []) ∧
        Puts v t (0x120 + 4 * u.val) 4 6 (.w r) 0 ∧ HoldsBytes r o.bytes o.signed (see o.bytes).1)) ∧
    traps (.vld u m) 8 512 ∧
    (ok 8 512 → ∃ v t r, exec (.vld u m) s = .next t ∧ Repaired s v [] ∧ Puts v t (0x121 + 4 * u.val) 5 7 (.r r) 0 ∧
      HoldsRow r (see 512).1 (see 512).2)) ∧
  ∀ (k : Core) (whN off n : Nat), off + n ≤ 0x400000 → ∀ i, i < n → (k.loadLocal whN off n).1[i]? =
    some (match (k.ms.wh.take whN).reverse.findSome? (fun w => match w.place, w.what with
      | .loc o, .store bs _ => if o < 0x400000 ∧ o ≤ off + i then bs[off + i - o]? else none
      | _, _ => none) with
    | some b => b
    | none => k.scratchByte (off + i))) ∧
  (∀ (u : Fin 2) (m : Mv) (s : State),
    let ea := s.me.latchW (0x440 + 64 * u.val)
    let r := s.operandRow m
    let traps := fun (i : Instr) (align n : Nat) =>
      (¬ s.localAddrOk align n ea → ∃ x : W64, (ea.toNat % align ≠ 0 ∨ ea.toNat < 0x400000 → x = ea) ∧ exec i s = .next (s.raise 0x08 8 x)) ∧
      (s.localAddrOk align n ea → ea.toNat < 0x400000 → ¬ s.granulesOk s.ctx.core 1 ea.toNat n →
        ∃ o, ea.toNat ≤ o ∧ o < ea.toNat + n ∧ exec i s = .next (s.raise 0x09 (ownDetail (s.me.ownState o) 1 false) (BitVec.ofNat 64 o)))
    let ok := fun (align n : Nat) => s.localAddrOk align n ea ∧ (ea.toNat < 0x400000 → s.granulesOk s.ctx.core 1 ea.toNat n)
    (s.fires m → ∀ o ∈ localStores, traps (o.instr u m) o.bytes o.bytes ∧
      (ok o.bytes o.bytes → StoresOrFull s (exec (o.instr u m) s) (.loc ea.toNat) ea (wordBytes o.bytes (s.operand m)) false)) ∧
    (s.live m = true → traps (.vst u m) 8 512 ∧
      (ok 8 512 → StoresOrFull s (exec (.vst u m) s) (.loc ea.toNat) ea (fullRow r.data) (r.tag.getLsbD 0))))

/-- R300, R301, R217: gathers and scatters: the lanes they name, the checks in order, one read per distinct bank word with its stall, the
zero of skipped lanes, the stores in ascending lane order, and the first of them that needs a 257th granule (R69). -/
def Obligations.GatherAndScatterByLanes : Prop :=
  ∀ (u : Fin 2) (m : Mv) (s : State), s.live m = true →
    let a := s.me.latchW (0x440 + 64 * u.val)
    let c := s.me.latchR (0x441 + 64 * u.val)
    let b := s.operandRow m
    let esz := (a.extractLsb' 62 2).toNat
    let e := if esz = 0 then 4 else if esz = 1 then 8 else 2
    let base := (a.extractLsb' 0 23).toNat
    let skip := fun (idx : Row) (j : Nat) => laneBv (8 * e) idx j == BitVec.allOnes (8 * e)
    let off := fun (idx : Row) j => base + (laneBv (8 * e) idx j).toNat * e
    let named := fun (idx : Row) o => ∃ j, j < 512 / e ∧ skip idx j = false ∧ off idx j = o
    let fault := fun (kind x : Nat) => s.raise 0x08 (BitVec.ofNat 8 (kind * 8)) (BitVec.ofNat 64 x)
    let traps := fun (i : Instr) (kind : Nat) (idx : Row) =>
      (esz = 3 → exec i s = .next (s.illegal 0x0A)) ∧
      (esz ≠ 3 → (a.extractLsb' 23 39 ≠ 0 ∨ base % e ≠ 0) → exec i s = .next (fault kind (a.extractLsb' 0 62).toNat)) ∧
      (esz ≠ 3 → a.extractLsb' 23 39 = 0 → base % e = 0 →
        (∀ o, named idx o → 0x400000 < o + e → (∀ p, named idx p → 0x400000 < p + e → o ≤ p) → exec i s = .next (fault kind o)) ∧
        ((∀ o, named idx o → o + e ≤ 0x400000) →
          ∀ o, named idx o → ¬ s.granulesOk s.ctx.core kind o e → (∀ p, named idx p → ¬ s.granulesOk s.ctx.core kind p e → o ≤ p) →
            exec i s = .next (s.raise 0x09 (ownDetail (s.me.ownState o) kind false) (BitVec.ofNat 64 o))))
    let ok := fun (kind : Nat) (idx : Row) => esz ≠ 3 ∧ a.extractLsb' 23 39 = 0 ∧ base % e = 0 ∧
      ∀ o, named idx o → o + e ≤ 0x400000 ∧ s.granulesOk s.ctx.core kind o e
    let words := ((((List.range (512 / e)).filter fun j => !skip b.data j).map fun j => off b.data j / 8)).eraseDups
    let k := gatherConflict words
    let stores := ((List.range (512 / e)).filter fun j => !skip c.data j).map fun j =>
      (Place.loc (off c.data j), (BitVec.ofNat 64 (off c.data j) : W64), WhKind.store ((List.range e).map fun i => rowByte b.data (j * e + i)) (b.tag.getLsbD 0))
    let wh := stores.mapIdx fun i w => (⟨s.me.ms.ids + i, s.origin, w.1, w.2.1, w.2.2⟩ : Withheld)
    (b.tag.getLsbD 0 = true → exec (.vldg u m) s = .next (s.raise 0x03 1)) ∧
    (b.tag.getLsbD 0 = false → traps (.vldg u m) 0 b.data ∧
      (ok 0 b.data → ∃ v t r, exec (.vldg u m) s = .next t ∧ Repaired { s with ctx := { s.ctx with stall := max s.ctx.stall k } } v [] ∧
        Puts v t (0x121 + 4 * u.val) (6 + k) (8 + k) (.r r) 0 ∧
        (∀ j, j < 512 / e → ∀ i, i < e → rowByte r.data (j * e + i) =
          if skip b.data j then 0 else (s.me.loadLocal s.ctx.whN (off b.data j) e).1.getD i 0) ∧
        r.tag = if ((List.range (512 / e)).any fun j => !skip b.data j && (s.me.loadLocal s.ctx.whN (off b.data j) e).2) then 5 else 0)) ∧
    (c.tag.getLsbD 0 = true → exec (.vsts u m) s = .next (s.raise 0x03 1)) ∧
    (c.tag.getLsbD 0 = false → traps (.vsts u m) 1 c.data ∧
      (ok 1 c.data → granuleCount (s.me.ms.wh ++ wh) ≤ 256 → ∃ t, exec (.vsts u m) s = .next t ∧ Withholds s t stores) ∧
      (ok 1 c.data → 256 < granuleCount (s.me.ms.wh ++ wh) → ∃ v, Withholds s v stores ∧
        let t := v.me.ms.walks.foldl (fun t w => t.settleWalk s.ctx.core true w) v
        ∃ ea, exec (.vsts u m) s = .next (if granuleCount (t.me.ms.wh.filter fun w => w.place ≠ .va) > 256 then t.raise 0x02 0 ea else t) ∧
          (s.me.ms.walks = [] → (∀ w ∈ s.me.ms.wh, w.place ≠ .va) →
            ∀ i w, wh[i]? = some w → (∀ j, j ≤ i → granuleCount (s.me.ms.wh ++ wh.take j) ≤ 256) →
              256 < granuleCount (s.me.ms.wh ++ wh.take (i + 1)) → ea = w.ea)))

/-- R302, R215, R45, R49: global loads are promised to their ports and global stores withheld, each at the segments that a hit of the TLBs
gives or with its walk queued; R303: `pref` traps on nothing, and changes no register, no withheld or pending access: its walk may end, with a
fault, others of the grove that wait for the same page (R45). R299, R31, R401: remote
loads and stores: where they trap; one that names the own core is served on the local path, any other is promised or withheld for its home core.
The model's choices that it rests on: log 78. -/
def Obligations.GlobalAndRemoteAccesses : Prop :=
  (∀ (u : Fin 2) (m : Mv) (s : State),
    let a := s.me.latchW (0x440 + 64 * u.val)
    let c := s.me.latchW (0x441 + 64 * u.val)
    let b := s.operand m
    let r := s.operandRow m
    let n := [8, 1, 2, 4].getD (c.extractLsb' 0 2).toNat 0
    let pend := fun (port n : Nat) (sg row : Bool) (ea : W64) (pl : Place) =>
      ({ id := s.me.ms.ids, org := s.origin, port := port, place := pl, ea := ea, n := n, signed := sg, row := row, whN := s.ctx.whN } : Pend)
    (s.fires m →
      GlobalAccess s (exec (.gld u m) s) .load n n (a + b) (fun v pl => ∃ t, exec (.gld u m) s = .next t ∧
        Promises v t (pend (0x122 + 4 * u.val) n (c.getLsbD 2) false (a + b) pl)) ∧
      GlobalAccess s (exec (.gvld u m) s) .load 8 512 (a + b) (fun v pl => ∃ t, exec (.gvld u m) s = .next t ∧
        Promises v t (pend (0x123 + 4 * u.val) 512 false true (a + b) pl)) ∧
      GlobalAccess s (exec (.gst u m) s) .store n n a (fun v pl => StoresOrFull v (exec (.gst u m) s) pl a (wordBytes n b) false) ∧
      (∃ t, exec (.pref u m) s = .next t ∧ t.todo = s.todo ∧ t.ctx = s.ctx ∧ t.saved = s.saved ∧ t.sched = s.sched ∧
        (∀ d, ∃ l, (t.core d).reports = (s.core d).reports ++ l ∧ (t.core d).ms.walks.Sublist (s.core d).ms.walks) ∧
        (∀ d, d ≠ s.ctx.core → t.core d = { s.core d with reports := (t.core d).reports, ms.walks := (t.core d).ms.walks }) ∧
        let l := t.core s.ctx.core
        l = { s.me with
          reports := l.reports, ms := { s.me.ms with l1 := l.ms.l1, fifo := l.ms.fifo, tlb := l.ms.tlb, walks := l.ms.walks } })) ∧
    (s.live m = true →
      GlobalAccess s (exec (.gvst u m) s) .store 8 512 a (fun v pl => StoresOrFull v (exec (.gvst u m) s) pl a (fullRow r.data) (r.tag.getLsbD 0)))) ∧
  (∀ (u : Fin 2) (m : Mv) (s : State), s.fires m →
    let a := s.me.latchW (0x440 + 64 * u.val)
    let b := s.operand m
    let ea := a + b
    let ok := fun (kind n : Nat) (x : W64) => remoteAddrOk 8 n x ∧ s.absent (homeOf x) = false ∧
      (homeOf x = s.ctx.core → s.granulesOk s.ctx.core kind (offOf x) n)
    let see := fun n => s.me.loadLocal s.ctx.whN (offOf ea) n
    let loads := fun (i : Instr) (port n : Nat) (row : Bool) =>
      RemoteTraps s (exec i s) 0 8 n ea ∧
      (ok 0 n ea → homeOf ea ≠ s.ctx.core → ∃ t, exec i s = .next t ∧
        Promises s t { id := s.me.ms.ids, org := s.origin, port := port, place := .rem (homeOf ea) (offOf ea), ea := ea, n := n, row := row, whN := s.ctx.whN }) ∧
      (ok 0 n ea → homeOf ea = s.ctx.core → ∃ v t x, exec i s = .next t ∧
        Repaired s v (if (see n).2 && !row then [s.poisonReport 4 (BitVec.ofNat 64 (offOf ea))] else []) ∧
        Promises v t { id := s.me.ms.ids, org := s.origin, port := port, place := .loc (offOf ea), ea := ea, n := n, row := row, got := some x } ∧
        (if row then ∃ r, x = .r r ∧ HoldsRow r (see n).1 (see n).2 else ∃ r, x = .w r ∧ HoldsBytes r n false (see n).1))
    loads (.xld u m) (0x122 + 4 * u.val) 8 false ∧ loads (.xvld u m) (0x123 + 4 * u.val) 512 true ∧
    RemoteTraps s (exec (.xst u m) s) 1 8 8 a ∧
    (ok 1 8 a → homeOf a ≠ s.ctx.core → StoresOrFull s (exec (.xst u m) s) (.rem (homeOf a) (offOf a)) a (wordBytes 8 b) false) ∧
    (ok 1 8 a → homeOf a = s.ctx.core → StoresOrFull s (exec (.xst u m) s) (.loc (offOf a)) (BitVec.ofNat 64 (offOf a)) (wordBytes 8 b) false))

/-! ### Atomics -/

/-- R304 to R306, R120: what an atomic makes of a unit, and the scratch atomics: where they trap; on a local granule that is not Pooled they
read as a load and withhold a store; elsewhere, and in global memory, the return-free forms are withheld and the others are signals, whose old
value is promised to `.g`; a scratch form that returns needs C there, and is checked at its home core (R77); on a bad unit nothing is written or
delivered (R121).
The model's choices that it rests on: log 78, log 93. -/
def Obligations.AtomicsFollowTheirTable : Prop :=
  ((∀ old b c : W64,
    (AmoOp.apply f32Add .add old b c = old + b) ∧ (AmoOp.apply f32Add .min old b c = if b.slt old then b else old) ∧
    (AmoOp.apply f32Add .max old b c = if old.slt b then b else old) ∧ (AmoOp.apply f32Add .and old b c = old &&& b) ∧
    (AmoOp.apply f32Add .or old b c = old ||| b) ∧ (AmoOp.apply f32Add .xor old b c = old ^^^ b) ∧ (AmoOp.apply f32Add .swp old b c = b) ∧
    (AmoOp.apply f32Add .cas old b c = if old = c then b else old) ∧
    AmoOp.apply f32Add .fadd old b c = BitVec.ofNat 64
      ((fmtF32.encode .rne (Fv.sum false [fmtF32.decode (old.toNat % 2 ^ 32), fmtF32.decode (b.toNat % 2 ^ 32)])).1 % 2 ^ 32)) ∧
  ∀ o ∈ scratchAmos, ∀ (u : Fin 2) (m : Mv) (s : State), s.fires m →
    let ea := s.me.latchW (0x440 + 64 * u.val)
    let c := s.me.latchW (0x441 + 64 * u.val)
    let b := s.operand m
    let n := if o.op = .fadd then 4 else 8
    let home := homeOf ea
    let off := offOf ea
    let out := exec (o.instr u m) s
    let loc := home = s.ctx.core ∧ s.me.ownState off ≠ 3
    let atHome := o.ret = true ∧ s.me.ownState off = 3
    let ok := remoteAddrOk n n ea ∧ s.absent home = false ∧ (home = s.ctx.core → ¬ atHome → s.granulesOk s.ctx.core 2 off n)
    let see := s.me.loadLocal s.ctx.whN off n
    RemoteTraps s out 2 n n ea atHome ∧
    (ok → ¬ loc → o.ret = false → ∃ t, out = .next t ∧ Withholds s t [(.rem home off, ea, .amo o.op b c)]) ∧
    (ok → ¬ loc → o.ret = true → s.ctx.hdr.c = false → out = .next (s.illegal 0x09)) ∧
    (ok → ¬ loc → o.ret = true → s.ctx.hdr.c = true → ∃ t, out = .next t ∧
      Leaves s t (.rem home off) ea (.signal (.amo o.op b c (0x122 + 4 * u.val))) []
        (some { id := s.me.ms.ids, org := s.origin, port := 0x122 + 4 * u.val, place := .va, ea := ea, n := 8 })) ∧
    (ok → loc → ∃ v old, HoldsBytes old n false see.1 ∧
      Repaired s v (if see.2 && o.ret then [s.poisonReport 6 ea] else []) ∧
      let bs := wordBytes n (o.op.apply f32Add old b c)
      let ends := fun (w : State) => (o.ret = false → out = .next w) ∧ (o.ret = true → ∃ t, out = .next t ∧ PutsG w t (0x122 + 4 * u.val) old)
      (see.2 = true → o.ret = false → out = .next v) ∧
      (see.2 = true → o.ret = true → ∃ t, out = .next t ∧
        Promises v t { id := s.me.ms.ids, org := s.origin, port := 0x122 + 4 * u.val, place := .va, ea := ea, n := 8 }) ∧
      (see.2 = false → v.storeFits (.loc off) (BitVec.ofNat 64 off) bs false →
        ∃ w, Withholds v w [(.loc off, BitVec.ofNat 64 off, .store bs false)] ∧ ends w) ∧
      (see.2 = false → ¬ v.storeFits (.loc off) (BitVec.ofNat 64 off) bs false →
        ∃ w, Withholds v w [(.loc off, BitVec.ofNat 64 off, .store bs false)] ∧
          let x := w.me.ms.walks.foldl (fun t y => t.settleWalk s.ctx.core true y) w
          if granuleCount (x.me.ms.wh.filter fun y => y.place ≠ .va) > 256 then out = .next (x.raise 0x02 0 (BitVec.ofNat 64 off)) else ends x))) ∧
  (∀ o ∈ globalAmos, ∀ (u : Fin 2) (m : Mv) (s : State), s.fires m →
    let ea := s.me.latchW (0x440 + 64 * u.val)
    let c := s.me.latchW (0x441 + 64 * u.val)
    let b := s.operand m
    let n := if o.op = .fadd then 4 else 8
    let out := exec (o.instr u m) s
    GlobalAccess s out .atomic n n ea fun v pl =>
      if o.ret then ∃ t, out = .next t ∧ Leaves v t pl ea (.signal (.amo o.op b c (0x122 + 4 * u.val))) []
        (some { id := s.me.ms.ids, org := s.origin, port := 0x122 + 4 * u.val, place := .va, ea := ea, n := 8 })
      else ∃ t, out = .next t ∧ Withholds v t [(pl, ea, .amo o.op b c)])

/-! ### Ordering, flags, groups, handles -/

/-- R307, R309, R310: `drain` and `rel` are withheld, `acq` acts at the end of its bundle, `fwait` has no other effect; `fadd`, `fset`, `join`
and `leave` are signals, and `gmask` promises `sy.r`; reserved operands are illegal, and targets are checked. R311, R401: the handle operations
are signals; `hmake` promises `sy.r`; their reserved operands are illegal, and `hgive` to an absent core traps.
The model's choices that it rests on: log 78. -/
def Obligations.OrderingFlagsGroupsAndHandles : Prop :=
  (∀ (m : Mv) (s : State), s.fires m →
    let a := s.me.latchW 0x4C0
    let b := s.operand m
    let f : Fin 16 := ⟨(b.extractLsb' 0 4).toNat, (b.extractLsb' 0 4).isLt⟩
    let v := b.extractLsb' 4 32
    let illegal := fun (i : Instr) => exec i s = .next (s.illegal 0x0A)
    let signals := fun (i : Instr) (g : Signal) => ∃ t, exec i s = .next t ∧ Leaves s t .va 0 (.signal g) [] none
    (∃ t, exec (.drain m) s = .next t ∧ Withholds s t [(.va, 0, .drain (b.extractLsb' 0 4) (b.extractLsb' 4 2))]) ∧
    (∃ t, exec (.rel m) s = .next t ∧ Withholds s t [(.va, 0, .rel (b.extractLsb' 4 2))]) ∧
    (∃ t, exec (.acq m) s = .next t ∧ CtxOnly s t ∧ t.ctx = { s.ctx with acq := true }) ∧
    (b.extractLsb' 36 28 = 0 → exec (.fwait m) s = .next s) ∧
    (b.extractLsb' 36 28 ≠ 0 → illegal (.fwait m) ∧ illegal (.fadd m) ∧ illegal (.fset m)) ∧
    (b.extractLsb' 36 28 = 0 →
      (64 ≤ a.toNat → illegal (.fadd m)) ∧
      (a.toNat < 64 → TargetTraps s (exec (.fadd m) s) (1 <<< a.toNat) a ∧
        (s.maskOk (1 <<< a.toNat) → signals (.fadd m) (.fadd (coreId a.toNat) f v))) ∧
      TargetTraps s (exec (.fset m) s) a a ∧ (s.maskOk a → signals (.fset m) (.fset a f v))) ∧
    (8 ≤ b.toNat → illegal (.join m) ∧ illegal (.leave m) ∧ illegal (.gmask m)) ∧
    (b.toNat < 8 → signals (.join m) (.join (b.extractLsb' 0 3)) ∧ signals (.leave m) (.leave (b.extractLsb' 0 3)) ∧
      ∃ t, exec (.gmask m) s = .next t ∧
        Promises s t { id := s.me.ms.ids, org := s.origin, port := 0x130, place := .loc b.toNat, n := 0 })) ∧
  (∀ (m : Mv) (s : State), s.fires m →
    let a := s.me.latchW 0x4C0
    let b := s.operand m
    let signals := fun (i : Instr) (op : HandleOp) (x y : W64) (port : Nat) (p : Option Pend) =>
      ∃ t, exec i s = .next t ∧ Leaves s t .va 0 (.signal (.handle op x y port false)) [] p
    (b.extractLsb' 10 6 = 0 → b.extractLsb' 26 38 = 0 → signals (.hmake m) .make 0 b 0x130
      (some { id := s.me.ms.ids, org := s.origin, port := 0x130, place := .va, n := 8 })) ∧
    (b.extractLsb' 10 6 ≠ 0 ∨ b.extractLsb' 26 38 ≠ 0 → exec (.hmake m) s = .next (s.illegal 0x0A)) ∧
    (64 ≤ b.toNat → exec (.hgive m) s = .next (s.illegal 0x0A)) ∧
    (b.toNat < 64 → s.absent (coreId b.toNat) = true → exec (.hgive m) s = .next (s.raise 0x04 (b.extractLsb' 0 8) (1 <<< b.toNat))) ∧
    (b.toNat < 64 → s.absent (coreId b.toNat) = false → signals (.hgive m) .give a b 0 none) ∧
    signals (.hlend m) .lend a b 0 none ∧ signals (.hpool m) .pool a b 0 none ∧
    signals (.hreclaim m) .reclaim b 0 0 none ∧ signals (.hfree m) .free b 0 0 none)

/-! ### Engine triggers and pops -/

/-- R312 to R314, R154, R155: `ce.cpy` is a signal with the packet of its row; `ce.cinit` acts at the release where the Carafe is idle;
`cf.await` pours a slot and gives its word, `cf.release` is withheld, `cf.stat` gives the state word; where each is illegal or traps. R230,
R159, R334: a pop takes the oldest row not yet taken and delivers it to its slot, its pointer advancing at issue; a push into `aq` is withheld. -/
def Obligations.CopiesCarafesAndQueues : Prop :=
  (∀ (m : Mv) (s : State),
    (s.live m = true →
      let r := s.operandRow m
      let w := s.me.latchW 0x504
      let k := s.me.latchW 0x505
      (r.tag.getLsbD 0 = true → exec (.ceCpy m) s = .next (s.raise 0x03 3)) ∧
      (r.tag.getLsbD 0 = false → LatchesLegal s w k → ∃ t, exec (.ceCpy m) s = .next t ∧
        Leaves s t .va 0 (.signal (.cpy (r.data.extractLsb' 0 512) w k)) [k.toNat] none) ∧
      (r.tag.getLsbD 0 = false → ¬ LatchesLegal s w k → exec (.ceCpy m) s = .next (s.illegal 0x0A))) ∧
    (s.fires m →
      let a := s.me.latchW 0x500
      let b := s.operand m
      let f : Fin 16 := ⟨(b.extractLsb' 0 4).toNat, (b.extractLsb' 0 4).isLt⟩
      let c := s.me.eng.carafes.get f
      let n := (a.extractLsb' 0 6).toNat + 1
      let size := (a.extractLsb' 6 14).toNat
      let base := (a.extractLsb' 20 14).toNat
      let held := s.me.heldReleases f
      let sl := mrd {} c.slots c.p
      let pour := fun (k : Core) => { k with
        eng.carafes := k.eng.carafes.set f { c with p := (c.p + 1) % c.n, nfill := c.nfill - 1, nheld := c.nheld + 1, spec := c.spec + 1 } }
      let cfg := a.extractLsb' 34 30 = 0 ∧ size ≠ 0 ∧ (base + n * size) * 512 ≤ 0x400000
      let idle := c.nasgn = 0 ∧ s.me.eng.cafWaits b.toNat = false
      (16 ≤ b.toNat → ∀ i ∈ [Instr.ceCinit m, .cfAwait m, .cfRelease m, .cfStat m], exec i s = .next (s.illegal 0x0A)) ∧
      (b.toNat < 16 →
        (¬ cfg → exec (.ceCinit m) s = .next (s.illegal 0x0A)) ∧
        (cfg → ¬ idle → exec (.ceCinit m) s = .next (s.raise 0x0C (b.extractLsb' 0 8))) ∧
        (cfg → idle → ∃ t, exec (.ceCinit m) s = .next t ∧ Leaves s t .va 0 (.cinit f a) [] none) ∧
        (c.act = false → exec (.cfAwait m) s = .next (s.raise 0x0C (b.extractLsb' 0 8))) ∧
        (c.act = true → ∃ t, exec (.cfAwait m) s = .next t ∧ Puts (s.modCore s.ctx.core pour) t 0x138 1 1
          (.w (wordOf [(56, sl.status.toNat), (48, c.p % 64), (24, sl.bytes % 2 ^ 24), (0, (c.base + c.p * c.slotsz) * 512 % 2 ^ 23)])) 0) ∧
        (c.act = false ∨ c.nheld ≤ held → exec (.cfRelease m) s = .next (s.raise 0x0C (b.extractLsb' 0 8))) ∧
        (c.act = true → held < c.nheld → ∃ t, exec (.cfRelease m) s = .next t ∧ Withholds s t [(.va, 0, .cfRelease f)]) ∧
        (∃ t, exec (.cfStat m) s = .next t ∧ Puts s t 0x138 1 1 (.w (if c.act then
          wordOf [(63, 1), (56, (c.q + held) % c.n), (48, c.p), (40, c.f), (32, c.n - c.nasgn - c.nfill - c.nheld + held), (24, c.nasgn),
            (16, c.nfill), (8, c.nheld - held)] else 0)) 0)))) ∧
  ((∀ (gs : BitVec 2) (dst : Dst) (s : State) (r : RowT), guardOf s.ctx.hdr s.me.regs gs = true →
    (s.me.eng.yq[s.me.eng.yqSpec]? = some r → ∃ t, exec (.yqPop gs dst) s = .next t ∧
      Pops s t dst r { s.me with eng.yqSpec := s.me.eng.yqSpec + 1 }) ∧
    ∀ u : Fin 4, (s.me.eng.nm.get u).results[(s.me.eng.nm.get u).spec]? = some r → ∃ t, exec (.nmPop u gs dst) s = .next t ∧
      Pops s t dst r { s.me with eng.nm := s.me.eng.nm.set u { s.me.eng.nm.get u with spec := (s.me.eng.nm.get u).spec + 1 } }) ∧
  ∀ (m : Mv) (s : State), s.live m = true → ∃ t, exec (.aqPush m) s = .next t ∧ Withholds s t [(.va, 0, .aqPush (s.operandRow m))])

/-- R160 to R163, R127, R315: a near-memory command is checked in the order of R163 and is a signal with the segments its addresses
translate to; `nfence` is a signal that produces its token. R316: collectives are signals that produce the token of `co.k`; their operands and
latches are checked, then their mask.
The model's choices that it rests on: log 55, log 96. -/
def Obligations.NearCommandsAndCollectivesAreChecked : Prop :=
  ((∀ (u : Fin 4) (m : Mv) (s : State), s.live m = true → ∀ i ∈ [Instr.nmIred u m, .nmFadd u m, .nmIadd u m],
    let x := s.operandRow m
    let r := x.data
    let w := r.extractLsb' 64 64
    let d := BitVec.ofNat 8 u.val
    let full := if nmOpOf r = 1 then 16 ≤ s.me.nmOut u else 64 ≤ s.me.nrf
    let out := exec i s
    (x.tag.getLsbD 0 = true → out = .next (s.raise 0x03 2)) ∧
    (x.tag.getLsbD 0 = false → nmFieldsOk r = false → out = .next (s.raise 0x0D d)) ∧
    (x.tag.getLsbD 0 = false → nmFieldsOk r = true →
      (full → out = .next (s.raise 0x0E d)) ∧
      (¬ full → (2 ≤ (w.extractLsb' 60 4).toNat ∨ (w.extractLsb' 60 4 = 0 ∧ w.extractLsb' 56 4 ≠ 0) ∨
        (w.extractLsb' 60 4 = 1 ∧ w.extractLsb' 29 31 ≠ 0)) → out = .next (s.raise 0x16 0x30)) ∧
      (¬ full → w.extractLsb' 60 4 = 1 → w.extractLsb' 29 31 = 0 → out = .next (s.raise 0x0F d)) ∧
      (¬ full → w.extractLsb' 56 8 = 0 →
        let y := nmTranslate s r
        y.2.sched = s.sched ∧ SameBundle s y.2 ∧
        (∀ d, y.2.core d = { s.core d with
          reports := (y.2.core d).reports, ms := { (s.core d).ms with walks := (y.2.core d).ms.walks, tlb := (y.2.core d).ms.tlb } }) ∧
        (∀ c e a, y.1 = .error (c, e, a) → out = .next (y.2.raiseXl c e a)) ∧
        (∀ segs, y.1 = .ok segs →
          ((∃ g ∈ segs, g.cls ≠ 3) → ∃ p ∈ segOffsets segs 0, p.1.cls ≠ 3 ∧
            (∀ q ∈ segOffsets segs 0, q.1.cls ≠ 3 → rangeAt (nmRanges r) p.2 ≤ rangeAt (nmRanges r) q.2) ∧
            out = .next (y.2.raise 0x0F d (BitVec.ofNat 64 (rangeAt (nmRanges r) p.2)))) ∧
          ((∀ g ∈ segs, g.cls = 3) → ∃ t, out = .next t ∧ Leaves y.2 t .va 0 (.signal (.nmCmd u r segs)) [] none))))) ∧
  ∀ (m : Mv) (s : State), s.fires m →
    let k := s.me.latchW 0x5C0
    (LatchesLegal s 0 k → ∃ t, exec (.nfence m) s = .next t ∧ Leaves s t .va 0 (.signal (.nfence k)) [k.toNat] none) ∧
    (¬ LatchesLegal s 0 k → exec (.nfence m) s = .next (s.illegal 0x0A))) ∧
  (∀ (m : Mv) (s : State), s.fires m → ∀ p ∈ [(0, Instr.allred m), (1, .bcast m), (2, .rgather m)],
    let a := s.me.latchW 0x590
    let c := s.me.latchW 0x591
    let w := s.me.latchW 0x594
    let k := s.me.latchW 0x595
    let b := s.operand m
    let legal := CollLegal p.1 a c b s.ctx.core ∧ LatchesLegal s w k
    (¬ legal → exec p.2 s = .next (s.illegal 0x0A)) ∧
    (legal → TargetTraps s (exec p.2 s) b b) ∧
    (legal → s.maskOk b → ∃ t, exec p.2 s = .next t ∧ Leaves s t .va 0 (.signal (.coll p.1 a c b w k)) [k.toNat] none))

/-- R340 to R343: `cim.call` and `cim.step` are signals that carry `mp0` to `mp7` and produce their tokens, `cim.stat` gives its word as
sampled at issue, `cim.mpsw` acts at the release; where each is illegal, and a word that a routine holds traps. -/
def Obligations.CimTriggersQueueTheirWork : Prop :=
  ∀ (m : Mv) (s : State), s.fires m →
    let a := s.me.latchW 0x548
    let w := s.me.latchW 0x54C
    let k := s.me.latchW 0x54D
    let b := s.operand m
    let mps := (List.range 8).map fun i => s.me.latchW (0x540 + i)
    let progress := (List.range 32).filter fun t => a.getLsbD t
    let c := s.me.eng.cim
    let callOk := b.toNat < 256 ∧ a.extractLsb' 32 32 = 0 ∧ LatchesLegal s w k ∧
      ∀ t ∈ progress, s.me.token t ≠ 1 ∧ t ∉ s.ctx.produced ∧ t ≠ k.toNat
    let stepOk := (∃ i, decodeMicro b = some i) ∧ (b.extractLsb' 58 6).toNat ∉ [0x01, 0x02, 0x03, 0x04, 0x19] ∧ LatchesLegal s w k
    (callOk → ∃ t, exec (.cimCall m) s = .next t ∧
      Leaves s t .va 0 (.signal (.cimCall (b.extractLsb' 0 8) (a.extractLsb' 0 32) w k mps)) (k.toNat :: progress) none) ∧
    (¬ callOk → exec (.cimCall m) s = .next (s.illegal 0x0A)) ∧
    (stepOk → ∃ t, exec (.cimStep m) s = .next t ∧ Leaves s t .va 0 (.signal (.cimStep b w k mps)) [k.toNat] none) ∧
    (¬ stepOk → exec (.cimStep m) s = .next (s.illegal 0x0A)) ∧
    (∃ t, exec (.cimStat m) s = .next t ∧ Puts s t 0x140 1 1
      (.w (wordOf [(63, if c.run.isSome then 1 else 0), (57, s.me.cimQueued), (47, c.ent), (46, if c.stp then 1 else 0),
        (32, (match c.run with | some r => r.mpc | none => c.mpc) % 4096), (24, c.cause), (16, c.mlc.toNat), (8, min c.ckmis 255),
        (0, min c.ckskp 255)])) 0) ∧
    (4096 ≤ a.toNat → exec (.cimMpsw m) s = .next (s.illegal 0x0A)) ∧
    (a.toNat < 4096 → c.pinned a.toNat = true → exec (.cimMpsw m) s = .next (s.raise 0x06 0 a)) ∧
    (a.toNat < 4096 → c.pinned a.toNat = false → ∃ t, exec (.cimMpsw m) s = .next t ∧ Leaves s t .va 0 (.mpsw a.toNat b) [] none)

/-! ### The CIM engine -/

/-- R344, R350: how a routine ends and how it fails: its tokens, `CAUSE`, `MPC`, and the failure that waits for its trap.
The model's choices that it rests on: log 36. -/
def Obligations.RoutinesEndAndFail : Prop :=
  (∀ (k : Core) (call : CimCall) (mpc cause : Nat) (addr : W64) (detail : Byte), (∀ t, call.token = some t → t < 32) →
    let l := k.cimFail call mpc cause addr detail
    (∀ t, t < 32 → l.token t = if (call.token = some t ∨ call.progress.getLsbD t = true) ∧ k.token t = 1 then 3 else k.token t) ∧
    l.eng.cim.run = none ∧ l.eng.cim.cause = cause ∧ l.eng.cim.mpc = mpc ∧
    l.eng.cim.fails = k.eng.cim.fails ++ (if cause = 7 ∨ cause = 8 then [] else [⟨cause, call, mpc, addr, detail⟩]) ∧
    l.eng.cim.macros = k.eng.cim.macros ∧ l.eng.cim.queue = k.eng.cim.queue ∧ l.regs = k.regs ∧ l.loc = k.loc ∧ l.eng.yq = k.eng.yq) ∧
  ∀ (k : Core) (r : Routine), (∀ t, r.call.token = some t → t < 32 ∧ r.call.progress.getLsbD t = false) →
    let l := k.cimEnd r
    let own := fun t => r.call.token = some t ∧ k.token t = 1
    (∀ t, t < 32 → l.token t =
      if r.call.progress.getLsbD t = true ∧ k.token t = 1 then 2
      else if own t ∧ r.wpois = true then 3
      else if own t ∧ k.eng.cim.fills = [] then 2 else k.token t) ∧
    (r.wpois = false → ∀ t, own t → k.eng.cim.fills ≠ [] → (t, k.eng.cim.mlds) ∈ l.eng.cim.owed) ∧
    l.eng.cim.run = none ∧ l.eng.cim.mpc = r.mpc ∧
    (l.eng.cim.fails = k.eng.cim.fails ++ (if r.wpois then [⟨4, { r.call with progress := 0 }, r.mpc, 0, 0⟩] else [])) ∧
    l.eng.cim.macros = k.eng.cim.macros ∧ l.eng.cim.queue = k.eng.cim.queue ∧ l.regs = k.regs ∧ l.loc = k.loc ∧ l.eng.yq = k.eng.yq

/-- R348, R349: the control, register and token words of a routine: where each goes on, waits or fails; none runs on for a task that is killed or
discarded (R353). R338, R334: the configuration words and the words over accumulator rows: the pending fields of `mprc`, the tensor scales and
the activation scale latch of `mscl`, the rows that `mout` appends while `yq` has room, and the tags that `mpoi` changes. R62: rows that a release
of this cycle wrote are met old or new, element by element; other rows as they are.
The model's choices that it rests on: log 17, log 34. -/
def Obligations.MicroControlConfigurationAndRowWords : Prop :=
  (∀ (s : State) (r : Routine) (i : Instr) (w : W64), encodeMicro i = some w → s.seqCim.run = some r → s.seqCore.cimStops = true →
    exec i s = .next (s.modCore s.cur.core Core.stopCim)) ∧
  (∀ (s : State) (c : CoreId) (l : List Nat),
    let k := s.core c
    let e := s.engRows c l
    e.1.length = l.length ∧
    (∀ (j q : Nat), l[j]? = some q → ∃ v, e.1[j]? = some v ∧ (freshRow k.loc.fresh q = none → v = k.rowAt q) ∧
      ∀ o, freshRow k.loc.fresh q = some o → (v.tag = o.tag ∨ v.tag = (k.rowAt q).tag) ∧
        ∀ n, n < 128 → laneBv 32 v.data n = laneBv 32 o.data n ∨ laneBv 32 v.data n = laneBv 32 (k.rowAt q).data n) ∧
    e.2.core c = { k with loc.ceRows := k.loc.ceRows.filter fun q => decide (q ∉ l) } ∧ SameOthers c s e.2 ∧ e.2.mem = s.mem ∧ e.2.sched = s.sched) ∧
  (∀ (s : State) (r : Routine), s.seqCim.run = some r → s.seqCore.cimStops = false →
    let reg := fun (x : BitVec 3) => r.ma.get ⟨x.toNat, x.isLt⟩
    let k := s.seqCore
    let on := fun (i : Instr) (r' : Routine) => exec i s = .next (s.goes r r' (r.mpc + 1))
    on .mnop r ∧
    exec .mend s = .next (s.modCore s.cur.core fun k => k.cimEnd r) ∧
    (∀ (x : BitVec 3) (tgt : BitVec 12),
      exec (.mjmp 0 x tgt) s = .next (s.goes r r tgt.toNat) ∧
      exec (.mjmp 1 x tgt) s = .next (s.goes r r (if reg x = 0 then tgt.toNat else r.mpc + 1)) ∧
      exec (.mjmp 2 x tgt) s = .next (s.goes r r (if reg x = 0 then r.mpc + 1 else tgt.toNat)) ∧
      exec (.mjmp 3 x tgt) s = .next (s.fails r 1 0)) ∧
    (∀ (l : BitVec 2) (x : BitVec 3) (n : BitVec 24),
      on (.mlpi l 0 x n) { r with ml := r.ml.set l.toNat n l.isLt, beg := r.beg.set l.toNat (r.mpc + 1) l.isLt } ∧
      on (.mlpi l 1 x n) { r with ml := r.ml.set l.toNat ((reg x).extractLsb' 0 24) l.isLt, beg := r.beg.set l.toNat (r.mpc + 1) l.isLt }) ∧
    (∀ l : BitVec 2,
      let n := r.ml.get ⟨l.toNat, l.isLt⟩
      let b := r.beg.get ⟨l.toNat, l.isLt⟩
      exec (.mlpe l) s = .next (if b = 0 then s.goes r r 0
        else if 1 < n.toNat then s.goes r { r with ml := r.ml.set l.toNat (n - 1) l.isLt } b
        else s.goes r { r with ml := r.ml.set l.toNat 0 l.isLt } (r.mpc + 1))) ∧
    (∀ (d p : BitVec 3) (hi : BitVec 1) (imm : BitVec 32),
      on (.mset d 0 p hi imm) { r with ma := r.ma.set d.toNat imm d.isLt } ∧
      (let v := (r.call.mps.getD p.toNat 0).extractLsb' (if hi = 1 then 32 else 0) 32
       on (.mset d 1 p hi imm) { r with ma := r.ma.set d.toNat v d.isLt }) ∧
      on (.madd d p imm) { r with ma := r.ma.set d.toNat (reg p + imm) d.isLt }) ∧
    (∀ n : BitVec 5,
      (16 < n.toNat → exec (.mwtq 0 n) s = .next (s.fails r 1 0) ∧ exec (.mwtq 1 n) s = .next (s.fails r 1 0)) ∧
      (n.toNat ≤ 16 →
        exec (.mwtq 0 n) s = .next (if n.toNat ≤ k.eng.aq.length then s.goes r r (r.mpc + 1) else s) ∧
        exec (.mwtq 1 n) s = .next (if n.toNat ≤ 16 - k.eng.yq.length then s.goes r r (r.mpc + 1) else s))) ∧
    ∀ t : BitVec 5,
      exec (.mtkw t) s = .next (if k.token t.toNat = 1 then s else if k.token t.toNat = 3 then s.fails r 7 0 else s.goes r r (r.mpc + 1)) ∧
      (r.call.progress.getLsbD t.toNat = false ∨ k.token t.toNat ≠ 1 → exec (.mtok t) s = .next (s.fails r 1 0)) ∧
      (r.call.progress.getLsbD t.toNat = true → k.token t.toNat = 1 →
        if k.eng.cim.fills = [] then exec (.mtok t) s = .next ((s.modCore s.cur.core fun k => k.setToken t.toNat 2).goes r (r.settled t.toNat) (r.mpc + 1))
        else exec (.mtok t) s = .next ((s.modCore s.cur.core fun k =>
          { k with eng.cim.owed := k.eng.cim.owed ++ [(t.toNat, k.eng.cim.mlds)] }).goes r r (r.mpc + 1)))) ∧
  (∀ (s : State) (r : Routine), s.seqCim.run = some r → s.seqCore.cimStops = false →
    let k := s.seqCore
    let c := s.cur.core
    let on := fun (i : Instr) (f : Cim → Cim) => exec i s = .next ((s.modCore c fun k => { k with eng.cim := f k.eng.cim }).goes r r (r.mpc + 1))
    (∀ v : BitVec 34, ∃ p : CimCfg, on (.mprc v) (fun x => { x with pending := p }) ∧ p.tw = s.seqCim.pending.tw ∧ p.ta = s.seqCim.pending.ta ∧
      p.wfmt = (v.extractLsb' 30 4).toNat ∧ p.afmt = (v.extractLsb' 26 4).toNat ∧ p.ww = (v.extractLsb' 22 4).toNat ∧
      p.wa = (v.extractLsb' 18 4).toNat ∧ p.wsg = v.getLsbD 17 ∧ p.asg = v.getLsbD 16 ∧ p.tree = v.getLsbD 15 ∧
      p.prm = (v.extractLsb' 13 2).toNat ∧ p.cke = v.getLsbD 12 ∧ p.wbs = (v.extractLsb' 10 2).toNat ∧ p.abs = (v.extractLsb' 8 2).toNat ∧
      p.pint = (v.extractLsb' 0 8).toNat) ∧
    (∀ (x : BitVec 3) (imm : BitVec 32),
      let a := r.ma.get ⟨x.toNat, x.isLt⟩
      let ok := a.toNat % 8 = 0 ∧ a.toNat + 32 ≤ 0x400000
      let owned := ∀ i, i < 32 → granuleOk c k (some c) 0 ((a.toNat + i) / 4096) = true
      on (.mscl 0 x imm) (fun y => { y with pending := { y.pending with tw := imm } }) ∧
      on (.mscl 1 x imm) (fun y => { y with pending := { y.pending with ta := imm } }) ∧
      exec (.mscl 3 x imm) s = .next (s.fails r 1 0) ∧
      (2 ≤ imm.toNat → exec (.mscl 2 x imm) s = .next (s.fails r 1 0)) ∧
      (imm.toNat < 2 →
        (¬ ok → exec (.mscl 2 x imm) s = .next (s.fails r 5 (a.setWidth 64))) ∧
        (ok → ¬ owned → ∃ o, exec (.mscl 2 x imm) s = .next (s.fails r 6 (BitVec.ofNat 64 o) (ownDetail (k.ownState o) 0 false))) ∧
        (ok → owned → exec (.mscl 2 x imm) s = .next ((((s.bankRead c a.toNat 32).2.modCim c fun y =>
          let l := some ((List.range 32).map fun i => k.scratchByte (a.toNat + i))
          if imm = 0 then { y with scaleLo := l } else { y with scaleHi := l })).goes r r (r.mpc + 1))))) ∧
    (∀ (x : BitVec 3) (n : BitVec 7),
      let need := n.toNat + 1 - r.rowsOut
      let room := 16 - k.eng.yq.length
      let u := fun m =>
        let e := s.engRows c ((List.range m).map fun i => r.rowNo x (r.rowsOut + i))
        e.2.modCore c fun k => { k with eng.yq := k.eng.yq ++ e.1 }
      exec (.mout x n) s = .next (if need ≤ room then (u need).goes r { r with rowsOut := 0 } (r.mpc + 1)
        else (u room).modCore c fun k => { k with eng.cim.run := some { r with rowsOut := r.rowsOut + room } })) ∧
    ∀ (x : BitVec 3) (n : BitVec 7) (clr : BitVec 1) (b : BitVec 6),
      let e := s.engRows c ((List.range (n.toNat + 1)).map (r.rowNo x))
      ∃ l, exec (.mpoi x n clr b) s = .next ((e.2.setCore c l).goes r r (r.mpc + 1)) ∧
        l.eng = { k.eng with cim.fresh := l.eng.cim.fresh } ∧
        RowsOnly k { l with eng := k.eng } fun q => ((List.range (n.toNat + 1)).find? fun i => r.rowNo x i = q).map fun i =>
          let v := e.1.getD i RowT.zero
          ⟨v.data, (if clr = 1 then v.tag &&& ~~~(b.setWidth 8)
            else v.tag ||| b.setWidth 8 ||| (if b.extractLsb' 1 4 = 0 then 0 else 1)) &&& 0x3F⟩)

/-- R333, R346, R349: the words over a range of macros: where the range fails, the bank mode, the pattern, the clear, the fills of `mld`, the
exchange and the wait of `mswp`.
The model's choices that it rests on: log 17. -/
def Obligations.MicroMacroWords : Prop :=
  ∀ (s : State) (r : Routine), s.seqCim.run = some r → s.seqCore.cimStops = false → ∀ mf mnm1 : BitVec 7,
    let k := s.seqCore
    let c := s.cur.core
    let on := fun (i : Instr) (f : Macro → Macro) => ∃ l, exec i s = .next ((s.setCore c l).goes r r (r.mpc + 1)) ∧ EachMacro s l mf mnm1 f ∧
      l.loc = k.loc ∧ l.eng.cim.fresh = k.eng.cim.fresh
    (∀ mode, RangeFails s r (exec (.mmod mf mnm1 mode) s) mf mnm1 true ∧
      (RangeOk s mf mnm1 true → on (.mmod mf mnm1 mode) (fun m => { m with pendScratch := mode = 1 }))) ∧
    (∀ pat, RangeFails s r (exec (.msel mf mnm1 pat) s) mf mnm1 false ∧
      (RangeOk s mf mnm1 false → 5 < pat.toNat → exec (.msel mf mnm1 pat) s = .next (s.fails r 1 0)) ∧
      (RangeOk s mf mnm1 false → pat.toNat ≤ 5 → on (.msel mf mnm1 pat) (fun m => { m with pat := pat.toNat }))) ∧
    (∀ rows x nr, RangeFails s r (exec (.mclr mf mnm1 rows x nr) s) mf mnm1 false ∧
      (RangeOk s mf mnm1 false → ∃ l, exec (.mclr mf mnm1 rows x nr) s = .next ((s.setCore c l).goes r r (r.mpc + 1)) ∧
        EachMacro s l mf mnm1 (fun m =>
          { m with na := [], ckAcc := [], ovf := [], runTag := 0, count := 0, runs := [], data := [], promoted := false, nanMet := [], memErr := [], ckBad := false }) ∧
        RowsOnly k { l with eng := k.eng } fun q => if rows = 1 ∧ ∃ i, i ≤ nr.toNat ∧ r.rowNo x i = q then some RowT.zero else none)) ∧
    (∀ x, let a := (r.ma.get ⟨x.toNat, x.isLt⟩).toNat
      RangeFails s r (exec (.mld mf mnm1 x) s) mf mnm1 false ∧
      (RangeOk s mf mnm1 false → 2 ^ 23 ≤ a → exec (.mld mf mnm1 x) s = .next (s.fails r 5 (BitVec.ofNat 64 a))) ∧
      (RangeOk s mf mnm1 false → a < 2 ^ 23 → exec (.mld mf mnm1 x) s = .next ((s.modCore c fun k => { k with
        eng.cim.mlds := k.eng.cim.mlds + 1
        eng.cim.fills := k.eng.cim.fills ++ (List.range (mnm1.toNat + 1)).map fun i =>
          { macr := mf.toNat + i, cfg := k.eng.cim.active, group := k.eng.cim.mlds + 1, descOff := a + 64 * i, domain := k.domain } }).goes r r (r.mpc + 1)))) ∧
    RangeFails s r (exec (.mswp mf mnm1) s) mf mnm1 false ∧
    (RangeOk s mf mnm1 false →
      let filling := ∃ f ∈ k.eng.cim.fills, macroIn mf mnm1 f.macr
      (filling → ∃ fs, exec (.mswp mf mnm1) s = .next (s.modCore c fun k => { k with eng.cim.fills := fs }) ∧
        fs.map (fun f => { f with idle := 0 }) = k.eng.cim.fills.map (fun f => { f with idle := 0 })) ∧
      (¬ filling → (∃ m, macroIn mf mnm1 m ∧ ((k.eng.cim.macro' m).half 1).bad = true) → exec (.mswp mf mnm1) s = .next (s.fails r 9 0)) ∧
      (¬ filling → (∀ m, macroIn mf mnm1 m → ((k.eng.cim.macro' m).half 1).bad = false) →
        on (.mswp mf mnm1) (fun m => { m with swapped := !m.swapped })))

/-- R323 to R332, R346: broadcasts, promotions and checks: where they fail or wait, what they leave to each macro, to the accumulator row
and to the counters; a broadcast of integers adds the products of its window modulo 2^26, and an integer promotion saturates.
The model's choices that it rests on: log 17, log 59, log 70, log 71. -/
def Obligations.BroadcastsPromotionsAndChecks : Prop :=
  (∀ (s : State) (r : Routine), s.seqCim.run = some r → s.seqCore.cimStops = false → ∀ mf mnm1 : BitVec 7,
    let k := s.seqCore
    let c := s.cur.core
    let g := k.eng.cim
    let bad := if r.call.step.isSome then g.active.invalid else none
    let ms := (List.range (mnm1.toNat + 1)).map (mf.toNat + ·)
    (∀ grp lane0 src x,
      let i := Instr.mbc mf mnm1 grp lane0 src x
      let e := s.engRows c (if src = 2 then [r.rowNo x 0] else [])
      RangeFails s r (exec i s) mf mnm1 false ∧
      (RangeOk s mf mnm1 false → (∀ n, bad = some n → exec i s = .next (s.fails r n 0)) ∧
        (bad = none → src = 3 → exec i s = .next (s.fails r 1 0)) ∧
        (bad = none → src = 1 → k.eng.aq = [] → exec i s = .next s) ∧
        (bad = none → src ≠ 3 → ∀ v, (src = 0 → v = g.latch) → (src = 1 → k.eng.aq.head? = some v) → (src = 2 → e.1 = [v]) →
          let lat := if src = 0 ∧ g.latchQ ≠ [] then ⟨g.latchQ, g.latchK, g.latchBa, g.latch.tag⟩ else latchRow g.active v
          let check := ms.foldl (fun (a : Except Nat Routine) m => a.bind fun y =>
            mbcCheck g g.active lat grp.toNat lane0.toNat y (g.macro' m)) (.ok r)
          (∀ n, check = .error n → exec i s = .next (s.fails r n 0)) ∧
          ∀ r', check = .ok r' → ∃ l, exec i s = .next ((e.2.setCore c l).goes r r' (r.mpc + 1)) ∧
            l = { e.2.core c with eng := l.eng } ∧ l.eng = { k.eng with cim := l.eng.cim, aq := if src = 1 then k.eng.aq.tail else k.eng.aq } ∧
            l.eng.cim = { g with macros := l.eng.cim.macros, latch := ⟨v.data, lat.tag⟩, latchQ := lat.q, latchK := lat.k, latchBa := lat.ba } ∧
            (∀ m, macroIn mf mnm1 m → l.eng.cim.macro' m = (g.macro' m).mbc g.active lat (g.actCode lat.ba) grp.toNat lane0.toNat) ∧
            ∀ m, ¬ macroIn mf mnm1 m → l.eng.cim.macro' m = g.macro' m))) ∧
    (∀ stk x lo of_ onm1,
      let i := Instr.mprm mf mnm1 stk x lo of_ onm1
      let cfg := g.active
      let lanes := if cfg.tree then 4096 else if cfg.prm = 1 then 64 else 128
      let first := if cfg.tree then 32 * lo.toNat else lo.toNat
      let last := first + (if stk = 1 then 0 else mnm1.toNat * (onm1.toNat + 1)) + onm1.toNat
      RangeFails s r (exec i s) mf mnm1 false ∧
      (RangeOk s mf mnm1 false → (∀ e, bad = some e → exec i s = .next (s.fails r e 0)) ∧
        (bad = none → 256 / cfg.ww ≤ of_.toNat + onm1.toNat ∨ lanes ≤ last → exec i s = .next (s.fails r 1 0)) ∧
        (bad = none → of_.toNat + onm1.toNat < 256 / cfg.ww → last < lanes →
          let e := s.engRows c [r.rowNo x 0]
          let old := e.1.getD 0 RowT.zero
          ∃ l w, exec i s = .next ((e.2.setCore c l).goes r { r with wpois := r.wpois || w } (r.mpc + 1)) ∧
            EachMacro s l mf mnm1 (fun m => m.captured (m.promotes of_.toNat (onm1.toNat + 1))) ∧
            (w = true ↔ ∃ m, macroIn mf mnm1 m ∧ ∃ o ∈ (g.macro' m).promotes of_.toNat (onm1.toNat + 1), o ∈ (g.macro' m).memErr) ∧
            let runs := ms.zipIdx.flatMap fun p => ((g.macro' p.1).promotes of_.toNat (onm1.toNat + 1)).flatMap fun o =>
              (g.macro' p.1).runs.map fun b => (⟨prmLane cfg (stk = 1) lo.toNat onm1.toNat p.2 (o - of_.toNat), b.2.k, p.1, b.1,
                mrd 0 (g.macro' p.1).na (o * 8 + b.1), b.2, o⟩ : Contribution)
            let sum := applyRuns cfg old.data (sortBy Contribution.before runs)
            ∃ v, v.data = sum.1 ∧
              (∀ n, n < 8 → (v.tag.getLsbD n = true ↔ n < 6 ∧ (old.tag.getLsbD n = true ∨ sum.2.getLsbD n = true ∨
                ∃ m, macroIn mf mnm1 m ∧ ((g.macro' m).runTag.getLsbD n = true ∨
                  ∃ o ∈ (g.macro' m).promotes of_.toNat (onm1.toNat + 1), ((g.macro' m).promoTag o).getLsbD n = true)))) ∧
              RowsOnly k { l with eng := k.eng } fun q => if q = r.rowNo x 0 then some v else none))) ∧
    RangeFails s r (exec (.mchk mf mnm1) s) mf mnm1 false ∧
    (RangeOk s mf mnm1 false → (∀ e, bad = some e → exec (.mchk mf mnm1) s = .next (s.fails r e 0)) ∧
      (bad = none →
        let skipped := (ms.filter fun m => (g.macro' m).ckSkipped).length
        let found := fun m => if (g.macro' m).ckSkipped then [] else (g.macro' m).mismatches g.active
        let total := (ms.map fun m => (found m).length).sum
        ∃ (l : Core) (recs : List ErrRec), exec (.mchk mf mnm1) s = .next (({ s.setCore c l with hk := { s.hk with recs := recs.foldl queueRec s.hk.recs } }).goes r r (r.mpc + 1)) ∧
          recs.length = total ∧ l = { k with eng.cim := l.eng.cim } ∧
          l.eng.cim = { g with
            macros := l.eng.cim.macros
            ckskp := if skipped = 0 then g.ckskp else min 255 (g.ckskp + skipped)
            ckmis := if total = 0 then g.ckmis else min 255 (g.ckmis + total) } ∧
          ∀ m, l.eng.cim.macro' m = if m ∈ ms ∧ found m ≠ [] then { g.macro' m with runTag := (g.macro' m).runTag ||| 0x11 } else g.macro' m))) ∧
  (∀ (m : Macro) (c : CimCfg) (lat : Latched) (code : Nat → Option Byte) (g lane0 : Nat),
    c.tree = false → c.blockMode = false → m.pat = 0 → c.afmt = 0 →
    (∀ j, if c.asg then -(2 ^ (c.wa - 1) : Int) ≤ lat.q.getD j 0 ∧ lat.q.getD j 0 < 2 ^ (c.wa - 1) else 0 ≤ lat.q.getD j 0 ∧ lat.q.getD j 0 < 2 ^ c.wa) →
    1 ≤ c.wa → ∀ o, o < 256 / c.ww →
      (mrd 0 (m.mbc c lat code g lane0).na (o * 8)) % 2 ^ 26 =
        (mrd 0 m.na (o * 8) + ((List.range 64).map fun i => weightOf c ((m.half 0).rowBits (64 * g + i)) o * lat.q.getD (lane0 + i) 0).sum) % 2 ^ 26) ∧
  ∀ (acc : Nat) (p : Contribution), acc < 2 ^ 32 →
    let x := (BitVec.ofNat 32 acc).toInt + p.i
    let v := max (-(2 ^ 31 : Int)) (min (2 ^ 31 - 1) x)
    promoteInt 32 acc p = ((BitVec.ofInt 32 v).toNat, if v = x then 0 else 0x09)

/-! ### Events of a core's pipeline -/

/-- R213, R215, R246, R310, R396, R220: due results land in trigger order; a variable-latency result is performed, then lands, unless a later
trigger of its port overtook it; a walk fills the TLBs and serves every miss of its grove on the page, each of which takes its place or a report
(R44, R45); a boundary takes an error that no tag covers (R407), else what was asked, else the oldest report, else the first failure of the
CIM engine; after an issued `end` bundle only a report of its interval.
The model's choices that it rests on: log 15, log 73, log 81. -/
def Obligations.LandingsWalksAndBoundaryTraps : Prop :=
  ∀ s : State,
    let c := s.cur.core
    let k := s.core c
    let i := s.cur.k
    (∃ l, exec .resultLanding s = .next (s.setCore c l) ∧ SameProgram k l ∧ l.ms = k.ms ∧ l.tr.latches = k.tr.latches ∧ l.tr.tiles = k.tr.tiles ∧
      (∀ p, l.port p = (k.tr.inflight.filter fun f => decide (f.port = p ∧ f.wait = 0)).foldl (fun v f => f.landed v) (k.port p)) ∧
      ∀ f, f ∈ l.tr.inflight ↔ ∃ j, k.tr.inflight[j]? = some f ∧ f.wait ≠ 0 ∧
        ∀ (n : Nat) (g : Inflight), j < n → k.tr.inflight[n]? = some g → g.wait = 0 → g.port ≠ f.port) ∧
    (∀ p, k.ms.pend[i]? = some p →
      let lands := fun (v : Val) => ∃ l, exec .variableResultLanding s = .next (s.setCore c l) ∧ SameProgram k l ∧ l.tr.inflight = k.tr.inflight ∧
        l.tr.latches = k.tr.latches ∧ l.ms = { k.ms with pend := k.ms.pend.filter fun q => q.id ≠ p.id } ∧
        ∀ q, l.port q = if q = p.port ∧ p.dead = false then v else k.port q
      (∀ v, p.got = some v → lands v) ∧
      (∀ segs, p.got = none → p.place = .glob segs → p.n ≠ 0 → k.untranslated p.whN = false → s.cur.v ≠ 0 →
        exec .variableResultLanding s = .next (s.captureWord c p ((s.cur.v.toNat - 1) % 64))) ∧
      (∀ segs, p.got = none → p.place = .glob segs → p.n ≠ 0 → k.untranslated p.whN = false → s.cur.v = 0 → p.noFill = false →
        k.fillWaits segs = true → exec .variableResultLanding s = .next s) ∧
      (∀ segs, p.got = none → p.place = .glob segs → p.n ≠ 0 → k.untranslated p.whN = false → s.cur.v = 0 →
        (p.noFill = true ∨ k.fillWaits segs = false) → ∀ o, s.gladeGone c segs = some o →
        exec .variableResultLanding s = .next (s.setCore c { k with
          reports := k.reports ++ [reportOf p.org 0x17 (xlDetail .load (k.levelOf p.ea)) (p.ea + BitVec.ofNat 64 o)]
          ms.pend := k.ms.pend.filter fun q => q.id ≠ p.id })) ∧
      (∀ segs, p.got = none → p.place = .glob segs → p.n ≠ 0 → k.untranslated p.whN = false → s.cur.v = 0 →
        (p.noFill = true ∨ k.fillWaits segs = false) → s.gladeGone c segs = none →
        let r := s.readRest c p
        (p.part = [] → (segs.map Seg.len).sum = p.n → r = s.loadGlobal c (!p.noFill) p.row p.whN (sliceSegs 0 p.n segs)) ∧
        ∃ t, exec .variableResultLanding s = .next t ∧ SameOthers c s t ∧ t.sched = s.sched ∧ (t.core c).regs = k.regs ∧
          (t.core c).loc = k.loc ∧ (t.core c).eng = k.eng ∧ (t.core c).tr = k.tr ∧
          (t.core c).ms.pend = gotResult k.ms.pend p.id (loadVal p.row p.signed r.2.1 p.n r.1) ∧
          (t.core c).reports = k.reports ++ (if r.2.1 && !p.row then [reportOf p.org 0x03 5 p.ea] else [])) ∧
      (∀ g, p.got = none → p.place = .loc g →
        let earlier := (∃ w ∈ k.ms.comm, w.id < p.id ∧ ∃ x, w.what = .signal x) ∨
          ∃ r, k.ms.releasing = some r ∧ ∃ e ∈ r.effs, e.id < p.id ∧ ∃ x, e.what = .signal x
        (¬ earlier → lands (.w (s.groupMask c g))) ∧ (earlier → exec .variableResultLanding s = .next s))) ∧
    (∀ w, k.ms.walks[i]? = some w →
      let ms := s.misses (groveOf c)
      (s.missAt c k.domain w.ea.toNat w.n = none → exec .translationWalk s = .next (s.settleWalk c false w)) ∧
      ∀ a, s.missAt c k.domain w.ea.toNat w.n = some a →
        let y := s.walkGrove c k.domain a
        let joined := ms.filter fun m => decide (m.2.2.1 = k.domain ∧ m.2.2.2.1 = a / 65536)
        (s.walkRuns (groveOf c) k.domain (a / 65536) = false → exec .translationWalk s = .next s) ∧
        (s.walkRuns (groveOf c) k.domain (a / 65536) = true → ∃ t, exec .translationWalk s = .next t ∧ t.sched = s.sched ∧
          (∀ cc lv, y.1 = .fault cc lv → ∀ m ∈ joined,
            let v := m.2.2.2.2
            (∃ code d x, reportOf v.org code d x ∈ (t.core m.2.1).reports) ∧
            (v.ea.toNat / 65536 = a / 65536 → (s.core m.2.1).task.bind Task.noCtx = none →
              reportOf v.org cc (xlDetail v.kind lv) v.ea ∈ (t.core m.2.1).reports) ∧
            ∀ x ∈ (t.core m.2.1).ms.walks, x.id ≠ v.id) ∧
          ∀ e lv pa, y.1 = .leaf e lv pa → joined = [(w.since, c, k.domain, a / 65536, w)] → t = y.2.settleWalk c false w)) ∧
    (∀ (w : Walk) (walk : Bool),
      let r := s.transCore c k.domain w.kind walk w.ea w.n
      let l := (s.settleWalk c walk w).core c
      (r.1 = .miss → s.settleWalk c walk w = r.2) ∧
      (∀ segs, r.1 = .ok segs → SameProgram (r.2.core c) l ∧ l.tr = k.tr ∧ (∀ x ∈ l.ms.walks, x.id ≠ w.id) ∧
        (l.ms.wh = k.ms.wh.map fun x => if x.id = w.id then { x with place := .glob segs } else x) ∧
        (s.settleWalk c walk w).ctx.effs =
          if s.ctx.core = c then s.ctx.effs.map fun e => if e.id = w.id then { e with place := .glob segs } else e else s.ctx.effs) ∧
      (∀ code d a, r.1 = .fault code d a → ((r.2.core c).ms.walks.any fun x => x.id = w.id) = true →
        l.reports = (r.2.core c).reports ++ [reportOf w.org code d a] ∧
          l.ms.walks = ((r.2.core c).ms.walks.filter fun x => x.id ≠ w.id) ∧ l.ms.wh = k.ms.wh ∧ l.ms.pend = k.ms.pend)) ∧
    (s.canIssue c = true →
      (∀ u a l, k.fatal = (u, a) :: l → ∃ t e, exec .trapEntry s = .next t ∧ (t.core c).ending = some .killed ∧ (t.core c).fatal = l ∧
        (t.core c).regs = k.snap.regs ∧ t.mem = s.mem ∧ SameOthers c s t ∧
        t.hk = { s.hk with recs := queueRec s.hk.recs e } ∧ e.event = 0x0D ∧ e.unit = u ∧ e.core = some c.val) ∧
      (∀ e, k.fatal = [] → k.endIssued = false → k.asked = some e → ∃ t, exec .trapEntry s = .next t ∧ (t.core c).ending = some e ∧
        (t.core c).regs = k.snap.regs ∧ (t.core c).ms.wh = [] ∧ (t.core c).task = k.task ∧ t.mem = s.mem ∧ SameOthers c s t) ∧
      (k.fatal = [] → (k.asked = none ∨ k.endIssued = true) → (∃ r ∈ k.reports, k.takes r) → ∃ r ∈ k.reports, k.takes r ∧ (∀ q ∈ k.reports, k.takes q → r.notAfter q) ∧
        exec .trapEntry s = .next ((s.setCore c { k with reports := k.reports.filter (· ≠ r) }).takeTrap c r.seq r.trap)) ∧
      (k.fatal = [] → k.endIssued = true → (∀ r ∈ k.reports, ¬ k.takes r) → exec .trapEntry s = .next s) ∧
      (k.fatal = [] → k.endIssued = false → k.asked = none → (∀ r ∈ k.reports, ¬ k.takes r) → k.mode.handler = false → ∀ f fs, k.eng.cim.fails = f :: fs →
        ∃ x : Trap, exec .trapEntry s = .next ((s.setCore c { k with eng.cim.fails := fs }).takeTrap c f.call.org.seq x) ∧
          x.code = (([(1, (0x18 : Byte)), (2, 0x19), (3, 0x1A), (4, 0x1B), (5, 0x08), (6, 0x09)].lookup f.cause).getD 0x1C) ∧
          x.isDef = true ∧ x.eng = true ∧ x.detail = f.detail ∧ x.addr = f.addr ∧ x.pc = f.call.org.pc ∧ x.slot = BitVec.ofNat 4 f.call.org.slot ∧
          x.mpc = if f.call.step.isSome then BitVec.allOnes 64 else BitVec.ofNat 64 f.mpc))

/-- R13, R112, R118, R128, R220, R267, R404, R405: a release that nothing holds commits its interval: withheld stores reach memory in order,
the rows written through `v` registers too (R104), pops become final, and outside the handler the new snapshot is taken; after `l1inv` it waits
until every dirty line may be written back, then empties the L1. Where
the signatures of a lockstep pair differ the interval is rolled back and recorded, and the third time in a row the pair is quarantined.
What each withheld effect and each effect of the release commits: local bytes with their marks, what leaves the core for a home core or for its
point by class (R84, R102, R117), return-free atomics, `drain`, `rel`, `cf.release`, `aq` pushes; `csrw`, `end`, `kfree`, `tlbinv`, `cinit`, `mpsw` and
the signals, whose tokens become pending and whose waits are evaluated (R122).
The model's choices that it rests on: log 18, log 19, log 20, log 46, log 92, log 94. -/
def Obligations.ReleasesCommitTheInterval : Prop :=
  (∀ (s : State) (r : Release),
    let c := s.cur.core
    let k := s.core c
    let differ := s.cur.flag = true ∧ s.lockstep (groveOf c) = true ∧ c.val % 2 = 0
    let out := exec .checkpointRelease s
    k.ms.releasing = some r →
    (r.committed = true → k.l1Free = false → out = .next s) ∧
    (r.committed = true → k.l1Free = true → ∃ t, out = .next t ∧ (t.core c).ms.l1 = [] ∧ (t.core c).ms.fifo = [] ∧
      (t.core c).ms.releasing = none ∧ SameProgram k (t.core c) ∧ SameOthers c s t ∧ t.sched = s.sched) ∧
    (r.committed = false → k.releaseHeld r = true → out = .next s) ∧
    (r.committed = false → k.releaseHeld r = false → ¬ differ → r.eret = false → ∃ t, out = .next t ∧
      let l := t.core c
      l.ms.wh = [] ∧ l.eng.yqSpec = 0 ∧ (∀ u, (l.eng.nm.get u).spec = 0) ∧ l.mode = { k.mode with retries := 0, openSeq := k.seq } ∧ l.traps = k.traps ∧
      l.pc = k.pc ∧
      l.ms.releasing = (let l1 := r.effs.filter fun e => decide (e.what = .l1inv)
        if l1 = [] then none else some { r with effs := l1, committed := true }) ∧
      (k.mode.handler = false → l.snap.regs = l.regs ∧ l.snap.resume = r.resume ∧ l.loc.written = [] ∧
        ∀ i : BitVec 6, (l.vRow i, l.rowAt (l.vRow i)) ∈ l.snap.rows) ∧
      (k.mode.handler = true → l.snap = k.snap) ∧
      ((∀ w ∈ k.ms.wh, w.inScratch) → r.effs = [] → SameDevice s t ∧ SameOthers c s t ∧ l.regs = k.regs ∧ (k.wf = true → ∀ q, l.rowAt q = k.vAt q) ∧
        l.ms.comm = k.ms.comm ∧ l.own = k.own ∧ ∀ a, a < 0x400000 → l.scratchByte a = (storedAt k.ms.wh a).getD (k.scratchByte a))) ∧
    (r.committed = false → k.releaseHeld r = false → differ → ∃ t, out = .next t ∧
      let l := t.core c
      l.regs = k.snap.regs ∧ l.pc = k.snap.resume ∧ l.ms.wh = [] ∧ l.ms.releasing = none ∧ l.loc.scratch = k.loc.scratch ∧ t.mem = s.mem ∧
      ∃ e, e.event = 0x09 ∧ e.core = some c.val ∧ e.addr = r.pc &&& 0xFFFFFFFFFFFFE0 ∧
        (k.mode.retries < 2 → l.mode.retries = k.mode.retries + 1 ∧ l.ending = k.ending ∧ t.hk.recs = queueRec s.hk.recs e) ∧
        (2 ≤ k.mode.retries → l.mode.quarantined = true ∧ (t.core (coreId (c.val + 1))).mode.quarantined = true ∧
          l.ending = some (if k.task.any (fun x => x.idem) then .discarded false else .killed) ∧
          ∃ f, f.event = 0x0A ∧ t.hk.recs = queueRec (queueRec s.hk.recs e) f)) ∧
    (r.committed = false → k.releaseHeld r = false → ¬ differ → r.eret = false → (∀ p ∈ k.ms.pend, p.got = none → k.overlapsWithheld p = false) →
      let start := s.setCore c { k.commitPops.commitV with ms.wh := [], ms.pend := k.ms.pend.map fun (p : Pend) => { p with whN := 0 } }
      let stores := k.ms.wh.foldl (fun u w => u.commitWithheld c k.seq w) start
      let all := r.effs.foldl (fun u e => u.commitEff c k.seq e) stores
      ∃ t, out = .next t ∧ t.mem = all.mem ∧ t.hk = all.hk ∧ t.sched = all.sched ∧ SameOthers c all t ∧
        (t.core c).ms.comm = (all.core c).ms.comm ∧ (t.core c).ms.l1 = (all.core c).ms.l1 ∧ (t.core c).loc.scratch = (all.core c).loc.scratch ∧
        (t.core c).eng = (all.core c).eng ∧ (t.core c).regs = (all.core c).regs ∧ (t.core c).ctrl = (all.core c).ctrl ∧
        (t.core c).ending = (all.core c).ending)) ∧
  (∀ (s : State) (c : CoreId) (batch : Nat) (w : Withheld),
    let k := s.core c
    let t := s.commitWithheld c batch w
    let l := t.core c
    let item := fun (pl : Place) (what : CommKind) => ({ id := w.id, org := w.org, place := pl, ea := w.ea, batch := batch, what := what } : Comm)
    let clear := fun (segs : List Seg) => (∀ x ∈ segLines segs, k.ms.l1.find? (lineIs x.1 x.2) = none) ∧ ∀ d ∈ k.ms.comm, d.isL1 = false
    (∀ bs p, w.what = .store bs p →
      (∀ o, w.place = .loc o → o + bs.length ≤ 0x400000 → t = s.setCore c l ∧ l.ms = k.ms ∧ l.regs = k.regs ∧
        (∀ a, l.scratchByte a = if o ≤ a ∧ a < o + bs.length then bs.getD (a - o) 0 else k.scratchByte a) ∧
        ∀ q, q ∈ l.loc.badWords ↔ (p = true ∧ q ∈ bankWords o bs.length) ∨ (q ∈ k.loc.badWords ∧ ¬ (o ≤ 8 * q ∧ 8 * q + 8 ≤ o + bs.length))) ∧
      (∀ h o, w.place = .rem h o → t = s.push c (item w.place (.store bs p))) ∧
      ∀ g, w.place = .glob [g] → bs.length = g.len → 0 < g.len →
        let sent := item (.glob [g]) (.store bs p)
        let joins := fun (x : Comm) => ∃ h hs old q, x.place = .glob (h :: hs) ∧ x.what = .store old q ∧ x.batch = batch ∧ h.cls = 2 ∧ h.home = g.home ∧
          h.key = g.key ∧ h.pa / 64 = g.pa / 64
        (g.cls = 1 ∨ g.cls = 3 → g.pa % 64 + g.len ≤ 64 → t = s.push c sent) ∧
        (g.cls = 2 → g.pa % 64 + g.len ≤ 64 →
          ((∀ x ∈ k.ms.comm, ¬ joins x) → t = s.push c sent) ∧
          ∀ front x h hs old q, k.ms.comm = front ++ [x] → x.place = .glob (h :: hs) → x.what = .store old q → joins x →
            t = s.setCore c { k with ms.comm := front ++ [if g.len = 64 then { x with place := .glob [g], what := .store bs p }
              else { x with place := .glob (h :: hs ++ [g]), what := .store (old ++ bs) (q || p) }] }) ∧
        (g.cls = 4 → g.pa % 256 + g.len ≤ 256 → t = (s.setCore c { k with ms.l1 := k.ms.l1.filter fun y =>
          !(y.dirty = 0 && y.home = g.home && y.line / 2 = g.pa / 256) }).push c sent) ∧
        (g.cls = 0 ∨ g.cls = 5 → g.pa % 128 + g.len ≤ 128 → t =
          if k.l1Takes k.ms.comm g.home (g.pa / 128) then s.l1Store c w.id g g.pa bs p else s.push c sent)) ∧
    (∀ op b d, w.what = .amo op b d →
      (∀ h o, w.place = .rem h o → t = s.push c (item w.place (.amo op b d))) ∧
      ∀ segs, w.place = .glob segs → clear segs → t = s.push c (item w.place (.amo op b d))) ∧
    (∀ m sc, w.what = .drain m sc → t = if m = 0 then s else s.push c (item w.place (.drain m sc))) ∧
    (∀ sc, w.what = .rel sc → t = s.setCore c { k with ms.comm := k.ms.comm ++ [item w.place (.rel sc)], ms.fifo := k.ms.fifo ++ [.marker w.id] }) ∧
    (∀ f, w.what = .cfRelease f → let x := k.eng.carafes.get f
      0 < x.n → t = s.setCore c { k with eng.carafes := k.eng.carafes.set f { x with nheld := x.nheld - 1, q := (x.q + 1) % x.n } }) ∧
    ∀ v, w.what = .aqPush v → t = s.setCore c { k with eng.aq := k.eng.aq ++ [v] }) ∧
  ∀ (s : State) (c : CoreId) (batch : Nat) (e : CEff),
    let k := s.core c
    let t := s.commitEff c batch e
    let l := t.core c
    let item := ({ id := e.id, org := e.org, place := e.place, ea := e.ea, batch := batch, what := .drain 0 0 } : Comm)
    (∀ n v, e.what = .csrw n v → t = s.setCore c (k.csrWrite n v)) ∧
    (∀ x, e.what = .endTask x → t = s.setCore c { k with ending := some (if k.task.any (fun y => y.tookBudget) then .killed else .done x) }) ∧
    (∀ m, e.what = .kfree m → t.mem = s.mem ∧ t.hk = s.hk ∧ SameOthers c s t ∧ l.regs = k.regs ∧ l.loc = k.loc ∧
      ∀ u, u < 32 → l.token u = if m.getLsbD u = true ∧ k.token u ≠ 1 then 0 else k.token u) ∧
    (∀ a b w, e.what = .tlbinv a b w →
      let scope := (w.extractLsb' 8 2).toNat
      let lo := (a.extractLsb' 16 40).toNat * 65536
      let hit := fun (y : TlbEnt) => (w.getLsbD 10 = true ∨ y.domain = (w.extractLsb' 0 8).toNat) ∧
        (w.getLsbD 11 = true ∨ (b ≠ 0 ∧ y.va < lo + b.toNat ∧ lo < y.va + leafSpan y.level))
      (∀ d y, y ∈ (t.core d).ms.tlb ↔ y ∈ (s.core d).ms.tlb ∧ ¬ ((2 ≤ scope ∨ (scope = 1 ∧ d.val / 8 = c.val / 8) ∨ d = c) ∧ hit y)) ∧
      (∀ (g : Fin 8) y, y ∈ t.mem.groveTlb.get g ↔ y ∈ s.mem.groveTlb.get g ∧ ¬ ((2 ≤ scope ∨ (scope = 1 ∧ g.val = c.val / 8)) ∧ hit y)) ∧
      t.hk = s.hk ∧ t.sched = s.sched ∧ ∀ d, t.core d = { s.core d with ms := { (s.core d).ms with tlb := (t.core d).ms.tlb } }) ∧
    (e.what = .l1inv → t = s) ∧
    (∀ f a, e.what = .cinit f a →
      let x : Carafe := { act := true, base := (a.extractLsb' 20 14).toNat, slotsz := (a.extractLsb' 6 14).toNat, n := (a.extractLsb' 0 6).toNat + 1 }
      t = s.setCore c { k with eng.carafes := k.eng.carafes.set f x }) ∧
    (∀ n v, e.what = .mpsw n v → ∃ m, t = s.setCore c { k with eng.cim.store := m } ∧
      ∀ i, mrd 0 m i = if i = n then v else mrd 0 k.eng.cim.store i) ∧
    ∀ g, e.what = .signal g →
      (g.tokens = none →
        ((∀ segs, e.place ≠ .glob segs) → t = s.push c { item with what := .signal g }) ∧
        ∀ segs, e.place = .glob segs → (∀ x ∈ segLines segs, k.ms.l1.find? (lineIs x.1 x.2) = none) → (∀ d ∈ k.ms.comm, d.isL1 = false) →
          t = s.push c { item with what := .signal g }) ∧
      ∀ w p prog, g.tokens = some (w, p, prog) →
        let own := fun u => produceToken p = some u ∨ u ∈ prog
        (∀ u, u < 32 → l.token u = if produceToken p = some u ∨ u ∈ prog then 1 else k.token u) ∧ t.mem = s.mem ∧ t.hk = s.hk ∧ SameOthers c s t ∧
        l.regs = k.regs ∧ l.loc = k.loc ∧ ∃ older,
          l.ms.comm = older ++ [{ item with waits := ((waitTokens w).getD []).filter (fun u => k.token u = 1 || k.token u = 3), what := .signal g }] ∧
          older.length = k.ms.comm.length ∧ ∀ (j : Nat) (x : Comm), k.ms.comm[j]? = some x → ∃ y, older[j]? = some y ∧ y = { x with waits := y.waits } ∧
            (∀ u, u < 32 → (u ∈ y.waits ↔ u ∈ x.waits ∧ (own u → k.token u = 1))) ∧
            (32 ∈ y.waits ↔ 32 ∈ x.waits ∨ ∃ u ∈ x.waits, own u ∧ u < 32 ∧ k.token u = 3)

/-- R83, R114 to R119: a `drain` or `rel` completes once nothing of its classes that its scope covers is before it, a `rel` with no dirty line
ahead of its marker and no store of its interval still on its way to the L1; a line that nothing holds is written back, keeps its bytes and leaves the FIFO; a fill brings its line to Canopy.
The model's choices that it rests on: log 57. -/
def Obligations.DrainsAndCacheLines : Prop :=
  ∀ s : State,
    let c := s.cur.core
    let k := s.core c
    let i := s.cur.k
    (∀ w, k.ms.comm[i]? = some w →
      let before := k.ms.comm.take i
      (∀ m sc, w.what = .drain m sc →
        ((∀ d ∈ before, d.drainClass &&& m = 0) ∧ (m.getLsbD 2 = false ∨ sc.toNat < 2 ∨ k.nearPending = []) ∨
            sc = 0 ∧ (∀ d ∈ before, d.left = true) →
          exec .drainComplete s = .next (s.setCore c { k with ms.comm := k.ms.comm.eraseIdx i })) ∧
        (sc = 3 → (∃ d ∈ before, d.drainClass &&& m ≠ 0) → exec .drainComplete s = .next s)) ∧
      ∀ sc, w.what = .rel sc →
        let ahead := k.ms.fifo.takeWhile fun e => decide (e ≠ .marker w.id)
        ((∀ h a, FifoEnt.line h a ∉ ahead) → (∀ d ∈ before, d.drainClass &&& 2 = 0 ∧ d.isL1 = false) →
          exec .relComplete s = .next (s.setCore c { k with
            ms.comm := k.ms.comm.eraseIdx i
            ms.fifo := k.ms.fifo.filter fun e => decide (e ≠ .marker w.id) })) ∧
        ((∃ h a, FifoEnt.line h a ∈ ahead) ∨ (∃ d ∈ before, d.isL1 = true) → exec .relComplete s = .next s)) ∧
    (∀ l, k.ms.l1[i]? = some l → k.ms.l1.find? (lineIs l.home l.line) = some l →
      (k.lineHeld l = true → exec .l1Writeback s = .next s) ∧ (k.lineHeld l = false →
      ∃ t, exec .l1Writeback s = .next t ∧ SameProgram k (t.core c) ∧ (t.core c).tr = k.tr ∧ SameOthers c s t ∧ t.sched = s.sched ∧
        (t.core c).ms = { k.ms with
          l1 := if s.cur.flag then k.ms.l1.filter fun x => !lineIs l.home l.line x
            else k.ms.l1.map fun x => if lineIs l.home l.line x then { x with dirty := 0, ce := if l.dirty = 0 then x.ce else 0 } else x
          fifo := k.ms.fifo.filter fun e => decide (e ≠ .line l.home l.line) } ∧
        (l.dirty = 0 → t.mem = s.mem ∧ t.hk = s.hk) ∧
        (l.dirty ≠ 0 → l.home = 14 → s.mem.gladeLine l.line = false → t.mem = s.mem ∧
          ∃ e, t.hk = { s.hk with recs := queueRec s.hk.recs e } ∧ e.event = 0x0E ∧ e.core = some c.val) ∧
        (1 ≤ l.home → l.home ≤ 13 → ∀ o, o < 128 → mrd 0 t.mem.ext (extKey l.home (l.line * 128 + o)) =
          if l.dirty.getLsbD o then l.data.extractLsb' (8 * o) 8 else mrd 0 s.mem.ext (extKey l.home (l.line * 128 + o))) ∧
        (l.home = 0 ∧ s.mem.keyLoaded l.key = true ∧ l.cls ≠ 3 ∨ l.home = 14 ∧ s.mem.gladeLine l.line = true → ∀ o, o < 128 →
          t.mem.lineAt l.home l.key l.cls l.line o =
            if l.dirty.getLsbD o then l.data.extractLsb' (8 * o) 8 else s.mem.lineAt l.home l.key l.cls l.line o))) ∧
    (let key := (s.mem.block (2 * i)).key % 256
      let coded := (s.mem.block (2 * i)).integ.isSome = true ∨ (s.mem.block (2 * i + 1)).integ.isSome = true
      let comes := i < 2 ^ 32 ∧ s.mem.fullKey key = (s.mem.block (2 * i)).key ∧ s.mem.beyond i = false ∧ (coded ∨ s.cur.v.toNat ≤ 5 ∧ s.cur.v ≠ 3)
      (¬ comes → exec .canopyFill s = .next s) ∧
      (comes → ∃ t, exec .canopyFill s = .next t ∧ t.cores = s.cores ∧ t.sched = s.sched ∧ t.queues = s.queues ∧ SameBundle s t ∧
        (∃ l : List ErrRec, t.hk = { s.hk with recs := l.foldl queueRec s.hk.recs }) ∧
        (((s.mem.set (setOf i)).find 0 i).isSome ∨ (s.mem.set (setOf i)).victim.isSome → ((t.mem.set (setOf i)).find 0 i).isSome) ∧
        ∀ cls o, (coded → cls = 5) → (¬ coded → cls = s.cur.v.toNat) → o < 128 → t.mem.lineAt 0 key cls i o = s.mem.lineAt 0 key cls i o))

/-- R74, R77, R84, R102, R104, R110, R117, R120, R121: committed accesses at their points. A remote access that its home core accepts is performed
there, byte by byte; one it refuses leaves its refusal on the way back, which arrives as a report and, for a discarded store, a record; an atomic
gives its unit the new value of R304 and its port the old one. A global store of the L1 waits for its line or puts its bytes there; any other
writes its bytes and no others: to a line of home 0 or of a Glade as Canopy and memory hold it, to the logical block of a class 4 page, or beyond
the device.
The model's choices that it rests on: log 18, log 4, log 84. -/
def Obligations.AccessesPerformAtTheirPoints : Prop :=
  ∀ (s : State) (h : CoreId) (o : Nat),
    let c := s.cur.core
    let k := s.core c
    let i := s.cur.k
    let u := s.setCore c { k with ms.comm := k.ms.comm.eraseIdx i }
    let writes := fun (t : State) (n : Nat) (f : Nat → Byte) =>
      (∀ a, (t.core h).scratchByte a = if o ≤ a ∧ a < o + n then f (a - o) else (s.core h).scratchByte a) ∧
      t.mem = s.mem ∧ t.sched = s.sched ∧ (∀ d, d ≠ h → d ≠ c → t.core d = s.core d) ∧ (t.core c).ms.comm = k.ms.comm.eraseIdx i ∧
      (t.core h).loc.acc = (s.core h).loc.acc ∧ (t.core c).regs = k.regs
    (∀ w, s.cur.flag = false → k.freeItem i w → w.place = .rem h o →
      (∀ bs p, w.what = .store bs p →
        (s.homeAccepts c h 1 o bs.length → o + bs.length ≤ 0x400000 →
          ∃ t, exec .remoteAccessArrival s = .next t ∧ t.hk = s.hk ∧ writes t bs.length (fun j => bs.getD j 0)) ∧
        (¬ s.homeAccepts c h 1 o bs.length → ∃ code d, s.homeRefuses c h 1 o bs.length true code d ∧
          exec .remoteAccessArrival s = .next (u.modCore c fun x => { x with ms.refusals := k.ms.refusals ++ [(reportOf w.org code d w.ea, true)] }))) ∧
      ∀ op b d, (w.what = .amo op b d ∨ ∃ port, w.what = .signal (.amo op b d port)) →
        let ret := w.returns
        let n := op.width
        (s.homeAccepts c h 2 o n → o + n ≤ 0x400000 → (∀ q ∈ bankWords o n, q ∉ (s.core h).loc.badWords) →
          ∃ t old, exec .remoteAccessArrival s = .next t ∧ exec .atomicPerform s = .next t ∧
            HoldsBytes old n false ((s.core h).localBytes o n) ∧ writes t n (byteAt (op.apply f32Add old b d)) ∧
            (t.core c).ms.pend = if ret then gotResult k.ms.pend w.id (.w old) else k.ms.pend) ∧
        (¬ s.homeAccepts c h 2 o n → ∃ code e, s.homeRefuses c h 2 o n true code e ∧
          exec .atomicPerform s = .next (u.modCore c fun x => { x with ms.refusals := k.ms.refusals ++ [(reportOf w.org code e w.ea, !ret)] }))) ∧
    (∀ p, s.cur.flag = true → s.cur.v = 0 → k.ms.pend[i]? = some p → p.got = none → p.place = .rem h o →
      (s.homeAccepts c h 0 o p.n → ∃ t bs bad, exec .remoteAccessArrival s = .next t ∧
        (t.core c).ms.pend = gotResult k.ms.pend p.id (loadVal p.row p.signed bad p.n bs) ∧ t.mem = s.mem ∧ t.sched = s.sched ∧
        (t.core c).regs = k.regs ∧
        (k.ms.comm = [] → p.whN = 0 → p.part = [] → o + p.n ≤ 0x400000 → ∀ j, j < p.n → bs[j]? = some ((s.core h).scratchByte (o + j)))) ∧
      (¬ s.homeAccepts c h 0 o p.n → ∃ code d, s.homeRefuses c h 0 o p.n false code d ∧
        exec .remoteAccessArrival s = .next (s.setCore c { k with
          reports := k.reports ++ [reportOf p.org code d p.ea]
          ms.pend := k.ms.pend.filter fun q => q.id ≠ p.id }))) ∧
    (∀ r rec_, k.ms.refusals[i]? = some (r, rec_) → ∃ t, exec .deferredRefusalArrival s = .next t ∧ SameOthers c s t ∧ t.mem = s.mem ∧
      t.core c = { k with ms.refusals := k.ms.refusals.eraseIdx i, reports := k.reports ++ [r] } ∧
      (rec_ = false → t.hk = s.hk) ∧ (rec_ = true → ∃ e, t.hk = { s.hk with recs := queueRec s.hk.recs e } ∧ e.event = 0x05 ∧ e.core = some c.val ∧
        e.cause = r.trap.code ∧ e.detail = r.trap.detail)) ∧
    ∀ w segs, k.freeItem i w → w.place = .glob segs →
      (∀ bs p g l, w.what = .store bs p → segs = g :: l → w.isL1 = true → exec .globalStoreArrival s =
        .next (if k.l1Takes (k.ms.comm.take i) g.home (g.pa / 128) then u.l1Store c w.id g g.pa bs p else s)) ∧
      (∀ bs p g l, w.what = .store bs p → segs = g :: l → w.isL1 = true → k.l1Takes (k.ms.comm.take i) g.home (g.pa / 128) = true →
        g.pa % 128 + bs.length ≤ 128 → ∃ t x, exec .globalStoreArrival s = .next t ∧
          (t.core c).ms.l1.find? (lineIs g.home (g.pa / 128)) = some x ∧ x.cls = g.cls ∧ x.key = g.key ∧ t.sched = s.sched ∧
          let old := k.ms.l1.find? (lineIs g.home (g.pa / 128))
          ∀ n, n < 128 →
            let hit := decide (g.pa % 128 ≤ n) && decide (n < g.pa % 128 + bs.length)
            x.dirty.getLsbD n = (hit || old.any fun y => y.dirty.getLsbD n) ∧ x.valid.getLsbD n = (hit || old.any fun y => y.valid.getLsbD n) ∧
            (hit = true → x.data.extractLsb' (8 * n) 8 = bs.getD (n - g.pa % 128) 0) ∧
            ∀ y, hit = false → old = some y → x.data.extractLsb' (8 * n) 8 = y.data.extractLsb' (8 * n) 8) ∧
      (∀ bs p, w.what = .store bs p → w.isL1 = false → ∃ t, exec .globalStoreArrival s = .next t ∧
        t.cores = (u.modCore c fun x => x.dropExpanded segs).cores ∧ t.sched = s.sched ∧
        (∀ g, segs = [g] → g.cls ≠ 4 → 1 ≤ g.home → g.home ≤ 13 → bs.length ≤ g.len → ∀ a, mrd 0 t.mem.ext a =
          if extKey g.home g.pa ≤ a ∧ a < extKey g.home g.pa + bs.length then bs.getD (a - extKey g.home g.pa) 0 else mrd 0 s.mem.ext a) ∧
        (∀ home key cls ln, segs ≠ [] → bs.length = (segs.map Seg.len).sum → cls ≠ 4 → (home = 0 ∨ home = 14 ∧ s.mem.gladeLine ln = true) →
          oneUnit segs home key cls 128 ln → ∀ n, n < 128 →
            t.mem.lineAt home key cls ln n = storedOver segs bs 128 (s.mem.lineAt home key cls ln) n) ∧
        (∀ g, segs = [g] → bs.length = g.len → g.home ≤ 12 → oneUnit segs g.home g.key 4 256 (g.pa / 256) → ∀ n, n < 256 →
          t.mem.slotAt g.home g.key (g.pa / 256) n = storedOver segs bs 256 (s.mem.slotAt g.home g.key (g.pa / 256)) n)) ∧
      (∀ op b d g ln, segs = [g] → oneUnit segs g.home g.key g.cls 128 ln → g.cls ≠ 4 → (g.home = 0 ∨ g.home = 14 ∧ s.mem.gladeLine ln = true) →
        g.len = op.width → (s.mem.readSegs [g]).bad = false → (w.left = true ∨ ∀ d ∈ k.ms.comm.take i, d.isL1 = false) →
        (∀ x ∈ segLines segs, k.ms.l1.find? (lineIs x.1 x.2) = none) →
        (w.what = .amo op b d ∨ ∃ port, w.what = .signal (.amo op b d port)) →
        ∃ t old, exec .atomicPerform s = .next t ∧ HoldsBytes old op.width false (s.mem.readSegs [g]).bytes ∧
          (∀ n, n < 128 → t.mem.lineAt g.home g.key g.cls ln n =
            storedOver segs ((List.range op.width).map (byteAt (op.apply f32Add old b d))) 128 (s.mem.lineAt g.home g.key g.cls ln) n) ∧
          (t.core c).ms.comm = k.ms.comm.eraseIdx i ∧
          (t.core c).ms.pend = if w.returns then gotResult k.ms.pend w.id (.w old) else k.ms.pend) ∧
      ∀ op b d g, segs = [g] → g.cls ≠ 4 → 1 ≤ g.home → g.home ≤ 12 → g.len = op.width →
        s.mem.extTouched g.home g.pa g.len = false → (w.left = true ∨ ∀ d ∈ k.ms.comm.take i, d.isL1 = false) →
        (∀ x ∈ segLines segs, k.ms.l1.find? (lineIs x.1 x.2) = none) →
        (w.what = .amo op b d ∨ ∃ port, w.what = .signal (.amo op b d port)) →
        ∃ t old, exec .atomicPerform s = .next t ∧ HoldsBytes old op.width false (rdBytes s.mem.ext (extKey g.home g.pa) op.width) ∧
          (∀ a, mrd 0 t.mem.ext a = if extKey g.home g.pa ≤ a ∧ a < extKey g.home g.pa + op.width
            then byteAt (op.apply f32Add old b d) (a - extKey g.home g.pa) else mrd 0 s.mem.ext a) ∧
          (t.core c).ms.comm = k.ms.comm.eraseIdx i ∧
          (t.core c).ms.pend = if w.returns then gotResult k.ms.pend w.id (.w old) else k.ms.pend

/-- R72 to R76: the table of the handle operations, the check of the waiting release, and what a performed one leaves in the home core.
The model's choices that it rests on: log 33. -/
def Obligations.HandlesFollowTheirTable : Prop :=
  (∀ (s : State) (c : CoreId) (a b : W64),
    let first := (b.extractLsb' 0 10).toNat
    let n := (b.extractLsb' 16 10).toNat + 1
    let k := s.core c
    (first + n ≤ 1024 → (∀ j, j < n → k.granule (first + j) = 0) → ∀ i, i < 256 → (k.desc i).st = 0 → (∀ j, j < i → (k.desc j).st ≠ 0) →
      s.handleTry c .make a b = .ok (c, i, { st := 1, hcore := c.val, gen := (k.desc i).gen, first := first, ngm1 := n - 1, mask := 0 })) ∧
    (1024 < first + n → s.handleTry c .make a b = .error (0x09, ownDetail 0 7 false, 0)) ∧
    ∀ (home : CoreId) (i : Nat), i < 256 → ((s.core home).desc i).st ≠ 0 →
      let d := (s.core home).desc i
      let h := handleOf home d.gen.toNat i
      let refused := (.error (0x09, ownDetail d.st 7 false, 0) : Except (Byte × Byte × W64) (CoreId × Nat × Desc))
      let gone := handleOf home (d.gen + 1).toNat i
      let target := coreId b.toNat
      (∀ op, op ≠ .make → s.handleTry c op gone gone = .error (0x09, ownDetail 0 7 false, 0)) ∧
      (d.hcore ≠ c.val → ∀ op, op ≠ .make → s.handleTry c op h h = refused) ∧
      (d.hcore = c.val →
        (d.st = 1 → k.eng.gangMask.getLsbD target.val = true → (s.core target).task.isSome = true →
          s.handleTry c .give h b = .ok (home, i, { d with hcore := target.val })) ∧
        (d.st = 1 → (k.eng.gangMask.getLsbD target.val = false ∨ (s.core target).task = none) → s.handleTry c .give h b = .error (0x0B, 0, b)) ∧
        (d.st = 1 → s.handleTry c .lend h b = .ok (home, i, { d with st := 2, mask := b }) ∧
          s.handleTry c .pool h b = .ok (home, i, { d with st := 3, mask := b })) ∧
        s.handleTry c .reclaim a h = .ok (home, i, { d with st := 1, mask := 0 }) ∧
        (d.st = 1 → s.handleTry c .free a h = if home = c then .ok (home, i, { gen := d.gen + 1 }) else refused) ∧
        (d.st ≠ 1 → s.handleTry c .give h b = refused ∧ s.handleTry c .lend h b = refused ∧ s.handleTry c .pool h b = refused ∧
          s.handleTry c .free a h = refused))) ∧
  ∀ s : State,
    let c := s.cur.core
    let k := s.core c
    let i := s.cur.k
    (∀ (r : Release) e op a b port, k.ms.releasing = some r → r.effs[i]? = some e → e.what = .signal (.handle op a b port false) →
      (∀ d ∈ k.ms.comm, d.isHandle = false) →
      (∀ x, s.handleTry c op a b = .error x → (∀ q ∈ k.reports, ¬ (q.seq = e.org.seq ∧ q.trap.slot = BitVec.ofNat 4 e.org.slot)) →
        exec .handleOperationCheck s = .next (s.setCore c { k with reports := k.reports ++ [reportOf e.org x.1 x.2.1 x.2.2] })) ∧
      (∀ y, s.handleTry c op a b = .ok y → exec .handleOperationCheck s = .next (s.setCore c { k with
        ms.releasing := some { r with effs := r.effs.set i { e with what := .signal (.handle op a b port true) } } }))) ∧
    ∀ w op a b port chk, k.freeItem i w → w.what = .signal (.handle op a b port chk) → (∀ d ∈ k.ms.comm.take i, ∀ h o, d.place ≠ .rem h o) →
      (∀ h x d, s.handleTry c op a b = .ok (h, x, d) → ∃ t, exec .handleOperationPerform s = .next t ∧ t.mem = s.mem ∧ t.sched = s.sched ∧
        t.hk = s.hk ∧ (t.core h).desc x = d ∧ (∀ y, y ≠ x → (t.core h).desc y = (s.core h).desc y) ∧
        (∀ g, (t.core h).granule g =
          let old := (s.core h).desc x
          if d.st ≠ 0 ∧ old.st = 0 ∧ d.first ≤ g ∧ g ≤ d.first + d.ngm1 then x + 256
          else if d.st = 0 ∧ old.st ≠ 0 ∧ old.first ≤ g ∧ g ≤ old.first + old.ngm1 then 0 else (s.core h).granule g) ∧
        (t.core c).ms.comm = k.ms.comm.eraseIdx i ∧ (∀ q, q ≠ h → q ≠ c → t.core q = s.core q) ∧ (t.core h).loc = (s.core h).loc ∧
        (t.core c).ms.pend = if op = .make then gotResult k.ms.pend w.id (.w (handleOf h d.gen.toNat x)) else k.ms.pend) ∧
      ∀ x, s.handleTry c op a b = .error x → x.1 ≠ 0x0B → ∃ t e, exec .handleOperationPerform s = .next t ∧ SameOthers c s t ∧
        t.core c = { k with ms.comm := k.ms.comm.eraseIdx i, reports := k.reports ++ [reportOf w.org 0x09 (ownDetail 0 7 true) 0] } ∧
        t.hk = { s.hk with recs := queueRec s.hk.recs e } ∧ e.event = 0x05 ∧ e.core = some c.val

/-- R113, R309, R310, R312, R315, R318, R340, R375, R268: what each signal does at its point, once it is the next of the commit order; and a
microprogram load, which waits for its tokens and ends its own.
The model's choices that it rests on: log 22, log 44, log 97. -/
def Obligations.SignalsPerformInOrder : Prop :=
  ∀ (s : State),
    let c := s.cur.core
    let k := s.core c
    let i := s.cur.k
    let u := s.setCore c { k with ms.comm := k.ms.comm.eraseIdx i }
    (∀ w, k.freeItem i w →
      let does := fun (f : Core → Core) => exec .signalPerform s = .next (u.modCore c f)
      let groups := fun (g : BitVec 3) (f : W64 → W64) => ∃ t, exec .signalPerform s = .next t ∧ t.cores = u.cores ∧ t.mem = s.mem ∧ t.hk = s.hk ∧
        t.sched = { s.sched with groups := t.sched.groups } ∧
        ∀ n, mrd 0 t.sched.groups n = if n = s.groupKey c g then f (mrd 0 s.sched.groups n) else mrd 0 s.sched.groups n
      (∀ t f v, w.what = .signal (.fadd t f v) → exec .signalPerform s =
        .next (u.modCore t fun x => { x with eng.flags := x.eng.flags.set f (x.eng.flags.get f + v) })) ∧
      (∀ m f v, w.what = .signal (.fset m f v) → ∃ t, exec .signalPerform s = .next t ∧ SameDevice s t ∧
        ∀ d, t.core d = if m.getLsbD d.val then { u.core d with eng.flags := (u.core d).eng.flags.set f v } else u.core d) ∧
      (∀ g, w.what = .signal (.join g) → groups g (fun m => m ||| (1 <<< c.val : W64))) ∧
      (∀ g, w.what = .signal (.leave g) → groups g (fun m => m &&& ~~~(1 <<< c.val : W64))) ∧
      (∀ im x p, w.what = .signal (.cpy im x p) → ∃ e : CopyEnt, does (fun y => { y with eng.copies := y.eng.copies ++ [e] }) ∧
        (∀ j, j < 8 → e.words[j]? = some (if j = 6 then x else im.extractLsb' (64 * j) 64)) ∧ e.core = some c ∧ e.domain = k.domain ∧
        e.waits = w.waits ∧ e.token = produceToken p ∧ e.queue = none ∧ e.caf = none) ∧
      (∀ ent p x y mps, w.what = .signal (.cimCall ent p x y mps) → does (fun z => { z with eng.cim.queue := z.eng.cim.queue ++
        [{ entry := ent.toNat, step := none, waits := w.waits, token := produceToken y, progress := p, mps := mps, org := w.org }] })) ∧
      (∀ b x y mps, w.what = .signal (.cimStep b x y mps) → does (fun z => { z with eng.cim.queue := z.eng.cim.queue ++
        [{ entry := 0, step := some b, waits := w.waits, token := produceToken y, progress := 0, mps := mps, org := w.org }] })) ∧
      (∀ n r segs, w.what = .signal (.nmCmd n r segs) →
        (nmOpOf r = 1 → does (fun z => { z with eng.nm := z.eng.nm.set n { z.eng.nm.get n with cmds := (z.eng.nm.get n).cmds ++ [(w.id, r, segs)] } })) ∧
        (nmOpOf r ≠ 1 → does (fun z => { z with eng.nrfCmds := z.eng.nrfCmds ++ [(w.id, n.val, r, segs)] }))) ∧
      (∀ p, w.what = .signal (.nfence p) → does (fun z => { z with
        eng.nfences := z.eng.nfences ++ [(produceToken p, z.nearPending, z.eng.nmSkip)]
        eng.nmSkip := false })) ∧
      (∀ kind a d m x p, w.what = .signal (.coll kind a d m x p) →
        let r : CollReq := { core := c, kind := kind, a := a, c := d, mask := m, waits := w.waits, token := produceToken p }
        let together := ∀ q : CoreId, m.getLsbD q.val = true → (s.core q).task.map Task.gang = k.task.map Task.gang
        (together → exec .signalPerform s = .next { u with sched := { s.sched with colls := s.sched.colls ++ [r] } }) ∧
        (¬ together → r ∉ s.sched.colls → ∃ l, exec .signalPerform s = .next (u.setCore c l) ∧
          ∀ t, t < 32 → l.token t = k.tokensAfter (produceToken p) false t)) ∧
      (∀ b, w.what = .signal (.launch b) →
        let r : LaunchReq := { v := b, core := some c, pend := w.id, domain := k.domain }
        exec .signalPerform s = .next { u with sched :=
          if s.sched.launches.length < 64 ∧ s.sched.waiting = [] then { s.sched with launches := s.sched.launches ++ [r] }
          else { s.sched with waiting := s.sched.waiting ++ [r] } }) ∧
      (∀ a d x p, w.what = .signal (.mpload a d x p) → does (fun z => { z with
        eng.cim.mpload := z.eng.cim.mpload ++ [(a, d, w.waits, produceToken p)] }))) ∧
    (∀ x, s.cur.flag = true → k.eng.cim.mpload[i]? = some x → ∃ t, exec .mploadComplete s = .next t ∧ SameOthers c s t ∧ t.sched = s.sched ∧
      (t.core c).regs = k.regs ∧ (t.core c).loc = k.loc ∧ (t.core c).eng.tokens = k.eng.tokens ∧ (t.core c).eng.cim.mpload = k.eng.cim.mpload ∧
      ((k.waits x.2.2.1 ∨ k.waitFailed x.2.2.1) → t = s)) ∧
    ∀ a d waits tok, s.cur.flag = false → k.eng.cim.mpload[i]? = some (a, d, waits, tok) → (∀ t, tok = some t → t < 32) →
      let rest := fun (x : Cim) => { x with
        mpDone := x.mpDone.filter fun e => decide (e.1 ≠ tok.getD 32), mpGot := x.mpGot.filter fun e => decide (e.1 ≠ tok.getD 32) }
      let v := s.setCore c { k with eng.cim.mpload := k.eng.cim.mpload.eraseIdx i }
      let ends := fun (t : State) (ok : Bool) => ∀ u, u < 32 → (t.core c).token u = k.tokensAfter tok ok u
      (k.waits waits → exec .mploadComplete s = .next s) ∧
      (¬ k.waits waits → k.waitFailed waits → ∃ l, exec .mploadComplete s = .next (s.setCore c l) ∧ ends (s.setCore c l) false ∧
        l.eng.cim = rest (v.core c).eng.cim ∧ l.regs = k.regs ∧ l.loc = k.loc) ∧
      (¬ k.waits waits → ¬ k.waitFailed waits →
        let r := v.mpWords c k.domain (k.eng.cim.mpWrote (tok.getD 32)) (k.eng.cim.mpFetched (tok.getD 32)) a.toNat (d.extractLsb' 0 12).toNat 0 ((d.extractLsb' 16 12).toNat + 1)
        ∃ t, exec .mploadComplete s = .next t ∧ ends t r.1.isNone ∧ t.mem = r.2.mem ∧ t.sched = s.sched ∧ SameOthers c s t ∧
          (t.core c).regs = k.regs ∧ (t.core c).loc = k.loc ∧ (t.core c).eng.cim.store = (r.2.core c).eng.cim.store ∧
          (t.core c).eng.cim.mlc = r.1.getD k.eng.cim.mlc)

/-- R122, R123, R127, R333, R335, R338 to R341, R344, R355: the next call or step starts when its waits have ended, with the pending
configuration and bank modes; an unusable entry, an invalid configuration or a failed wait fails it; tokens that waited for fills become done
after the last of them; an `nfence` ends after the commands it covers; a fill at the head of the queue leaves it, with what R355 to R360 write to
the shadow half for KIND 2 and for a dense fill of integers without block scales, or with a bad half where its descriptor fails it (R366). A standby
whose macros a routine takes back is dropped, and its tile is queued again (R387).
The model's choices that it rests on: log 29, log 36. -/
def Obligations.EngineWorkStartsAndEnds : Prop :=
  ∀ s : State,
    let c := s.cur.core
    let k := s.core c
    let i := s.cur.k
    (∀ call rest, s.cur.flag = false → k.cimStops = false → k.eng.cim.run = none → k.eng.cim.queue = call :: rest → mwf {} k.eng.cim.macros = true →
      (∀ m, (k.eng.cim.macro' m).pendScratch ≠ (k.eng.cim.macro' m).scratch → ∀ f ∈ k.eng.cim.fills, f.macr ≠ m) →
      let k0 := { k with eng.cim.queue := rest, eng.cim.stp := call.step.isSome, eng.cim.ent := if call.step.isSome then 0 else call.entry }
      let e := mrd 0 k.eng.cim.store call.entry
      let first := (e.extractLsb' 0 12).toNat
      let last := first + (e.extractLsb' 16 12).toNat
      let usable := e.getLsbD 63 = true ∧ e.extractLsb' 28 35 = 0 ∧ e.extractLsb' 12 4 = 0 ∧ 256 ≤ first ∧ last ≤ 4095
      let out := exec .cimRoutineStart s
      let starts := fun (a b : Nat) => ∃ l, out = .next (s.setCore c l) ∧
        l.eng.cim.run = some { call := call, first := a, last := b, mpc := a, ma := Vector.replicate 8 0, ml := Vector.replicate 4 0, beg := Vector.replicate 4 0, mlds := k.eng.cim.mlds } ∧
        l.eng.cim.active = k.eng.cim.pending ∧ l.eng.cim.pending = k.eng.cim.pending ∧ l.eng.cim.queue = rest ∧ l.eng.cim.store = k.eng.cim.store ∧
        (∀ m, l.eng.cim.macro' m =
          let x := k.eng.cim.macro' m
          if x.pendScratch = x.scratch then x else if x.pendScratch then { x with scratch := true }
          else { x with scratch := false, h0 := { x.h0 with checks := [], ckValid := false }, h1 := { x.h1 with checks := [], ckValid := false } }) ∧
        l.regs = k.regs ∧ l.loc = { k.loc with fresh := [] } ∧ l.ms = k.ms ∧ l.eng.tokens = k.eng.tokens
      (k.waits call.waits → out = .next s) ∧
      (¬ k.waits call.waits → k.waitFailed call.waits → out = .next (s.setCore c (k0.cimFail call call.entry 7 0))) ∧
      (¬ k.waits call.waits → ¬ k.waitFailed call.waits → ∀ b, k.standby = some b →
        (∃ m, b.macroFirst ≤ m ∧ m < b.macroFirst + b.macroCount ∧ (k.eng.cim.macro' m).pendScratch ≠ (k.eng.cim.macro' m).scratch) →
        ∃ t, out = .next t ∧ (t.core c).standby = none ∧ SameOthers c s t ∧ t.mem = s.mem ∧ (t.core c).regs = k.regs ∧
          ∀ x ∈ s.sched.insts, x.slot = b.inst → x.gen = b.gen → (x.tile b.node b.tile).st = .preloaded →
            ∃ y ∈ t.sched.insts, y.slot = x.slot ∧ y.gen = x.gen ∧ (y.tile b.node b.tile).st = .queued) ∧
      (¬ k.waits call.waits → ¬ k.waitFailed call.waits →
        (∀ b m, k.standby = some b → b.macroFirst ≤ m → m < b.macroFirst + b.macroCount → (k.eng.cim.macro' m).pendScratch = (k.eng.cim.macro' m).scratch) →
        (call.step.isSome = true → starts 0 0) ∧
        (call.step = none → usable → k.eng.cim.pending.invalid = none → starts first last) ∧
        (call.step = none → ¬ usable → ∃ l, out = .next (s.setCore c l) ∧ l.eng.cim.cause = 1 ∧ l.eng.cim.run = none ∧
          l.eng.cim.fails = k.eng.cim.fails ++ [⟨1, call, call.entry, 0, 0⟩] ∧ l.regs = k.regs ∧ l.loc = { k.loc with fresh := [] }) ∧
        (∀ x, call.step = none → usable → k.eng.cim.pending.invalid = some x → ∃ l, out = .next (s.setCore c l) ∧ l.eng.cim.cause = x ∧
          l.eng.cim.run = none ∧ l.eng.cim.fails = k.eng.cim.fails ++ [⟨x, call, call.entry, 0, 0⟩] ∧ l.regs = k.regs ∧ l.loc = { k.loc with fresh := [] }))) ∧
    (∃ l, exec .engineTokenDone s = .next (s.setCore c l) ∧ l.regs = k.regs ∧ l.loc = k.loc ∧
      let ended := fun (o : Nat × Nat) => ∀ f ∈ k.eng.cim.fills, o.2 < f.group
      (∀ t, t < 32 → ((∃ o ∈ k.eng.cim.owed, o.1 % 32 = t ∧ ended o) → l.token t = if k.token t = 1 then 2 else k.token t) ∧
        ((∀ o ∈ k.eng.cim.owed, o.1 % 32 = t → ¬ ended o) → l.token t = k.token t)) ∧
      ∀ o, o ∈ l.eng.cim.owed ↔ o ∈ k.eng.cim.owed ∧ ¬ ended o) ∧
    (∀ tok ids failed, k.eng.nfences[i]? = some (tok, ids, failed) → (∀ t, tok = some t → t < 32) →
      ((∃ x ∈ ids, x ∈ k.nearPending) → exec .nfenceComplete s = .next s) ∧
      ((∀ x ∈ ids, x ∉ k.nearPending) → ∃ l, exec .nfenceComplete s = .next (s.setCore c l) ∧ l.eng.nfences = k.eng.nfences.eraseIdx i ∧
        (∀ t, t < 32 → l.token t = k.tokensAfter tok (!failed) t) ∧ l.regs = k.regs ∧ l.loc = k.loc ∧ l.ms = k.ms)) ∧
    ∀ f rest, k.eng.cim.fills = f :: rest → ∃ t, exec .grinderFill s = .next t ∧ SameOthers c s t ∧ t.sched = s.sched ∧ t.mem = s.mem ∧
      (t.core c).regs = k.regs ∧ (t.core c).ms.wh = k.ms.wh ∧ (t.core c).eng.cim.queue = k.eng.cim.queue ∧
      (s.cur.flag = true → (t.core c).eng.cim.fills.map (fun g => { g with got := [] }) = k.eng.cim.fills.map fun g => { g with got := [] }) ∧
      (s.cur.flag = false → k.eng.cim.out = none →
        (∀ g ∈ (t.core c).eng.cim.fills, g ∈ rest ∧ ¬ (g.group = f.group ∧ g.macr = f.macr)) ∧
        (¬ (f.descOff % 64 = 0 ∧ k.scratchOk c 0 f.descOff 64) → (((t.core c).eng.cim.macro' f.macr).half 1).bad = true ∧
          ∀ a, (t.core c).scratchByte a = k.scratchByte a) ∧
        (f.descOff % 64 = 0 → k.scratchOk c 0 f.descOff 64 → f.got = [] → k.loc.badWords = [] → k.loc.ceWords = [] →
          let ws := (List.range 8).map fun j => k.scratchWord (f.descOff + 8 * j)
          let d := FillDesc.ofWords ws
          (fillMalformed ws f.cfg = true → (((t.core c).eng.cim.macro' f.macr).half 1).bad = true) ∧
          (fillMalformed ws f.cfg = false → (d.stv = true → d.stat % 16 = 0 ∧ k.scratchOk c 1 d.stat 16) →
            (d.kind = 2 → FillEnds s t c f d fun h =>
              h = { ckValid := f.cfg.cke, scale0 := if f.cfg.wbs = 0 then .one else .code (if f.cfg.wbs = 2 then 0x38 else 0x7F) }) ∧
            (d.kind = 0 → d.img = false → f.cfg.wfmt = 0 → f.cfg.wbs = 0 → (∀ r, r < d.kd → k.scratchOk c 0 (d.src + r * d.rstride) d.nout) →
              FillEnds s t c f d (DenseHalf k f.cfg d)))))

/-- R132, R140, R143 to R147, R155: a queued packet whose tag is expected enters its engine and advances its queue; a Carafe packet takes the
next free slot; a copy that may end does: one refused, stopped or failed ends its token with its status, and one of a row between two ranges
of its core's scratch moves every byte and ends as done.
A ring access that faults leaves the queue idle, with a record that names it and the packet it expected (R138, R407).
The model's choices that it rests on: log 21, log 28, log 54, log 90, log 91. -/
def Obligations.CopiesRunToTheirEnd : Prop :=
  (∀ s : State,
    let q := s.cur.k
    ∀ r x, s.sched.queueRow q = some r → s.queues.lookup q = some x →
      ((s.engineFree r.bind = false ∨ s.nextQueue r.bind ≠ some q) → exec .copyPacketAccept s = .next s) ∧
      let faults := fun (t : State) => t.queues.lookup q = none ∧ (∀ p, p ≠ q → t.queues.lookup p = s.queues.lookup p) ∧
        (∀ g, g < 72 → t.copyEnts g = s.copyEnts g) ∧
        ∃ e ∈ t.hk.recs, e.event = 0x07 ∧ e.unit = 10 ∧ e.addr = BitVec.ofNat 64 (x.expected % 2 ^ 32 * 2 ^ 32 + q) ∧ e.domain = r.domain
      s.engineFree r.bind = true → s.nextQueue r.bind = some q →
      ((s.ringSegs r (0x80 + 64 * (x.expected % r.n)) 64).1 = none → ∃ t, exec .copyPacketAccept s = .next t ∧ t.sched = s.sched ∧ faults t) ∧
      ∀ segs s1, s.ringSegs r (0x80 + 64 * (x.expected % r.n)) 64 = (some segs, s1) →
      let rd := s1.mem.readSegs segs
      let ws := (List.range 8).map fun i => (BitVec.ofNat 64 (leNat ((rd.bytes.drop (8 * i)).take 8)) : W64)
      let u := { s1 with mem := rd.mem }.addRecs (inDomain r.domain rd.recs)
      ∃ t, exec .copyPacketAccept s = .next t ∧ t.sched = s.sched ∧
        ((rd.bad = true ∨ (u.ringSegs r 8 8).1 = none) → faults t) ∧
        (∀ g u', rd.bad = false → u.ringSegs r 8 8 = (some g, u') → ((ws.getD 0 0).extractLsb' 32 32).toNat = x.expected % 2 ^ 32 ∧
          t.mem = (u'.mem.writeSegs g (leBytes 8 ((x.expected + 1) % 2 ^ 64)) false).1 ∧ t.queues.lookup q = some ⟨(x.expected + 1) % 2 ^ 64⟩ ∧ (∀ p, p ≠ q → t.queues.lookup p = s.queues.lookup p) ∧
          ∃ e, t.copyEnts r.bind = s.copyEnts r.bind ++ [e] ∧ e.words = ws ∧ e.queue = some q ∧ e.domain = r.domain ∧
            (∀ g, g < 72 → g ≠ r.bind → t.copyEnts g = s.copyEnts g))) ∧
  ∀ s : State,
    let c := s.cur.core
    let k := s.core c
    (∀ (j : Fin 16) n e, s.cur.k = j.val → k.eng.copies[n]? = some e → e.waitsSlot j.val →
      (∀ m d, m < n → k.eng.copies[m]? = some d → ¬ d.waitsSlot j.val) →
      let f := k.eng.carafes.get j
      (f.act = true → f.nasgn + f.nfill + f.nheld < f.n → exec .carafeSlotAssign s = .next (s.setCore c { k with
        eng.copies := k.eng.copies.modify n fun (d : CopyEnt) => { d with caf := some (j.val, f.f) }
        eng.carafes := k.eng.carafes.set j { f with f := (f.f + 1) % f.n, nasgn := f.nasgn + 1, slots := mwr {} f.slots f.f {} } })) ∧
      (f.act = false ∨ f.n ≤ f.nasgn + f.nfill + f.nheld → exec .carafeSlotAssign s = .next (s.setCore c k))) ∧
    ∀ e, s.cur.flag = false → k.eng.copies[s.cur.k]? = some e → e.core = some c → e.caf = none → (∀ t, e.token = some t → t < 32) →
      (Packet.ofWords e.words).rec_ = 0 → s.cur.v.extractLsb' 62 2 = 0 →
      let ends := fun (ok : Bool) => ∃ l, exec .copyComplete s = .next (s.setCore c l) ∧ l.eng.copies = k.eng.copies.eraseIdx s.cur.k ∧
        (∀ t, t < 32 → l.token t = k.tokensAfter e.token ok t) ∧ l.loc = k.loc ∧ l.regs = k.regs ∧ l.ms = k.ms
      (∀ st d n, e.early = some (st, d, n) → ends (st = 0 || st = 4)) ∧
      (e.early = none → k.waits e.waits → exec .copyComplete s = .next s) ∧
      (e.early = none → ¬ k.waits e.waits → k.waitFailed e.waits → e.ordAfter = [] → (Packet.ofWords e.words).op ≠ 3 → ends false) ∧
      ∀ a b n, RowCopy e c a b n → ¬ k.waits e.waits → ¬ k.waitFailed e.waits → s.absent c = false →
        (∀ g, k.granule g = 0) → (∀ x ∈ bankWords a n, x ∉ k.loc.badWords) →
        ∃ t, exec .copyComplete s = .next t ∧ SameOthers c s t ∧ t.mem = s.mem ∧ t.sched = s.sched ∧ (t.core c).regs = k.regs ∧
          (t.core c).eng.copies = k.eng.copies.eraseIdx s.cur.k ∧ (∀ u, u < 32 → (t.core c).token u = k.tokensAfter e.token true u) ∧
          ∀ x, (t.core c).scratchByte x = if b ≤ x ∧ x < b + n then k.scratchByte (a + (x - b)) else k.scratchByte x

/-- R158, R164 to R169, R317, R318: the lanes of a reduce for each operator and kind of input, and its row and tag; what a bank group reads of a
block, piece by piece, and what a return-free add leaves of it, a bad block being skipped and failing an `nfence`; the oldest reduce command of
a stream gives its row; a return-free add changes its elements and no other byte; a collective starts once every participant has issued with
equal fields, with the rows and tags of R317, and each destination takes them.
The model's choices that it rests on: log 22, log 86 (an infinite or NaN M decides a lane without elements too). -/
def Obligations.NearCommandsAndCollectivesPerform : Prop :=
  (∀ (op : Nat) (m : Fv) (l : List Nat), (∃ x ∈ l, f32Nan x) → iredLane op m l = (0x7FC00000, 3)) ∧
  (∀ (m : Fv) (l : List Nat), (∀ x ∈ l, ¬ f32Nan x ∧ x < 2 ^ 32) → 0x7F800000 ∈ l →
    iredLane 0 m l = if 0xFF800000 ∈ l then (0x7FC00000, 3) else (0x7F800000, 3)) ∧
  (∀ (m : Fv) (l : List Nat), (∀ x ∈ l, f32Finite x ∨ x = 0xFF800000) →
    iredLane 0 m l = if 0xFF800000 ∈ l then (0xFF800000, 3) else (longF32 (l.map f32Units).sum, 0)) ∧
  (∀ (m : Fv) (l : List Nat), (∀ x ∈ l, ¬ f32Nan x ∧ x < 2 ^ 32) → (iredLane 1 m l).2 = (if 0x7F800000 ∈ l ∧ 0xFF800000 ∈ l then 3 else 0) ∧
    (l = [] → (iredLane 1 m l).1 = 0xFF800000) ∧
    (l ≠ [] → (iredLane 1 m l).1 ∈ l ∧ ∀ x ∈ l, sortsBefore .f32 (BitVec.ofNat 32 (iredLane 1 m l).1) (BitVec.ofNat 32 x) = false)) ∧
  (∀ (m : Nat) (l : List Nat), (∀ x ∈ l, ¬ f32Nan x ∧ x < 2 ^ 32) → m < 2 ^ 32 →
    let out := iredLane 2 (fmtF32.decode m) l
    (¬ f32Finite m → out = (0x7FC00000, 3)) ∧
    (f32Finite m →
      (0x7F800000 ∈ l → out = (0x7F800000, 3)) ∧
      (0x7F800000 ∉ l → ∃ f : Nat → Option Nat, (∀ x ∈ l, ExpTerm m x (f x)) ∧
        out = if none ∈ l.map f then (0x7F800000, 0) else (longF32 (((l.map fun x => (f x).getD 0).sum : Nat) : Int), 0)))) ∧
  (∀ (r : Row) (data : List (Byte × Bool)) (n : Nat), data.length = n * nmLen r * nmElem r → n ≤ 64 → nmEf r ≤ 1 →
    let lane := fun j => iredLane (nmOpr r) (fmtF32.decode (r.extractLsb' 192 32).toNat) ((List.range n).map fun i => reduceElem r data i j)
    (∀ j, j < 128 → laneBv 32 (iredRow r data).data j = if j < nmLen r then BitVec.ofNat 32 (lane j).1 else 0) ∧
    (iredRow r data).tag = (List.range (nmLen r)).foldl (fun t j => t ||| (lane j).2) (if data.any Prod.snd then 5 else 0)) ∧
  (∀ (s : State) (dom : Nat) (g : Seg) (rest : List Seg),
    s.nearBytes dom (g :: rest) =
      ((s.nearBytes dom [g]).1 ++ ((s.nearBytes dom [g]).2.nearBytes dom rest).1, ((s.nearBytes dom [g]).2.nearBytes dom rest).2) ∧
    (64 < g.pa % 64 + g.len → s.nearBytes dom [g] = s.nearBytes dom [g.firstPart, g.restPart]) ∧
    (s.oneBlock g →
      let b := s.mem.block (g.pa / 64)
      let bad := b.poison || b.ue
      let fixed := if b.ce then s.mem.putBlock (g.pa / 64) { b with ce := false, integ := none, encoded := false } else s.mem
      let synd := Config.syndrome 8 (g.pa / 64)
      s.nearBytes dom [g] =
        (if bad then List.replicate g.len (0, true) else (rdBytes s.mem.hbm g.pa g.len).map fun x => (x, false),
         { s with mem := fixed }.addRecs ((if b.ce then [{ nearRecord 0x01 1 dom g.pa with synd := synd }] else []) ++
           (if bad then [{ nearRecord 0x02 2 dom g.pa with synd := synd }] else [])))) ∧
    ∀ (r : Row) (want : Nat → Bool) (o : Nat),
      (let x := s.nearAdds dom r want o [g]
       let y := x.2.nearAdds dom r want (o + g.len) rest
       s.nearAdds dom r want o (g :: rest) = (x.1 || y.1, y.2)) ∧
      (64 < g.pa % 64 + g.len → s.nearAdds dom r want o [g] = s.nearAdds dom r want o [g.firstPart, g.restPart]) ∧
      (s.oneBlock g → (s.mem.block (g.pa / 64)).poison = true ∨ (s.mem.block (g.pa / 64)).ue = true →
        s.nearAdds dom r want o [g] =
          (true, s.addRec { nearRecord 0x08 2 dom g.pa with synd := Config.syndrome 9 (g.pa / 64) })) ∧
      (s.oneBlock g → (s.mem.block (g.pa / 64)).poison = false → (s.mem.block (g.pa / 64)).ue = false → g.len % nmElem r = 0 → o % nmElem r = 0 →
        let e := nmElem r
        let x := s.nearAdds dom r want o [g]
        let old := fun i => leNat (rdBytes s.mem.hbm (g.pa + e * i) e)
        let add := fun i => (r.extractLsb' (8 * (64 + o + e * i)) (8 * e)).toNat
        let new := fun i => if want (o / e + i) = false then old i
          else if nmOpOf r = 2 then (f32Add (BitVec.ofNat 32 (old i)) (BitVec.ofNat 32 (add i))).toNat else (old i + add i) % 2 ^ (8 * e)
        x.1 = false ∧ x.2.cores = s.cores ∧ x.2.sched = s.sched ∧ x.2.mem.canopy = s.mem.canopy ∧ (x.2.mem.block (g.pa / 64)).ce = false ∧
          (x.2.mem.block (g.pa / 64)).integ = none ∧ (x.2.mem.block (g.pa / 64)).encoded = false ∧
          (∀ b, b ≠ g.pa / 64 → x.2.mem.block b = s.mem.block b) ∧
          ∀ a, x.2.hbmByte a = if g.pa ≤ a ∧ a < g.pa + g.len then BitVec.ofNat 8 (new ((a - g.pa) / e) / 256 ^ ((a - g.pa) % e)) else s.hbmByte a)) ∧
  ∀ s : State,
    let c := s.cur.core
    let k := s.core c
    (∀ id n r segs, k.eng.nrfCmds[s.cur.k]? = some (id, n, r, segs) → s.cur.flag = false → k.nearReady id segs = true →
      let done := fun j => decide ((id, j) ∈ k.eng.nearDone)
      let x := s.nearAdds k.domain r (fun j => !done j) 0 segs
      let l := { k with eng.nrfCmds := k.eng.nrfCmds.filter fun x => decide (x.1 ≠ id), eng.nearDone := k.eng.nearDone.filter fun e => decide (e.1 ≠ id) }
      ∃ t, exec .nearAddApply s = .next t ∧ t.mem = x.2.mem ∧ SameOthers c s t ∧
        (x.1 = false → t.core c = l) ∧
        (x.1 = true → (∃ f ∈ k.eng.nfences, id ∈ f.2.1) →
          t.core c = { l with eng.nfences := k.eng.nfences.map fun f => (f.1, f.2.1, f.2.2 || f.2.1.contains id) }) ∧
        (x.1 = true → (∀ f ∈ k.eng.nfences, id ∉ f.2.1) → t.core c = { l with eng.nmSkip := true })) ∧
    (∀ (u : Fin 4) id r segs rest, s.cur.k2 = u.val → s.cur.flag = false → (k.eng.nm.get u).cmds = (id, r, segs) :: rest →
      (k.nearReady id segs = false → exec .iredResult s = .next s) ∧
      (k.nearReady id segs = true → ∃ t, exec .iredResult s = .next t ∧ SameOthers c s t ∧ t.sched = s.sched ∧
        let n : NmStream := { k.eng.nm.get u with cmds := rest, results := (k.eng.nm.get u).results ++ [iredRow r (s.nearData k id segs).1] }
        t.core c = { k with eng.nm := k.eng.nm.set u n, eng.nearGot := k.eng.nearGot.filter fun e => decide (e.1 ≠ id) })) ∧
    (∀ id n r g, k.eng.nrfCmds[s.cur.k]? = some (id, n, r, [g]) → k.nearReady id [g] = true → g.home = 0 → g.cls = 3 → g.key = 0 →
      g.pa % 64 + g.len ≤ 64 → g.len % nmElem r = 0 → (s.mem.block (g.pa / 64)).key = 0 → (s.mem.block (g.pa / 64)).poison = false →
      (s.mem.block (g.pa / 64)).ue = false → g.len = nmElem r * nmLen r →
      (∀ x ∈ k.eng.nearDone, x.1 ≠ id) →
      let e := nmElem r
      let new := fun j =>
        let old := leNat (rdBytes s.mem.hbm (g.pa + e * j) e)
        let add := (r.extractLsb' (8 * (64 + e * j)) (8 * e)).toNat
        if nmOpOf r = 2 then (f32Add (BitVec.ofNat 32 old) (BitVec.ofNat 32 add)).toNat else (old + add) % 2 ^ (8 * e)
      (s.cur.flag = true → s.cur.v.toNat < nmLen r → let j := s.cur.v.toNat
        ∃ t, exec .nearAddApply s = .next t ∧ SameOthers c s t ∧ t.sched = s.sched ∧ t.mem.canopy = s.mem.canopy ∧
          t.core c = { k with eng.nearDone := k.eng.nearDone ++ [(id, j)] } ∧
          ∀ a, t.hbmByte a = if g.pa + e * j ≤ a ∧ a < g.pa + e * (j + 1) then BitVec.ofNat 8 (new j / 256 ^ (a - g.pa - e * j)) else s.hbmByte a) ∧
      (s.cur.flag = false → ∃ t, exec .nearAddApply s = .next t ∧ SameOthers c s t ∧ t.sched = s.sched ∧ t.mem.canopy = s.mem.canopy ∧
        t.core c = { k with eng.nrfCmds := k.eng.nrfCmds.filter fun x => decide (x.1 ≠ id) } ∧
        ∀ a, t.hbmByte a = if g.pa ≤ a ∧ a < g.pa + g.len then BitVec.ofNat 8 (new ((a - g.pa) / e) / 256 ^ ((a - g.pa) % e)) else s.hbmByte a)) ∧
    (∀ r (q : CoreId → CollReq), s.sched.colls[s.cur.k]? = some r → r.kind ≤ 2 → (r.kind = 1 → r.mask.getLsbD r.root = true) → s.cur.flag = false →
      s.sched.firstColl r.core r.mask = some r →
      let out := exec .collectiveStart s
      let members := (List.finRange 64).filter fun p => r.mask.getLsbD p.val
      let here := fun p : CoreId => r.mask.getLsbD p.val = true
      ((∃ p, here p ∧ s.sched.firstColl p r.mask = none) → out = .next s) ∧
      ((∀ p, here p → s.sched.firstColl p r.mask = some (q p)) →
        ((∃ p, here p ∧ (s.core p).waits (q p).waits) → out = .next s) ∧
        ((∀ p, here p → ¬ (s.core p).waits (q p).waits) →
          (∀ p, here p → ¬ (s.core p).waitFailed (q p).waits ∧ (q p).kind = r.kind ∧ (q p).op = r.op ∧ (q p).ty = r.ty ∧ (q p).nr = r.nr ∧
            (q p).root = r.root ∧ (∀ g, (s.core p).granule g = 0) ∧ (q p).src + 512 * r.nr ≤ 0x400000 ∧ (q p).dst + 512 * r.outRows ≤ 0x400000 ∧ (q p).got = []) →
          ∃ t rows, out = .next t ∧ t.mem = s.mem ∧ (∀ d, (t.core d).regs = (s.core d).regs ∧ (t.core d).loc.scratch = (s.core d).loc.scratch) ∧
            rows.length = r.outRows ∧
            t.sched = { s.sched with colls := s.sched.colls.map fun x => if members.any (fun p => decide (x = q p)) then { x with rows := some rows } else x } ∧
            (r.kind = 1 → ∀ p, here p → p.val = r.root → ∀ j, j < r.nr →
              ∃ v, rows[j]? = some v ∧ ∀ b, b < 512 → rowByte v.data b = (s.sourceRow (q p) j).getD b 0) ∧
            (r.kind = 1 → ∀ p, here p → p.val = r.root → ∀ j v, j < r.nr → rows[j]? = some v → v.tag = if s.sourceBad (q p) j then 0x25 else 0) ∧
            (r.kind = 2 → ∀ i p, members[i]? = some p → ∀ j, j < r.nr → ∃ v, rows[i * r.nr + j]? = some v ∧
              v.tag = (if s.sourceBad (q p) j then 0x25 else 0) ∧ ∀ b, b < 512 → rowByte v.data b = (s.sourceRow (q p) j).getD b 0) ∧
            (r.kind = 0 → here r.core → ∀ j, j < r.nr → ∃ v, rows[j]? = some v ∧ v.tag = (if members.any fun p => s.sourceBad (q p) j then 0x25 else 0) ∧
              ∀ n, n < 128 →
                let l := members.map fun p => s.sourceLane (q p) j n
                let z := laneBv 32 v.data n
                (r.ty = 0x04 → (r.op = 0 → z = l.foldl (fun acc x => acc + x) 0) ∧
                  (r.op = 1 → z ∈ l ∧ ∀ x ∈ l, x.sle z = true) ∧ (r.op = 2 → z ∈ l ∧ ∀ x ∈ l, z.sle x = true)) ∧
                (r.ty = 0x08 → (r.op = 0 → z = sumRne fmtF32 32 (l.map fun x => fmtF32.decode x.toNat)) ∧
                  (r.op ≠ 0 → (l.any fun x => laneNan .f32 x) = true → z = 0x7FC00000) ∧
                  ((l.any fun x => laneNan .f32 x) = false →
                    (r.op = 1 → z ∈ l ∧ ∀ x ∈ l, sortsBefore .f32 z x = false) ∧ (r.op = 2 → z ∈ l ∧ ∀ x ∈ l, sortsBefore .f32 x z = false))))))) ∧
    ∀ r rows, s.cur.flag = false → s.sched.colls[s.cur.k]? = some r → r.rows = some rows → r.wrote = [] → r.dst + 512 * rows.length ≤ 0x400000 → (∀ t, r.token = some t → t < 32) →
      ∃ t, exec .collectiveComplete s = .next t ∧ SameOthers r.core s t ∧ t.mem = s.mem ∧
        t.sched = { s.sched with colls := s.sched.colls.erase r } ∧
        (∀ u, u < 32 → (t.core r.core).token u = (s.core r.core).tokensAfter r.token true u) ∧
        ∀ a, (t.core r.core).scratchByte a = if r.dst ≤ a ∧ a < r.dst + 512 * rows.length
          then rowByte (rows.getD ((a - r.dst) / 512) RowT.zero).data ((a - r.dst) % 512) else (s.core r.core).scratchByte a

/-! ### Scheduling and the end of a task -/

/-- R370, R375, R376, R378, R379: a host launch joins the queue or is lost; the oldest launch is answered with its status, and an accepted one
becomes an instance in the lowest free slot whose tiles without incoming edges are queued; `LSTAT` is read and cleared; an ended instance
frees its slot.
The model's choices that it rests on: log 39, log 45. -/
def Obligations.LaunchesBecomeInstances : Prop :=
  ∀ s : State,
    ((s.hk.ready = false ∨ 64 ≤ s.sched.launches.length) → exec .launchWrite s = .next { s with hk := { s.hk with lstat := s.hk.lstat ||| 0x200000000 } }) ∧
    (s.hk.ready = true → s.sched.launches.length < 64 → exec .launchWrite s =
      .next { s with sched := { s.sched with launches := s.sched.launches ++ [{ v := s.cur.v, core := none, pend := 0, domain := 0 }] } }) ∧
    exec .lstatRead s = .next { s with hk := { s.hk with lastRead := leBytes 8 s.hk.lstat.toNat, lastStatus := 0, lstat := 0 } } ∧
    (∀ r rest, s.sched.launches = r :: rest → s.cur.flag = true →
      exec .launchAccept s = .next { s with sched := { s.sched with pinned := some (r.v.extractLsb' 0 12).toNat } }) ∧
    (∀ r rest, s.sched.launches = r :: rest → s.cur.flag = false → ∃ t st id, exec .launchAccept s = .next t ∧
      (s.sched.waiting = [] → t.sched.launches = rest) ∧ (∀ w ws, s.sched.waiting = w :: ws → t.sched.launches = rest ++ [w] ∧ t.sched.waiting = ws) ∧
      t.sched.pinned = none ∧ (∀ d, (t.core d).regs = (s.core d).regs) ∧
      (r.core = none → t.hk.lstat = wordOf [(56, st), (33, (s.hk.lstat.extractLsb' 33 1).toNat), (32, 1), (0, id)] ∧
        t.hk.hint = s.hk.hint ||| 4 ∧ t.cores = s.cores) ∧
      (∀ c, r.core = some c → (t.core c).ms.pend = gotResult (s.core c).ms.pend r.pend (.w (wordOf [(56, st), (0, id)])) ∧ t.hk.lstat = s.hk.lstat) ∧
      (s.sched.readGraph (r.v.extractLsb' 0 12).toNat = none → st = 1 ∧ id = 0 ∧ t.sched.insts = s.sched.insts) ∧
      ∀ dom ns, s.sched.readGraph (r.v.extractLsb' 0 12).toNat = some (dom, ns) →
        (r.v.extractLsb' 58 5 ≠ 0 → st = 2 ∧ id = 0 ∧ t.sched.insts = s.sched.insts) ∧
        (r.v.extractLsb' 58 5 = 0 → r.v.extractLsb' 12 40 = 0 →
          let large := ∃ x ∈ ns, s.gangLimit < nodeGang x.words
          let full := ∀ j, j < 256 → ∃ i ∈ s.sched.insts, i.slot = j
          (s.sched.root dom = none → st = 3 ∧ id = 0 ∧ t.sched.insts = s.sched.insts) ∧
          (s.sched.root dom ≠ none → large → st = 4 ∧ id = 0 ∧ t.sched.insts = s.sched.insts) ∧
          (s.sched.root dom ≠ none → ¬ large → full → st = 5 ∧ id = 0 ∧ t.sched.insts = s.sched.insts) ∧
          (s.sched.root dom ≠ none → ¬ large → ∀ j, j < 256 → (∀ i ∈ s.sched.insts, i.slot ≠ j) →
            (∀ m, m < j → ∃ i ∈ s.sched.insts, i.slot = m) →
            st = 0 ∧ id = mrd 0 s.sched.gens j * 256 + j ∧ ∃ i, t.sched.insts = s.sched.insts ++ [i] ∧ i.slot = j ∧ i.gen = mrd 0 s.sched.gens j ∧
              i.domain = dom ∧ i.nodes = ns ∧ i.recVa = 0 ∧ i.prioOvr = (if r.v.getLsbD 63 then some (r.v.extractLsb' 52 6).toNat else none) ∧
              mrd 0 t.sched.gens j = (mrd 0 s.sched.gens j + 1) % 2 ^ 24 ∧
              ∀ n x, ns[n]? = some x → x.edges = [] → ∀ y, y < nodeTiles x.words → (i.tile n y).st = .queued))) ∧
    ∀ i, s.sched.insts.find? (fun x => decide (x.slot = s.cur.k)) = some i →
      let gone := { s with sched := { s.sched with insts := s.sched.insts.filter fun x => decide (x.slot ≠ i.slot) } }
      (¬ i.over → exec .instanceComplete s = .next s) ∧
      (i.over → i.recVa = 0 → exec .instanceComplete s = .next gone) ∧
      (i.over → i.recVa ≠ 0 → ∃ t, exec .instanceComplete s = .next t ∧ t.sched = gone.sched ∧ t.cores = s.cores ∧
        ∀ c d a s1, gone.transX i.recDomain .store i.recVa.toNat 16 = (.fault c d a, s1) →
          ∃ e, t.hk.recs = queueRec s1.hk.recs e ∧ e.event = 0x07 ∧ e.cause = c ∧ e.addr = wordOf [(0, i.gen * 256 + i.slot)])

/-- R24, R308, R380 to R384, R389 to R391: a dispatch places the unit whose turn it is, with the registers of R383 and R260, or asks the tasks
of R390 to end; a due unit falls a level; a discard takes effect at its boundary; a standby sets its macros aside.
The model's choices that it rests on: log 37, log 42. -/
def Obligations.DispatchPlacesOrPreempts : Prop :=
  ∀ s : State,
    (∀ picks, s.hk.envPend = true ∨ s.hk.ready = false ∨ s.promotionsDue ≠ [] ∨ s.chooseUnit = none → exec (.dispatch picks) s = .next s) ∧
    (∀ u c i n, s.hk.envPend = false → s.hk.ready = true → s.promotionsDue = [] → s.chooseUnit = some u → u.tiles = [n] → s.canPlace c = true →
      s.sched.insts.find? (fun x => decide (x.slot = u.inst)) = some i → plainNode (i.words u.node) → (s.core c).standby = none →
      nodeGang (i.words u.node) = 1 →
      ∃ t, exec (.dispatch [c]) s = .next t ∧ DispatchedAs (s.core c) (t.core c) i u.node n (Config.envelopeProfile s.hk.envelope) ∧
        (t.core c).ending = none ∧ (t.core c).eng.gangMask.getLsbD c.val = true ∧ (∀ d, d ≠ c → (t.core d).regs = (s.core d).regs) ∧
        (∃ j ∈ t.sched.insts, j.slot = u.inst ∧ (j.tile u.node n).st = .running) ∧
        let fresh := ∃ d x, (d = c ∨ s.shadowOf c = some d) ∧ (s.core d).lastDomain = some x ∧ x ≠ i.domain
        (fresh → ∀ a, (t.core c).scratchByte a = 0) ∧ (¬ fresh → ∀ a, (t.core c).scratchByte a = (s.core c).scratchByte a)) ∧
    (∀ picks u n v x, s.hk.envPend = false → s.hk.ready = true → s.promotionsDue = [] → s.chooseUnit = some u → u.tiles = [n] → s.freeCores = [] →
      (∀ d, (s.core d).discardPending = false) → s.canGoFor u.level v x →
      (∀ d y, d ≠ v → s.canGoFor u.level d y → y.prio < x.prio ∨ (y.prio = x.prio ∧ y.stamp < x.stamp)) →
      ∃ t, exec (.dispatch picks) s = .next t ∧ SameDevice s t ∧
        ∀ d, (s.inGang x.gang d → t.core d = { s.core d with asked := some (.discarded false) }) ∧ (¬ s.inGang x.gang d → t.core d = s.core d)) ∧
    (∀ u, s.promotionsDue[s.cur.k % s.promotionsDue.length]? = some u → ∃ f : Inst → Inst,
      exec .agePromotion s = .next { s with sched := { s.sched with insts := s.sched.insts.map f } } ∧
      ∀ i, (i.slot ≠ u.inst → f i = i) ∧ (i.slot = u.inst →
        (∀ n ∈ u.tiles, (f i).tile u.node n = { i.tile u.node n with
          wait := 0, fallen := if u.level = 0 then (i.tile u.node n).fallen else (i.tile u.node n).fallen + 1 }) ∧
        ∀ m, (∀ n ∈ u.tiles, i.key u.node n ≠ m) → mrd {} (f i).tiles m = mrd {} i.tiles m)) ∧
    (let c := s.cur.core
     let k := s.core c
     (∀ e, k.asked = some e → s.canIssue c = true → k.endIssued = false → ∃ t, exec .discard s = .next t ∧ EndsAt s t c e) ∧
     (k.asked = none ∨ s.canIssue c = false ∨ k.endIssued = true → exec .discard s = .next s) ∧
     ∀ x u i j, k.task = some x → s.chooseUnit = some u → s.sched.insts.find? (fun y => decide (y.slot = u.inst)) = some i →
       s.sched.insts.find? (fun y => decide (y.slot = x.inst)) = some j → (i.words u.node).getD 13 0 = 0 →
       s.cur.v = 0 → ((i.words u.node).getD 6 0).getLsbD 63 = false →
       let tile := u.tiles.getD (s.cur.k2 % u.tiles.length) 0
       let a := (i.words u.node).getD 11 0
       let b := (j.words x.node).getD 11 0
       let apart := fun (p n q m : Nat) => n = 0 ∨ m = 0 ∨ p + n ≤ q ∨ q + m ≤ p
       let f := fun (w : W64) (lo n : Nat) => (w.extractLsb' lo n).toNat
       k.standby = none → k.ending = none → i.domain = x.domain → (i.tile u.node tile).st = .queued → u.tiles.length ≤ s.freeCores.length + 1 →
       apart (f a 32 10) (f a 48 11) (f b 32 10) (f b 48 11) → apart (f a 16 7) (f a 24 8) (f b 16 7) (f b 24 8) →
       (∀ m, m < f a 24 8 → (k.eng.cim.macro' (f a 16 7 + m)).scratch = false) →
       ∃ t, exec .standbyPrepare s = .next t ∧ SameOthers c s t ∧ t.mem = s.mem ∧ t.hk = s.hk ∧
         t.core c = { k with standby := some ⟨i.slot, i.gen, u.node, tile, i.domain, f a 16 7, f a 24 8, []⟩ } ∧
         ∀ y ∈ t.sched.insts, y.slot = u.inst → ∃ z ∈ s.sched.insts, z.slot = u.inst ∧
           y = z.modTile u.node tile fun q => { q with st := .preloaded })

/-- R75, R129, R388, R391, R392, R396, R398, R405, R409: a task counts as ended once what it has under way has ended, and the core then holds
nothing of it; a budget expiry discards, kills or traps; a halted core stops; a stepped core stops after its bundle; a core taken out of
service returns after its reset.
The model's choices that it rests on: log 15, log 31, log 38. -/
def Obligations.TasksEndAndCoresStop : Prop :=
  ∀ s : State,
    let c := s.cur.core
    let k := s.core c
    (∀ x e, k.task = some x → k.ending = some e →
      let u := s.stopTask c e
      ((u.core c).ms.wh = [] ∧ (u.core c).ms.walks = [] ∧ (∀ r, (u.core c).ms.releasing = some r → r.committed = true) ∧ (u.core c).regs = k.regs ∧ u.mem = s.mem ∧ u.hk = s.hk) ∧
      (u.taskQuiet c = false → exec .taskEnd s = .next u) ∧
      (u.taskQuiet c = true → k.asked = none → (∀ h, mwf {} (s.core h).own.desc = true) → ∃ t, exec .taskEnd s = .next t ∧
        let l := t.core c
        l.task = none ∧ l.ending = none ∧ l.asked = none ∧ l.reports = [] ∧ l.lastDomain = some x.domain ∧ (∀ j, j < 32 → l.token j = 0) ∧
        l.ms.l1 = [] ∧ l.ms.fifo = [] ∧ l.ms.comm = [] ∧ l.ms.pend = [] ∧ l.eng.aq = [] ∧ l.eng.yq = [] ∧ l.eng.flags = k.eng.flags ∧
        l.loc.scratch = (u.core c).loc.scratch ∧ l.loc.acc = (u.core c).loc.acc ∧ l.mode.handler = false ∧ l.regs = k.regs ∧
        (∀ h i, (t.core h).desc i = endDesc h c ((s.core h).desc i)) ∧ (∀ d, d ≠ c → (t.core d).regs = (s.core d).regs) ∧
        (∀ g, g < 8 → (mrd 0 t.sched.groups (x.gang * 8 + g)).getLsbD c.val = false) ∧
        ∀ i ∈ t.sched.insts, i.slot = x.inst →
          (∀ v, e = .done v → (i.tile x.node x.tile).st = .done) ∧ (e = .killed → (i.tile x.node x.tile).st = .killed) ∧
          ∀ o, e = .discarded o → (i.tile x.node x.tile).rerun = true ∧ (i.tile x.node x.tile).lastOver = o)) ∧
    (∀ x, k.task = some x → s.quietBoundary c →
      let due := x.budget ≠ 0 ∧ x.budget ≤ x.used ∧ x.tookBudget = false
      (due → x.idem = true → ∃ t, exec .budgetExpiry s = .next t ∧ (t.core c).ending = some (if s.overran x then .killed else .discarded true) ∧
        (t.core c).regs = k.snap.regs ∧ t.mem = s.mem ∧ SameOthers c s t) ∧
      (due → x.idem = false → exec .budgetExpiry s = .next ((s.setCore c { k with task := some { x with tookBudget := true, grace := 65536 } }).takeTrap
        c (k.seq + 1) { code := 0x23, pc := k.pc })) ∧
      (¬ due → exec .budgetExpiry s = .next s) ∧
      (x.tookBudget = true → x.grace = 0 → ∃ t, exec .budgetGraceExpiry s = .next t ∧ EndsAt s t c .killed) ∧
      (x.tookBudget = false ∨ x.grace ≠ 0 → exec .budgetGraceExpiry s = .next s) ∧
      (¬ due → (x.tookBudget = false ∨ x.grace ≠ 0) → k.ms.releasing = none → k.ms.comm = [] → k.ms.pend = [] →
        (k.mode.stepPc = none → exec .stepStop s = .next s) ∧
        ∀ pc, k.mode.stepPc = some pc → ∃ l, exec .stepStop s = .next (s.setCore c l) ∧ l.mode = { k.mode with stopped := true, stepPc := none } ∧
          l.traps.tcause.extractLsb' 0 8 = 0x22 ∧ l.traps.tcause.extractLsb' 8 8 = k.mode.stepDetail ∧ l.traps.tbpc = pc &&& 0xFFFFFFFFFFFFE0 ∧
          l.traps.tslot = 15 ∧ l.regs = k.regs ∧ l.pc = k.pc ∧ l.tr.inflight = [] ∧ l.loc = k.loc ∧ l.snap = k.snap)) ∧
    (s.quietBoundary c → k.mode.dbgHalt = true → k.mode.stepPc = none → (∀ x, k.task = some x → ¬ (x.budget ≠ 0 ∧ x.budget ≤ x.used ∧ x.tookBudget = false) ∧
        ¬ (x.tookBudget = true ∧ x.grace = 0)) →
      ∃ l, exec .debugHalt s = .next (s.setCore c l) ∧ l.mode = { k.mode with stopped := true, dbgHalt := false } ∧ l.tr.inflight = [] ∧
        l.regs = k.regs ∧ l.pc = k.pc ∧ l.loc = k.loc ∧ l.ms = k.ms ∧ l.snap = k.snap ∧ l.traps = k.traps ∧ l.task = k.task) ∧
    (s.canIssue c = false ∨ k.mode.dbgHalt = false → exec .debugHalt s = .next s) ∧
    ((k.mode.quarantined = true ∨ k.mode.offline = true) → s.lockstep (groveOf c) = false → k.task = none → k.standby = none →
      ∃ t, exec .coreResetAndTest s = .next t ∧ SameOthers c s t ∧ t.sched = s.sched ∧ (t.core c).mode = Mode.reset ∧
        (t.core c).regs = Regs.zero ∧ (t.core c).traps = TrapRegs.reset ∧ (t.core c).loc = k.loc ∧ (t.core c).own = k.own) ∧
    (k.mode.quarantined = false → k.mode.offline = false → exec .coreResetAndTest s = .next s)

/-! ### Device registers and records -/

/-- R21 to R27, R87, R381, R420 to R422: the registers of the envelope, protection, power cap, `PINLIM` and `AGE` take or ignore what is written; the
envelope changes once no core holds a task, a grove pairs once none of its cores does, and grant, clock and `ISSUE` stay within their bounds.
The model's choices that it rests on: log 46, log 53. -/
def Obligations.ModeRegistersFollowTheirRules : Prop :=
  ∀ s : State,
    let h := s.hk
    let v := s.cur.v
    let sets := fun (i : Instr) (g : Hsk) => exec i s = .next { s with hk := g }
    let t := (v.extractLsb' 0 2).toNat
    (t = 3 ∨ h.record.envMask.getLsbD t = false → sets .envelopeWrite { h with hstat := h.hstat ||| 8 }) ∧
    (t ≠ 3 → h.record.envMask.getLsbD t = true → (h.envPend = true ∨ t = h.envelope) → sets .envelopeWrite { h with envTarget := t }) ∧
    (t ≠ 3 → h.record.envMask.getLsbD t = true → h.envPend = false → t ≠ h.envelope → ∃ u, exec .envelopeWrite s = .next u ∧
      u.hk = { h with envTarget := t, envPend := true } ∧ u.mem = s.mem ∧ u.sched = s.sched ∧
      ∀ d, let k := s.core d
        u.core d = if k.ending = none ∧ k.asked = none ∧ k.task.any (fun x => x.idem) = true then { k with asked := some (.discarded false) } else k) ∧
    (h.envPend = false ∨ (∃ d, (s.core d).task.isSome = true) → exec .envelopeChange s = .next s) ∧
    (h.envPend = true → (∀ d, (s.core d).task = none) → ∃ u, exec .envelopeChange s = .next u ∧ u.mem = s.mem ∧
      u.hk = Hsk.hinted { h with
        envelope := h.envTarget, envPend := false, freq := fullClock h.envTarget, issue := 64
        grant := Hsk.capNow { h with envelope := h.envTarget } } 4 ∧
      ∀ d, (u.core d).ctrl = { (s.core d).ctrl with latprof := decide (h.envTarget = 2) } ∧ (u.core d).regs = (s.core d).regs ∧
        (u.core d).loc = (s.core d).loc ∧ (u.core d).task = none) ∧
    sets .protmodeWrite { h with protLock := v.extractLsb' 0 8 } ∧
    sets .pcapWrite { h with pcap := v.extractLsb' 0 16 } ∧
    sets .pinlimWrite (if (v.extractLsb' 0 4).toNat < 4 then h else { h with pinlim := v.extractLsb' 0 4 }) ∧
    sets .ageWrite (if v.extractLsb' 0 16 = 0 then h else { h with age := v.extractLsb' 0 16 }) ∧
    (∀ g : Fin 8, s.cur.k = g.val →
      (h.protLock.getLsbD g.val = h.protActive.getLsbD g.val ∨ (∃ d, groveOf d = g ∧ (s.core d).task.isSome = true) → exec .lockstepPairing s = .next s) ∧
      (h.protLock.getLsbD g.val ≠ h.protActive.getLsbD g.val → (∀ d, groveOf d = g → (s.core d).task = none) → ∃ u a,
        exec .lockstepPairing s = .next u ∧ u.mem = s.mem ∧ u.hk = { h with protActive := a } ∧
        (∀ j, j < 8 → a.getLsbD j = if j = g.val then h.protLock.getLsbD j else h.protActive.getLsbD j) ∧
        (∀ d, (u.core d).regs = (s.core d).regs) ∧ (∀ d, groveOf d ≠ g → ∃ e a, u.core d = { s.core d with ending := e, asked := a }) ∧
        ∀ d, groveOf d = g → d.val % 2 = 1 →
          let e := s.core (coreId (d.val - 1))
          let met := fun a => (e.loc.paired.getD ([], [])).1.any fun p => decide (p.1 ≤ a) && decide (a < p.1 + p.2)
          let rows := (e.loc.paired.getD ([], [])).2
          (u.core (coreId (d.val - 1))).loc.paired = (if h.protLock.getLsbD g.val then some ([], []) else none) ∧
          (h.protLock.getLsbD g.val = true → (u.core d).loc = (s.core d).loc) ∧
          (h.protLock.getLsbD g.val = false →
            (∀ a, (u.core d).scratchByte a = if met a then e.scratchByte a else (s.core d).scratchByte a) ∧
            ∀ r, mrd RowT.zero (u.core d).loc.acc r = if rows.contains r then mrd RowT.zero e.loc.acc r else mrd RowT.zero (s.core d).loc.acc r))) ∧
    (∃ n, exec .capEnforce s = .next { s with hk := { h with grant := h.capNow, issue := n }, freeCtr := s.freeCtr + 1 } ∧ 1 ≤ n ∧ n ≤ 64 ∧
      (h.grant ≤ h.capNow → n = 64)) ∧
    ∃ f n p g, exec .powerClockStep s = .next { s with hk := { h with freq := f, issue := n, power := p, gated := g }, freeCtr := s.freeCtr + 1 } ∧
      1 ≤ f ∧ f ≤ fullClock h.envelope ∧ 1 ≤ n ∧ n ≤ 64 ∧ p ≤ h.grant ∧ g < 65536 ∧ (f = fullClock h.envelope → n = 64) ∧
      (h.grant = (if h.envelope = 0 then 1000 else if h.envelope = 1 then 650 else 320) → f = fullClock h.envelope)

/-- R96, R406 to R408, R419, R423: a record raises the count of the bank that already names it, else takes the lowest free bank, else replaces a
lesser one or is counted as lost; a bank is cleared but for OVF; a scrub repairs a correctable error; refresh, background zeroing and a resent
flit change nothing.
The model's choices that it rests on: log 43, log 60. -/
def Obligations.RecordsAreKeptInBanks : Prop :=
  ∀ s : State,
    let h := s.hk
    let b := fun (j : Fin 32) => h.banks.get j
    let ovf := fun (j : Fin 32) => (b j).w0.extractLsb' 40 16
    let cnt := fun (j : Fin 32) => ((b j).w0.extractLsb' 24 16).toNat
    let sev := fun (j : Fin 32) => ((b j).w0.extractLsb' 61 2).toNat
    let x := s.mem.block s.cur.k
    (h.recs = [] → exec .errorRecordPlace s = .next s) ∧
    (∀ r rest, h.recs = r :: rest → ∃ l, exec .errorRecordPlace s = .next { s with hk := Hsk.hinted { h with recs := rest, banks := l } 1 } ∧
      (∀ i, (b i).matchesRec r → (∀ j, j < i → ¬ (b j).matchesRec r) →
        ∃ w, BankOnly h.banks l i { b i with w0 := w } ∧ countAt (b i).w0 w 24 (min (cnt i + 1) 65535)) ∧
      ((∀ j, ¬ (b j).matchesRec r) →
        (∀ i, (b i).w0.getLsbD 63 = false → (∀ j, j < i → (b j).w0.getLsbD 63 = true) → BankOnly h.banks l i (recordWords r (ovf i))) ∧
        ((∀ j, (b j).w0.getLsbD 63 = true) → ∀ i, (∀ j, sev i ≤ sev j) → (∀ j, j < i → sev i < sev j) →
          (sev i < r.sev → BankOnly h.banks l i (recordWords r (ovf i))) ∧
          (r.sev ≤ sev i → ∃ w, BankOnly h.banks l i { b i with w0 := w } ∧ countAt (b i).w0 w 40 (min ((ovf i).toNat + 1) 65535))))) ∧
    (∀ i : Fin 32, s.cur.k = i.val →
      (s.cur.v.getLsbD 63 = false → exec .errorBankClear s = .next s) ∧
      (s.cur.v.getLsbD 63 = true → ∃ l, exec .errorBankClear s = .next { s with hk := { h with banks := l } } ∧
        BankOnly h.banks l i { w0 := wordOf [(40, (ovf i).toNat)], w1 := 0, w2 := 0, w3 := 0 })) ∧
    (let active := s.cur.k < 2 ^ 33 ∧ (h.envelope = 2 → stackOf (s.cur.k * 64) < 4)
     (¬ active ∨ x.ce = false → exec .patrolScrub s = .next s) ∧
     (active → x.ce = true → ∃ m e, exec .patrolScrub s = .next { s with mem := m, hk := { h with recs := queueRec h.recs e } } ∧
       m.block s.cur.k = { x with ce := false } ∧ (∀ j, j ≠ s.cur.k → m.block j = s.mem.block j) ∧ m.hbm = s.mem.hbm ∧ m.canopy = s.mem.canopy ∧
       e.event = 0x01 ∧ e.sev = 1 ∧ e.unit = 8 ∧ e.addr = BitVec.ofNat 64 (s.cur.k * 64))) ∧
    exec .refresh s = .next s ∧ exec .backgroundZeroing s = .next s ∧ exec .flitRetry s = .next s

/-! ### Links, service and the mailbox -/

/-- R39, R412, R424: a port trains with four good lanes or more, keeps serving while four stay, and goes down with its outstanding accesses completed
as `XLHOME`; so for the host link.
The model's choices that it rests on: log 32, log 47. -/
def Obligations.LinksTrainLoseLanesAndGoDown : Prop :=
  ∀ (s : State) (n : Fin 12), s.cur.k = n.val →
    let h := s.hk
    let w := h.linkstat.get n
    let lanes := (w.extractLsb' 8 8).toNat
    let isUp := s.mem.linkUp.getLsbD n.val
    let good := fun m => ((List.range 8).filter fun i => Nat.testBit m i).length
    let newLink := fun (g : Hsk) (x : W64) => g.linkstat.get n = x ∧ (∀ j, j ≠ n → g.linkstat.get j = h.linkstat.get j) ∧
      g = if x = w then h else Hsk.hinted { h with linkstat := g.linkstat } 3
    (isUp = true → exec .linkTraining s = .next s) ∧
    (isUp = false → ∃ t, exec .linkTraining s = .next t ∧ t.cores = s.cores ∧ t.sched = s.sched ∧
      let l := (s.cur.v.extractLsb' 0 8).toNat
      let up := decide (4 ≤ good l)
      newLink t.hk (linkstatOf (if up then l else 0) (up && s.cur.v.getLsbD 8) (h.record.linkEtb.getLsbD n.val) up) ∧
      ∀ j, j < 12 → t.mem.linkUp.getLsbD j = if j = n.val then up else s.mem.linkUp.getLsbD j) ∧
    (isUp = false → exec .linkDown s = .next s ∧ exec .laneLoss s = .next s) ∧
    (isUp = true → ∃ t, exec .linkDown s = .next t ∧ t.sched = s.sched ∧ newLink t.hk (linkstatOf 0 (w.getLsbD 2) (w.getLsbD 1) false) ∧
      (∀ j, j < 12 → t.mem.linkUp.getLsbD j = if j = n.val then false else s.mem.linkUp.getLsbD j) ∧
      t.mem = { s.mem with linkUp := t.mem.linkUp } ∧ ∀ d, LosesHome (s.core d) (t.core d) (n.val + 1)) ∧
    (isUp = true → ∀ i, i < 8 → s.cur.k2 = i → Nat.testBit lanes i = true →
      (5 ≤ good lanes → ∃ g, exec .laneLoss s = .next { s with hk := g } ∧ newLink g (linkstatOf (lanes - 2 ^ i) (w.getLsbD 2) (w.getLsbD 1) (w.getLsbD 0))) ∧
      (good lanes ≤ 4 → exec .laneLoss s = .next s)) ∧
    (∀ a b, s.mbRuns 0x35 a b →
      (12 ≤ (a.extractLsb' 0 4).toNat → AnswersWith (exec .lanert s) s 0x35 3 0 0) ∧
      ((a.extractLsb' 0 4).toNat = n.val → isUp = false → AnswersWith (exec .lanert s) s 0x35 0 0 0) ∧
      ((a.extractLsb' 0 4).toNat = n.val → isUp = true → s.cur.flag = true → 4 ≤ good lanes → ∃ g, newLink g
          (linkstatOf (lanes ||| 2 ^ (a.extractLsb' 8 3).toNat) (w.getLsbD 2) (w.getLsbD 1) (w.getLsbD 0)) ∧
        AnswersWith (exec .lanert s) { s with hk := g } 0x35 0 0 0)) ∧
    (s.cur.flag = true → exec .hostLinkDown s = .next { s with mem := { s.mem with hostUp := true } }) ∧
    (s.cur.flag = false → ∃ t, exec .hostLinkDown s = .next t ∧ t.sched = s.sched ∧ t.hk = s.hk ∧ t.mem = { s.mem with hostUp := false } ∧
      ∀ d, LosesHome (s.core d) (t.core d) 13)

/-- R18, R64, R397, R417 to R419, R425: spares and retired macros, channel service, firmware images, and the reset of the device: the slots that
verify, the FAILCODE and PHASE where bring-up stops, and the macros and cores that fail their self-test.
The model's choices that it rests on: log 48, log 49, log 53, log 58, log 88 (a record is verified under its own PQREQ). -/
def Obligations.ServiceCommandsAndDeviceReset : Prop :=
  ∀ s : State,
    let h := s.hk
    let c := s.cur.core
    let k := s.core c
    (∀ a b, s.mbRuns 0x32 a b →
      let die := (a.extractLsb' 0 6).toNat / 32
      let left := if die = 0 then h.spareA else h.spareB
      (left = 0 → AnswersWith (exec .coreswap s) s 0x32 1 0 0) ∧
      (left ≠ 0 → ∃ i, AnswersWith (exec .coreswap s) { s with hk := { h with
        spareA := if die = 0 then h.spareA - 1 else h.spareA
        spareB := if die = 0 then h.spareB else h.spareB - 1
        swapReq := h.swapReq ++ [((a.extractLsb' 0 6).toNat, i)] } } 0x32 0 0 0)) ∧
    (∀ i, h.swapReq.find? (fun r => decide (r.1 = c.val)) = some (c.val, i) → s.occupied c = false → k.standby = none → ∃ t,
      exec .spareSwap s = .next t ∧ (s.lockstep (groveOf c) = false → SameOthers c s t) ∧ (∀ d, d.val / 2 ≠ c.val / 2 → t.core d = s.core d) ∧
      t.mem = s.mem ∧ t.sched = s.sched ∧ t.hk = { h with swapReq := h.swapReq.erase (c.val, i) } ∧
      (∀ a, (t.core c).scratchByte a = 0) ∧ (∀ r, mrd RowT.zero (t.core c).loc.acc r = RowT.zero) ∧ (t.core c).ms.l1 = [] ∧
      (t.core c).mode.quarantined = false ∧ (t.core c).mode.offline = false ∧
      ∀ m, ((t.core c).eng.cim.macro' m).retired = h.record.spareRetired.any (fun p => decide (p = (i, m)))) ∧
    (((∀ r ∈ h.swapReq, r.1 ≠ c.val) ∨ s.occupied c = true) → exec .spareSwap s = .next s) ∧
    (∀ a b, s.mbRuns 0x33 a b →
      let d := coreId (a.extractLsb' 16 6).toNat
      let m := (a.extractLsb' 0 7).toNat
      let taken := ((s.core d).eng.cim.macro' m).retired = true ∨ (d.val, m) ∈ h.macRetReq
      (taken → AnswersWith (exec .macret s) s 0x33 2 0 0) ∧
      (¬ taken → AnswersWith (exec .macret s) { s with hk := { h with macRetReq := h.macRetReq ++ [(d.val, m)] } } 0x33 0 0 0)) ∧
    (s.occupied c = false → k.standby = none → (∃ m, (c.val, m) ∈ h.macRetReq) → ∃ l, exec .macroRetirement s = .next { s.setCore c l with
        hk := { h with macRetReq := h.macRetReq.filter fun r => decide (r.1 ≠ c.val) } } ∧ l = { k with eng.cim.macros := l.eng.cim.macros } ∧
      ∀ m, l.eng.cim.macro' m = if (c.val, m) ∈ h.macRetReq then { k.eng.cim.macro' m with retired := true } else k.eng.cim.macro' m) ∧
    (s.occupied c = true ∨ (∀ r ∈ h.macRetReq, r.1 ≠ c.val) → exec .macroRetirement s = .next s) ∧
    (∀ a b, s.mbRuns 0x34 a b →
      (h.hbmSvc ≠ none → AnswersWith (exec .hbmsvc s) s 0x34 2 0 0) ∧
      (h.hbmSvc = none → AnswersWith (exec .hbmsvc s) { s with hk := { h with hbmSvc := some (a.extractLsb' 0 8).toNat } } 0x34 0 0 0)) ∧
    exec .hbmChannelResume s = .next { s with hk := { h with hbmSvc := none } } ∧
    (∀ a b, s.mbRuns 0x36 a b →
      let dom := (h.hxctx.extractLsb' 0 8).toNat
      let t := (b.extractLsb' 0 2).toNat
      let head := s.readVa dom .host a.toNat 64
      (head.1 = none → AnswersWith (exec .fwstage s) head.2 0x36 3 0 0) ∧
      ∀ x, head.1 = some x → let img := head.2.readVa dom .host a.toNat (stagedLength t a.toNat x)
        (img.1 = none → AnswersWith (exec .fwstage s) img.2 0x36 3 0 0) ∧
        ∀ y, img.1 = some y →
          let signed := Config.signatureOk (Record.ofSlot (h.flash.get 2).activeSlot).pqReq y
          (t = 3 ∨ signed = false → AnswersWith (exec .fwstage s) img.2 0x36 4 0 0) ∧
          ∀ j : Fin 3, t = j.val → signed = true →
            let f := h.flash.get j
            let g : Flash := { f with slotA := if f.active then some y else f.slotA, slotB := if f.active then f.slotB else some y, staged := true }
            AnswersWith (exec .fwstage s) { img.2 with hk := { img.2.hk with flash := h.flash.set j.val g j.isLt } } 0x36 0 0 0) ∧
    (∀ a b, s.mbRuns 0x37 a b →
      let t := (a.extractLsb' 0 2).toNat
      (t = 3 → AnswersWith (exec .fwswitch s) s 0x37 2 0 0) ∧
      ∀ j : Fin 3, t = j.val →
        let f := h.flash.get j
        (f.staged = false → AnswersWith (exec .fwswitch s) s 0x37 2 0 0) ∧
        (f.staged = true → ∃ u, AnswersWith (exec .fwswitch s) u 0x37 0 0 0 ∧ u.cores = s.cores ∧ u.sched = s.sched ∧ (t ≠ 0 → u.mem = s.mem) ∧
          u.hk.schedPend = (h.schedPend || t = 1) ∧ (∀ i, i ≠ j → u.hk.flash.get i = h.flash.get i) ∧
          u.hk.flash.get j = if t = 0 then { f with active := !f.active, staged := false, used := !f.active, image := if f.active then f.slotA else f.slotB }
            else { f with active := !f.active, staged := false })) ∧
    (let f := h.flash.get 1
     let g : Flash := { f with used := f.active, image := if f.active then f.slotB else f.slotA }
     exec .schedulerImageSwitch s = .next (if h.schedPend = true ∧ s.sched.launches = [] ∧ s.sched.waiting = []
       then { s with hk := { h with schedPend := false, flash := h.flash.set 1 g } } else s)) ∧
    ∃ t, exec .deviceReset s = .next t ∧ t.mem.ext = s.mem.ext ∧ t.mem.hbm = [] ∧ t.mem.keys = [] ∧ t.sched = Sched.reset ∧ t.queues = [] ∧
      t.todo = [] ∧ t.saved = none ∧
      (∀ d, (t.core d).regs = Regs.zero ∧ (t.core d).task = none ∧ (t.core d).traps = TrapRegs.reset ∧ (t.core d).loc.scratch = []) ∧
      (∀ p, p ∈ t.hk.broken ↔ p ∈ h.broken ∨ (p.1 = c.val ∧ ∃ i, i < s.cur.k2 ∧ p.2 = (s.cur.k + i) % 128)) ∧
      (let stops := fun (f : Nat) (fl : Vector Flash 3) =>
         t.hk.ready = false ∧ t.hk.failCode = f ∧ t.hk.flash = fl ∧
           t.hk.phase = if f = 1 then 1 else if f = 2 then 0 else if f = 3 then 2 else if f = 4 then 3 else 4
       ((h.flash.get 2).Dead recordVerifies s.cur.flag → stops 1 h.flash) ∧
       ∀ r, (h.flash.get 2).Boots recordVerifies s.cur.flag r →
         let rec_ := Record.ofSlot r.image
         let ok := slotVerifies rec_.pqReq
         t.hk.record = rec_ ∧
         ((h.flash.get 0).Dead ok (s.cur.v.getLsbD 8) ∨ (h.flash.get 1).Dead ok (s.cur.v.getLsbD 9) → stops 2 (h.flash.set 2 r)) ∧
         ∀ a b, (h.flash.get 0).Boots ok (s.cur.v.getLsbD 8) a → (h.flash.get 1).Boots ok (s.cur.v.getLsbD 9) b →
           let fl := ((h.flash.set 0 a).set 1 b).set 2 r
           let f := (s.cur.v.extractLsb' 0 3).toNat
           let spare := ∀ die, die < 2 → (brokenCores t.hk.broken die).length ≤ rec_.spares
           (1 ≤ f → f ≤ 5 → stops f fl) ∧
           ((f = 0 ∨ 5 < f) → (¬ spare → stops 5 fl) ∧
             (spare → t.hk.ready = true ∧ t.hk.failCode = 0 ∧ t.hk.phase = 6 ∧ t.hk.flash = fl ∧ ∀ d,
               ((brokenOf t.hk.broken d).length ≤ 8 → ∀ m, (d.val, m) ∈ t.hk.broken → ((t.core d).eng.cim.macro' m).retired = true) ∧
               (8 < (brokenOf t.hk.broken d).length → ∃ i, ∀ m, ((t.core d).eng.cim.macro' m).retired = rec_.spareRetired.any (fun p => decide (p = (i, m)))))))

/-- R88 to R91, R103, R337, R409, R414 to R416, R426: the mailbox: `MBSTAT` is read with DONE cleared, a step whose command does not run changes nothing,
and what each command does and answers, with its failures in order.
The model's choices that it rests on: log 48, log 49, log 52, log 74, log 75. -/
def Obligations.MailboxCommandsAnswer : Prop :=
  ∀ s : State,
    let h := s.hk
    exec .mbstatRead s = .next { s with hk := { h with lastRead := leBytes 8 h.mbstat.toNat, lastStatus := 0, mbstat := h.mbstat &&& 1 } } ∧
    (∀ p ∈ mailboxSteps, (h.mbCmd = none → exec p.1 s = .next s) ∧ ∀ c, h.mbCmd = some c →
      let op := ((c.words.getD 0 0).extractLsb' 0 8).toNat
      (h.ready = false → op ≠ 1 → AnswersWith (exec p.1 s) s op 0xFE 0 0) ∧
      (h.ready = true → op ∉ mailboxOps → AnswersWith (exec p.1 s) s op 0xFF 0 0) ∧
      ((h.ready = true ∨ op = 1) → op ∈ mailboxOps → op ≠ p.2 → exec p.1 s = .next s)) ∧
    (∀ a b, s.mbRuns 0x01 a b → ∃ d, AnswersWith (exec .attest s) { s with hk := { h with mbData := d, quotes := h.quotes + 1 } } 0x01 0
        (BitVec.ofNat 64 (if h.record.pqReq then 0x240 + 3309 else 0x240)) 0 ∧ rdNat d 0 4 = 1 ∧ rdNat d 8 8 = (h.quotes + 1) % 2 ^ 64 ∧
      rdBytes d 16 32 = rdBytes h.mbData 0 32) ∧
    (∀ a b, s.mbRuns 0x10 a b ∨ s.mbRuns 0x11 a b →
      let bad := a.toNat % 128 ≠ 0 ∨ b.toNat = 0 ∨ b.toNat % 128 ≠ 0 ∨ 0x7FC00000 < a.toNat + b.toNat
      let line := a.toNat / 128
      let set := s.mem.set (setOf line)
      (s.mbRuns 0x10 a b → bad → AnswersWith (exec .glalloc s) s 0x10 3 a 0) ∧
      (s.mbRuns 0x11 a b → bad → AnswersWith (exec .glfree s) s 0x11 3 a 0) ∧
      (¬ bad → b.toNat = 128 → set.ways.length = 16 →
        (s.mbRuns 0x10 a b → s.mem.gladeLine line = true → AnswersWith (exec .glalloc s) s 0x10 2 a 0) ∧
        (s.mbRuns 0x10 a b → s.mem.gladeLine line = false → set.admits h.pinlim.toNat = false → AnswersWith (exec .glalloc s) s 0x10 1 a 0) ∧
        (s.mbRuns 0x10 a b → s.mem.gladeLine line = false → set.admits h.pinlim.toNat = true → ∃ m l,
          AnswersWith (exec .glalloc s) { s with mem := m, hk := { h with recs := l } } 0x10 0 0 1 ∧
          m.gladeLine line = true ∧ m.ext = s.mem.ext ∧ (m.readAt 14 0 0 a.toNat 128).bytes = List.replicate 128 0) ∧
        (s.mbRuns 0x11 a b → s.mem.gladeLine line = false → AnswersWith (exec .glfree s) s 0x11 2 a 0) ∧
        (s.mbRuns 0x11 a b → s.mem.gladeLine line = true → ∃ m, AnswersWith (exec .glfree s) { s with mem := m } 0x11 0 0 1 ∧ m.hbm = s.mem.hbm ∧ m.ext = s.mem.ext))) ∧
    (∀ a b, s.mbRuns 0x12 a b →
      let n := (a.extractLsb' 0 20).toNat
      let w := (a.extractLsb' 20 4).toNat
      let set := s.mem.set n
      set.ways.length = 16 →
        (set.ways.getD w .invalid = .retired → AnswersWith (exec .cwret s) s 0x12 2 0 0) ∧
        (set.ways.getD w .invalid ≠ .retired → set.usable - 2 ≤ set.pinned → AnswersWith (exec .cwret s) s 0x12 1 0 0) ∧
        (set.ways.getD w .invalid ≠ .retired → set.pinned < set.usable - 2 → ∃ m l,
          AnswersWith (exec .cwret s) { s with mem := m, hk := { h with recs := l } } 0x12 0 0 0 ∧
          (m.set n).ways.getD w .invalid = .retired)) ∧
    (∀ op a b, s.mbRuns op a b →
      let c := s.pairCore (coreId (a.extractLsb' 0 6).toNat)
      let k := s.core c
      let out := fun (i : Instr) => exec i s
      (op = 0x20 → if s.outOfService c = true then AnswersWith (out .dbgctl) s op 1 0 0 else AnswersWith (out .dbgctl)
        (s.setCore c { k with mode := { k.mode with dbgEn := a.getLsbD 8, dbgStep := a.getLsbD 9, dbgHalt := a.getLsbD 10 && !k.mode.stopped } }) op 0 0 0) ∧
      (op = 0x21 → if s.outOfService c = true then AnswersWith (out .dbggo) s op 1 0 0 else if k.mode.stopped = false then AnswersWith (out .dbggo) s op 2 0 0
        else AnswersWith (out .dbggo) (s.setCore c { k with mode := { k.mode with stopped := false } }) op 0 0 0) ∧
      (op = 0x22 → if s.outOfService c = true then AnswersWith (out .dbgrd) s op 1 0 0 else if k.mode.stopped = false then AnswersWith (out .dbgrd) s op 2 0 0
        else
          let sp := (b.extractLsb' 12 4).toNat
          let i := (b.extractLsb' 0 12).toNat
          (∀ x : BitVec 6, sp = 0 → i = x.toNat → AnswersWith (out .dbgrd) s op 0 (k.regs.getX x) 0) ∧
          (∀ x : Fin 96, sp = 1 → i = x.val → AnswersWith (out .dbgrd) s op 0 (if k.regs.getP x then 1 else 0) 0) ∧
          (sp = 2 → AnswersWith (out .dbgrd) s op 0 ((k.vAt (k.vRow (BitVec.ofNat 6 (i / 64)))).data.extractLsb' (64 * (i % 64)) 64) 0) ∧
          (5 ≤ sp → ∃ v, AnswersWith (out .dbgrd) { s with freeCtr := s.freeCtr + 1 } op 0 v 0))) ∧
    (∀ a b, s.mbRuns 0x30 a b →
      let named := coreId (a.extractLsb' 16 6).toNat
      let c := s.pairCore named
      let k := s.core c
      let w := (a.extractLsb' 0 12).toNat
      let out := s.outOfService named = true ∨ s.outOfService c = true
      (out → AnswersWith (exec .mpwrite s) s 0x30 2 0 0) ∧
      (¬ out → k.eng.cim.pinned w = true → AnswersWith (exec .mpwrite s) s 0x30 1 0 0) ∧
      (¬ out → k.eng.cim.pinned w = false →
        AnswersWith (exec .mpwrite s) (s.setCore c { k with eng.cim.store := mwr 0 k.eng.cim.store w b }) 0x30 0 0 0)) ∧
    (∀ a b, s.mbRuns 0x31 a b → ∃ u, AnswersWith (exec .hostTlbinv s) u 0x31 0 0 0 ∧ u.hk = s.hk ∧ u.sched = s.sched ∧ u.mem = { s.mem with groveTlb := u.mem.groveTlb } ∧
      let lo := (a.extractLsb' 16 40).toNat * 65536
      let hit := fun (e : TlbEnt) => e.domain = (a.extractLsb' 56 8).toNat ∧
        (b = BitVec.allOnes 64 ∨ (b ≠ 0 ∧ e.va < lo + b.toNat ∧ lo < e.va + leafSpan e.level))
      (∀ d e, e ∈ (u.core d).ms.tlb ↔ e ∈ (s.core d).ms.tlb ∧ ¬ hit e) ∧
      ∀ (g : Fin 8) e, e ∈ u.mem.groveTlb.get g ↔ e ∈ s.mem.groveTlb.get g ∧ ¬ hit e) ∧
    (∀ a b, s.mbRuns 0x38 a b →
      let id := (a.extractLsb' 0 8).toNat
      let p := Config.decryptKeyBlock (rdBytes h.mbData 0 384)
      (id = 0 ∨ mrd 0 s.mem.keys id ≠ 0 → AnswersWith (exec .keyload s) s 0x38 1 0 0) ∧
      (id ≠ 0 → mrd 0 s.mem.keys id = 0 →
        (p = none → AnswersWith (exec .keyload s) s 0x38 3 0 0) ∧
        (∀ l, p = some l → l.length ≠ 72 ∨ (l.getD 64 0).toNat ≠ id → AnswersWith (exec .keyload s) s 0x38 3 0 0) ∧
        (∀ l, p = some l → l.length = 72 → (l.getD 64 0).toNat = id → ∃ t, AnswersWith (exec .keyload s) { s with mem := { s.mem with keys := t } } 0x38 0 0 0 ∧
          mrd 0 t id ≠ 0 ∧ ∀ j, j ≠ id → mrd 0 t j = mrd 0 s.mem.keys j))) ∧
    ∀ a b, s.mbRuns 0x39 a b →
      let id := (a.extractLsb' 0 8).toNat
      (id = 0 ∨ mrd 0 s.mem.keys id = 0 → AnswersWith (exec .keyunld s) s 0x39 2 0 0) ∧
      (id ≠ 0 → mrd 0 s.mem.keys id ≠ 0 → ∃ m l, AnswersWith (exec .keyunld s) { s with mem := m, hk := { h with recs := l } } 0x39 0 0 0 ∧ mrd 0 m.keys id = 0 ∧
        (∀ j, j ≠ id → mrd 0 m.keys j = mrd 0 s.mem.keys j) ∧ m.ext = s.mem.ext)

/-! ### The windows of the host and the peers -/

/-- R5, R43, R370, R410 to R412: scheduler memory takes aligned writes of 4 to 64 bytes and drops those that meet the acceptance in progress; each
register of `W0` takes what is written as its rule says; `W1` and `W2` perform a translated request or refuse it with its record; a peer is
served in the domain of its port, in an answer whose first flit has its type, tag and cause (R423).
The model's choices that it rests on: log 50. -/
def Obligations.WindowsServeTheHostAndPeers : Prop :=
  (∀ (s : State) (o : Nat) (bs : List Byte),
    let n := bs.length
    let form := n ∈ [4, 8, 16, 32, 64] ∧ o % n = 0
    let out := exec (.schedulerMemoryWrite o bs) s
    (¬ form → out = .next (s.answers 1 [])) ∧
    (form → 0x700000 ≤ o → out = .next (s.answers 0 [])) ∧
    (form → o < 0x700000 → s.sched.pinnedRange o n = true → ∃ v, out = .next ({ s with hk := { s.hk with hstat := v } }.answers 0 []) ∧
      v.getLsbD 2 = true ∧ v.extractLsb' 32 24 = BitVec.ofNat 24 o ∧ v.extractLsb' 0 2 = s.hk.hstat.extractLsb' 0 2) ∧
    (form → o < 0x700000 → s.sched.pinnedRange o n = false → (o + n ≤ 0x1000 ∨ 0x5000 ≤ o) → ∃ m,
      out = .next ({ s with sched := { s.sched with mem := m } }.answers 0 []) ∧
      ∀ a, mrd 0 m a = if o ≤ a ∧ a < o + n then bs.getD (a - o) 0 else mrd 0 s.sched.mem a)) ∧
  (∀ (s : State) (v : W64) (o : Nat), s.cur.flag = true → o < 0x800000 → exec (.registerWrite o v) s = .next (s.answers 1 [])) ∧
  (∀ (s : State) (v : W64), s.cur.flag = false →
    let h := s.hk
    let sets := fun (o : Nat) (g : Hsk) => exec (.registerWrite o v) s = .next ({ s with hk := g }.answers 0 [])
    let viaStep := fun (o k : Nat) (i : Instr) => exec (.registerWrite o v) s = exec i { s.answers 0 [] with cur := { s.cur with k := k, v := v } }
    viaStep 0x08 0 .envelopeWrite ∧ viaStep 0x10 0 .pcapWrite ∧ viaStep 0x20 0 .protmodeWrite ∧ viaStep 0x28 0 .pinlimWrite ∧ viaStep 0x30 0 .ageWrite ∧
    viaStep 0x40 0 .launchWrite ∧ (∀ i : Fin 32, viaStep (0x1000 + 32 * i.val) i.val .errorBankClear) ∧
    sets 0x50 { h with hxctx := v.extractLsb' 0 9 } ∧ sets 0x58 { h with w1base := v.extractLsb' 36 20 } ∧ sets 0x60 { h with w2base := v.extractLsb' 36 20 } ∧
    sets 0x68 { h with hstat := h.hstat &&& ~~~(v &&& 0xE) } ∧ sets 0x70 { h with hint := h.hint &&& ~~~(v &&& 0x1F) } ∧
    (∀ p : Fin 12, sets (0x80 + 8 * p.val) { h with pxctx := h.pxctx.set p.val (v.extractLsb' 0 9) }) ∧
    (∀ i, i < 8 → sets (0x2040 + 8 * i) { h with mbReq := mwr 0 h.mbReq i v }) ∧
    (h.mbCmd = none → ∀ i, i < 1024 → sets (0x3000 + 8 * i) { h with mbData := wrBytes h.mbData (8 * i) (leBytes 8 v.toNat) }) ∧
    (∀ c, h.mbCmd = some c → (∀ i, i < 1024 → sets (0x3000 + 8 * i) h) ∧ (v.getLsbD 0 = true → sets 0x2000 { h with hstat := h.hstat ||| 2 })) ∧
    (h.mbCmd = none → v.getLsbD 0 = true →
      sets 0x2000 { h with mbCmd := some ⟨(List.range 8).map fun i => mrd 0 h.mbReq i⟩, mbstat := h.mbstat ||| 1 }) ∧
    (v.getLsbD 0 = false → sets 0x2000 h) ∧
    (∀ o ∈ [0x00, 0x18, 0x48, 0x78, 0x100, 0x200, 0x2008, 0x2080], sets o h) ∧
    ∀ o, o < 0x800000 → o % 8 ≠ 0 → exec (.registerWrite o v) s = .next (s.answers 1 [])) ∧
  (∀ (s : State) (a : HostAccess),
    let dom := (s.hk.hxctx.extractLsb' 0 8).toNat
    let va := s.hk.w1base.toNat * 2 ^ 36 + a.off % 2 ^ 36
    let r := s.transHost dom va a.kind false
    let out := exec (.hostW1Access a) s
    let on := s.hk.ready = true ∧ s.hk.hxctx.getLsbD 8 = true
    (¬ on → out = .next (s.answers 1 [])) ∧
    (on → reqMisaligned va a.kind = true → ∃ e, out = .next { s.answers 3 [] with hk := { (s.answers 3 []).hk with recs := queueRec s.hk.recs e } } ∧
      e.event = 0x06 ∧ e.cause = 0x07 ∧ e.unit = 12 ∧ e.domain = dom) ∧
    (on → reqMisaligned va a.kind = false →
      (∀ c d, r.1 = .error (c, d) → ∃ e, out = .next { r.2.answers 2 [] with hk := { (r.2.answers 2 []).hk with recs := queueRec r.2.hk.recs e } } ∧
        e.event = 0x06 ∧ e.cause = c ∧ e.detail = d ∧ e.unit = 12 ∧ e.domain = dom) ∧
      ∀ segs, r.1 = .ok segs →
        (∀ n, a.kind = .read n → ∃ t, out = .next t ∧ t.cores = s.cores ∧ t.sched = s.sched ∧ t.hk.lastStatus = 0 ∧
          t.hk.lastRead = (r.2.mem.readSegs segs).bytes ∧ t.mem = (r.2.mem.readSegs segs).mem) ∧
        (∀ b, a.kind = .write b → ∃ t, out = .next t ∧ t.cores = s.cores ∧ t.sched = s.sched ∧ t.hk.lastStatus = 0 ∧
          t.mem = (r.2.mem.writeSegs segs b false).1) ∧
        ∀ n v, a.kind = .fetchAdd n v → (r.2.mem.readSegs segs).bad = false → ∃ t, out = .next t ∧ t.cores = s.cores ∧
          t.hk.lastRead = (r.2.mem.readSegs segs).bytes ∧
          t.mem = ((r.2.mem.readSegs segs).mem.writeSegs segs (leBytes n (leNat (r.2.mem.readSegs segs).bytes + v.toNat)) false).1)) ∧
  (∀ (s : State) (o n : Nat) (write : Bool),
    let dom := (s.hk.hxctx.extractLsb' 0 8).toNat
    let va := s.hk.w2base.toNat * 2 ^ 36 + o % 2 ^ 36
    let r := s.transHost dom va (.read n) true
    let out := exec (.hostW2Read o n write) s
    let on := s.hk.ready = true ∧ s.hk.hxctx.getLsbD 8 = true
    let misaligned := n = 0 ∨ va % n ≠ 0
    (¬ on → out = .next (s.answers 1 [])) ∧
    (on → s.cur.flag = true → misaligned → ∃ e, out = .next { s.answers 3 [] with hk := { (s.answers 3 []).hk with recs := queueRec s.hk.recs e } } ∧
      e.event = 0x06 ∧ e.cause = 0x07 ∧ e.unit = 12 ∧ e.domain = dom) ∧
    (on → (s.cur.flag = true ∧ ¬ misaligned ∨ s.cur.flag = false ∧ write = true) → out = .next (s.answers 1 [])) ∧
    (on → s.cur.flag = false → write = false →
      (∀ segs, r.1 = .ok segs → ∃ t, out = .next t ∧ t.cores = s.cores ∧ t.sched = s.sched ∧ t.hk.lastStatus = 0 ∧
        t.hk.lastRead = (r.2.mem.readSegs segs).bytes) ∧
      ∀ c d, r.1 = .error (c, d) → ∃ e, out = .next { r.2.answers 2 [] with hk := { (r.2.answers 2 []).hk with recs := queueRec r.2.hk.recs e } } ∧
        e.event = 0x06 ∧ e.cause = c)) ∧
  ∀ (s : State) (p : Fin 12) (a : PeerAccess), s.cur.flag = false →
    let ctx := s.hk.pxctx.get p
    let dom := (ctx.extractLsb' 0 8).toNat
    let r := s.transHost dom a.addr.toNat a.kind false
    let out := exec (.inboundPeerRequest p a) s
    let flit := fun (t : State) (type : Nat) => (t.hk.lastFlit.extractLsb' 0 8).toNat = type ∧ (t.hk.lastFlit.extractLsb' 16 16).toNat = s.cur.k % 65536
    (s.mem.linkUp.getLsbD p.val = false → out = .next s) ∧
    (s.mem.linkUp.getLsbD p.val = true → ctx.getLsbD 8 = false → ∃ t, out = .next t ∧ t.cores = s.cores ∧ t.mem = s.mem ∧ t.hk.lastStatus = 256 ∧
      flit t 4 ∧ t.hk.lastFlit.extractLsb' 8 8 = 0) ∧
    (s.mem.linkUp.getLsbD p.val = true → ctx.getLsbD 8 = true → reqMisaligned a.addr.toNat a.kind = true → ∃ t e, out = .next t ∧ t.cores = s.cores ∧
      t.mem = s.mem ∧ t.hk.lastStatus = 256 + 0x07 ∧ flit t 4 ∧ t.hk.lastFlit.extractLsb' 8 8 = 0x07 ∧ t.hk.recs = queueRec s.hk.recs e ∧
      e.event = 0x06 ∧ e.unit = 11 ∧ e.port = p.val ∧ e.cause = 0x07) ∧
    (s.mem.linkUp.getLsbD p.val = true → ctx.getLsbD 8 = true → reqMisaligned a.addr.toNat a.kind = false →
      (∀ c d, r.1 = .error (c, d) → ∃ t e, out = .next t ∧ t.cores = s.cores ∧ t.hk.lastStatus = 256 + c.toNat ∧ t.hk.recs = queueRec r.2.hk.recs e ∧
        e.event = 0x06 ∧ e.unit = 11 ∧ e.port = p.val ∧ e.cause = c ∧ e.detail = d ∧ flit t 4 ∧ t.hk.lastFlit.extractLsb' 8 8 = c) ∧
      ∀ segs, r.1 = .ok segs →
        (∀ n, a.kind = .read n → ∃ t, out = .next t ∧ t.cores = s.cores ∧ t.hk.lastStatus = 0 ∧ t.hk.lastRead = (r.2.mem.readSegs segs).bytes ∧
          flit t (if (r.2.mem.readSegs segs).bytes = [] then 3 else 2)) ∧
        ∀ b, a.kind = .write b → ∃ t, out = .next t ∧ t.cores = s.cores ∧ t.hk.lastStatus = 0 ∧ t.mem = (r.2.mem.writeSegs segs b false).1 ∧ flit t 3)

/-! ### Whole-machine rules -/

/-- Tier 3. R21, R87, R381, R420, R422: no step makes an illegal value of `PINLIM`, `AGE`, the envelope or the power granted. -/
def Obligations.StepsKeepTheModesLegal : Prop :=
  ∀ s t : State, ModesLegal s → step s = .next t → ModesLegal t

/-- R10, R14, R113: a trigger, whether it completes or traps, changes nothing of the scheduler, of the copy queues or of the system copy engines,
and of another core nothing but what a walk of their grove gives it: a miss of that core that joins the walk or is served before it ends, with a
TLB entry or with a report for a later boundary (R45). What else a trigger does to other cores waits for the release of its interval.
The model's choices that it rests on: log 13, log 25 and log 55 (when walks are served). -/
def Obligations.TriggersLeaveOtherCoresAlone : Prop :=
  ∀ (op d : Nat) (m : Mv) (i : Instr) (s t : State), trigOf op d m = some i → exec i s = .next t →
    t.sched = s.sched ∧ t.sysCopies = s.sysCopies ∧ t.queues = s.queues ∧
    ∀ c : CoreId, c ≠ s.ctx.core →
      (groveOf c ≠ groveOf s.ctx.core → t.core c = s.core c) ∧
      t.core c = { s.core c with
        reports := (t.core c).reports, ms := { (s.core c).ms with walks := (t.core c).ms.walks, tlb := (t.core c).ms.tlb } } ∧
      (∃ new, (t.core c).reports = (s.core c).reports ++ new) ∧ ∀ w ∈ (t.core c).ms.walks, w ∈ (s.core c).ms.walks

/-- R6, R87, R381, R394, R412, R418, R419: the device at reset, ready with nothing resident: the values the manual gives; and its registers are legal.
The model's choices that it rests on: log 2, log 3, log 6, log 77 (`phase`). -/
def Obligations.ResetLeavesTheDeviceReady : Prop :=
  let s := State.reset
  ModesLegal s ∧ Mem.wf s.mem = true ∧ s.hk.ready = true ∧ s.hk.phase = 6 ∧ s.hk.pinlim = 12 ∧ s.hk.age = 1024 ∧ s.hk.hxctx = 0 ∧ s.hk.w1base = 0 ∧ s.hk.w2base = 0 ∧
  s.hk.hstat = 0 ∧ s.hk.hint = 0 ∧ s.hk.lstat = 0 ∧ s.hk.mbstat = 0 ∧ (∀ n : Fin 12, s.hk.pxctx.get n = 0) ∧ s.sched.insts = [] ∧ s.sched.launches = [] ∧
  s.mem.hbm = [] ∧ s.mem.keys = [] ∧
  (∀ c : CoreId, (s.core c).task = none ∧ (s.core c).traps.tvec.extractLsb' 0 8 = 0 ∧ (s.core c).loc.scratch = [] ∧ (s.core c).loc.acc = [] ∧
    (s.core c).ms.l1 = [] ∧ (s.core c).ms.tlb = [] ∧ (s.core c).own = ⟨[], []⟩) ∧
  (∀ a, s.hbmByte a = 0) ∧ s.absent 0 = false
end

