-- ==== Sys2Proof/Laws/Memory.lean ====
section
/-! SUPPORT. Laws of memory: reads after writes, and that every operation on a sparse map keeps the canonical form. -/

namespace Sys2Proof.Machine

open Sys2Proof

/-! ### The order of keys -/

theorem rising_iff (l : List Nat) : rising l = true ↔ l.Pairwise (· < ·) := by
  induction l with
  | nil => simp [rising]
  | cons a l ih =>
    cases l with
    | nil => simp [rising]
    | cons b t =>
      simp only [rising, Bool.and_eq_true, decide_eq_true_eq, ih, List.pairwise_cons, List.mem_cons]
      constructor
      · rintro ⟨h, h1, h2⟩
        refine ⟨?_, h1, h2⟩
        rintro x (rfl | hx)
        · exact h
        · exact h.trans (h1 x hx)
      · rintro ⟨h, h1, h2⟩
        exact ⟨h b (.inl rfl), h1, h2⟩

theorem mwf_iff {β : Type} [DecidableEq β] (d : β) (m : SMap β) :
    mwf d m = true ↔ (m.map Prod.fst).Pairwise (· < ·) ∧ ∀ e ∈ m, e.2 ≠ d := by
  simp [mwf, rising_iff]

@[simp] theorem mwf_nil {β : Type} [DecidableEq β] (d : β) : mwf d ([] : SMap β) = true := rfl

/-! ### Inserting a pair -/

theorem mem_minsert {β : Type} (k : Nat) (v : β) (m : SMap β) (e : Nat × β) : e ∈ minsert k v m ↔ e = (k, v) ∨ e ∈ m := by
  induction m with
  | nil => simp [minsert]
  | cons a t ih =>
    simp only [minsert]
    split <;> simp [ih]
    tauto

theorem pairwise_minsert {β : Type} (k : Nat) (v : β) (m : SMap β) (h : (m.map Prod.fst).Pairwise (· < ·)) (hk : ∀ e ∈ m, e.1 ≠ k) :
    ((minsert k v m).map Prod.fst).Pairwise (· < ·) := by
  induction m with
  | nil => simp [minsert]
  | cons a t ih =>
    simp only [List.map_cons, List.pairwise_cons, List.mem_map, forall_exists_index, and_imp] at h
    simp only [minsert]
    split
    · next hlt =>
      simp only [List.map_cons, List.pairwise_cons, List.mem_cons, List.mem_map]
      refine ⟨?_, ?_, h.2⟩
      · rintro x (rfl | ⟨e, he, rfl⟩)
        · exact hlt
        · exact hlt.trans (h.1 _ e he rfl)
      · rintro x ⟨e, he, rfl⟩
        exact h.1 _ e he rfl
    · next hlt =>
      simp only [List.map_cons, List.pairwise_cons, List.mem_map]
      refine ⟨?_, ih h.2 (fun e he => hk e (by simp [he]))⟩
      rintro x ⟨e, he, rfl⟩
      rcases (mem_minsert k v t e).1 he with rfl | he
      · have := hk a (by simp)
        show a.1 < k
        omega
      · exact h.1 _ e he rfl

theorem lookup_minsert_self {β : Type} (k : Nat) (v : β) (m : SMap β) (hk : ∀ e ∈ m, e.1 ≠ k) : (minsert k v m).lookup k = some v := by
  induction m with
  | nil => simp [minsert]
  | cons p t ih =>
    obtain ⟨a, w⟩ := p
    have ha : (k == a) = false := by simpa using fun h : k = a => hk (a, w) (by simp) h.symm
    simp only [minsert]
    split
    · simp
    · simp only [List.lookup_cons, ha]
      exact ih fun e he => hk e (by simp [he])

theorem lookup_minsert_other {β : Type} (k j : Nat) (v : β) (m : SMap β) (h : j ≠ k) : (minsert k v m).lookup j = m.lookup j := by
  have hj : (j == k) = false := by simpa using h
  induction m with
  | nil => simp [minsert, List.lookup_cons, hj]
  | cons p t ih =>
    obtain ⟨a, w⟩ := p
    simp only [minsert]
    split
    · simp [List.lookup_cons, hj]
    · simp only [List.lookup_cons, ih]

theorem lookup_filter_other {β : Type} (k j : Nat) (m : SMap β) (h : j ≠ k) : (m.filter fun e => e.1 != k).lookup j = m.lookup j := by
  induction m with
  | nil => rfl
  | cons p t ih =>
    obtain ⟨a, w⟩ := p
    by_cases ha : a = k
    · have : (j == k) = false := by simp [h]
      simp [ha, List.lookup_cons, ih, this]
    · have : (a != k) = true := by simp [ha]
      simp only [List.filter_cons, this, if_true, List.lookup_cons, ih]

theorem lookup_filter_self {β : Type} (k : Nat) (m : SMap β) : (m.filter fun e => e.1 != k).lookup k = none := by
  induction m with
  | nil => rfl
  | cons p t ih =>
    obtain ⟨a, w⟩ := p
    by_cases ha : a = k
    · simp [ha, ih]
    · have h1 : (k == a) = false := by simpa using fun h : k = a => ha h.symm
      have h2 : (a != k) = true := by simp [ha]
      simp only [List.filter_cons, h2, if_true, List.lookup_cons, ih, h1]

/-! ### Reads after writes -/

@[simp] theorem mrd_mwr_self {β : Type} [DecidableEq β] (d : β) (m : SMap β) (k : Nat) (v : β) : mrd d (mwr d m k v) k = v := by
  unfold mrd mwr
  simp only
  split
  · next h => simp [lookup_filter_self, h]
  · rw [lookup_minsert_self _ _ _ (by simp)]
    rfl

theorem mrd_mwr_other {β : Type} [DecidableEq β] (d d' : β) (m : SMap β) (k j : Nat) (v : β) (h : j ≠ k) : mrd d' (mwr d m k v) j = mrd d' m j := by
  unfold mrd mwr
  simp only
  split
  · rw [lookup_filter_other _ _ _ h]
  · rw [lookup_minsert_other _ _ _ _ h, lookup_filter_other _ _ _ h]

/-- A write keeps the canonical form. -/
theorem mwf_mwr {β : Type} [DecidableEq β] (d : β) (m : SMap β) (k : Nat) (v : β) (h : mwf d m = true) : mwf d (mwr d m k v) = true := by
  rw [mwf_iff] at h ⊢
  obtain ⟨h1, h2⟩ := h
  have hf : ((m.filter fun e => e.1 != k).map Prod.fst).Pairwise (· < ·) := h1.sublist (List.filter_sublist.map _)
  unfold mwr
  simp only
  split
  · exact ⟨hf, fun e he => h2 e (List.mem_filter.1 he).1⟩
  · next hv =>
    refine ⟨pairwise_minsert _ _ _ hf (by simp), fun e he => ?_⟩
    rcases (mem_minsert _ _ _ _).1 he with rfl | he
    · exact hv
    · exact h2 e (List.mem_filter.1 he).1

/-- A run of byte writes keeps the canonical form. -/
theorem Memory.wf_wrBytes (m : Memory) (a : Nat) (l : List Byte) (h : Memory.wf m = true) : Memory.wf (wrBytes m a l) = true := by
  induction l generalizing m a with
  | nil => exact h
  | cons b t ih => exact ih _ _ (mwf_mwr _ _ _ _ h)

/-- A run of byte writes leaves every other byte alone. -/
theorem mrd_wrBytes_other (m : Memory) (a j : Nat) (l : List Byte) (h : j < a ∨ a + l.length ≤ j) : mrd 0 (wrBytes m a l) j = mrd 0 m j := by
  induction l generalizing m a with
  | nil => rfl
  | cons b t ih =>
    simp only [List.length_cons] at h
    rw [wrBytes, ih _ _ (by omega), mrd_mwr_other _ _ _ _ _ _ (by omega)]

/-- A run of byte writes reads back. -/
theorem mrd_wrBytes_self (m : Memory) (a i : Nat) (l : List Byte) (h : i < l.length) : mrd 0 (wrBytes m a l) (a + i) = l[i] := by
  induction l generalizing m a i with
  | nil => simp at h
  | cons b t ih =>
    cases i with
    | zero =>
      rw [wrBytes, mrd_wrBytes_other _ _ _ _ (by omega)]
      simp
    | succ i =>
      rw [wrBytes, show a + (i + 1) = a + 1 + i by omega, ih _ _ _ (by simpa using h)]
      simp

@[simp] theorem rdBytes_length (m : Memory) (a n : Nat) : (rdBytes m a n).length = n := by simp [rdBytes]

theorem rdBytes_wrBytes (m : Memory) (a : Nat) (l : List Byte) : rdBytes (wrBytes m a l) a l.length = l := by
  apply List.ext_getElem
  · simp
  · intro i h _
    simp only [rdBytes, List.getElem_map, List.getElem_range]
    exact mrd_wrBytes_self _ _ _ _ (by simpa using h)

/-! ### Bytes and numbers -/

@[simp] theorem leBytes_length (n v : Nat) : (leBytes n v).length = n := by
  induction n generalizing v with
  | zero => rfl
  | succ n ih => simp [leBytes, ih]

theorem leNat_leBytes (n v : Nat) (h : v < 256 ^ n) : leNat (leBytes n v) = v := by
  induction n generalizing v with
  | zero => simp [leBytes, leNat] at *; omega
  | succ n ih =>
    simp only [leBytes, leNat, BitVec.toNat_ofNat]
    rw [ih (v / 256) (by rw [Nat.pow_succ] at h; omega)]
    omega

theorem leNat_lt (l : List Byte) : leNat l < 256 ^ l.length := by
  induction l with
  | nil => simp [leNat]
  | cons b t ih =>
    have := b.isLt
    simp only [leNat, List.length_cons, Nat.pow_succ]
    omega

/-! ### The stores of the device -/

theorem Core.wf_setRow (k : Core) (r : Nat) (v : RowT) (h : k.wf = true) : (k.setRow r v).wf = true := by
  simp only [Core.wf, Core.setRow, Bool.and_eq_true] at *
  exact ⟨⟨⟨⟨h.1.1.1.1, mwf_mwr _ _ _ _ h.1.1.1.2⟩, h.1.1.2⟩, h.1.2⟩, h.2⟩

theorem Core.wf_setV (k : Core) (i : BitVec 6) (v : RowT) (h : k.wf = true) : (k.setV i v).wf = true := by
  simp only [Core.wf, Core.setV, Bool.and_eq_true] at *
  exact ⟨⟨⟨h.1.1.1, mwf_mwr _ _ _ _ h.1.1.2⟩, h.1.2⟩, h.2⟩

/-- The row writes of an interval keep the canonical form when the store takes them. -/
theorem Core.wf_commitV (k : Core) (h : k.wf = true) : k.commitV.wf = true := by
  have put : ∀ (l : SMap (Option RowT)) (k : Core), k.wf = true → (l.foldl (fun k (e : Nat × Option RowT) => match e.2 with
      | some v => { k.setRow e.1 v with loc.fresh := k.loc.fresh ++ [(e.1, k.rowAt e.1)] }
      | none => k) k).wf = true := by
    intro l
    induction l with
    | nil => exact fun k h => h
    | cons e t ih =>
      intro k h
      obtain ⟨r, _ | v⟩ := e
      · exact ih _ h
      · exact ih _ (Core.wf_setRow _ r v h)
  have h' := put k.loc.vw k h
  simp only [Core.wf, Core.commitV, Bool.and_eq_true] at *
  exact ⟨⟨⟨h'.1.1.1, rfl⟩, h'.1.2⟩, h'.2⟩

theorem Core.wf_setDesc (k : Core) (i : Nat) (d : Desc) (h : k.wf = true) : (k.setDesc i d).wf = true := by
  simp only [Core.wf, Core.setDesc, Bool.and_eq_true] at *
  exact ⟨⟨h.1.1, mwf_mwr _ _ _ _ h.1.2⟩, h.2⟩

theorem Core.wf_setGranule (k : Core) (g v : Nat) (h : k.wf = true) : (k.setGranule g v).wf = true := by
  simp only [Core.wf, Core.setGranule, Bool.and_eq_true] at *
  exact ⟨h.1, mwf_mwr _ _ _ _ h.2⟩

theorem Mem.wf_putBlock (m : Mem) (b : Nat) (v : Block) (h : m.wf = true) : (m.putBlock b v).wf = true := by
  simp only [Mem.wf, Mem.putBlock, Bool.and_eq_true] at *
  exact ⟨⟨⟨h.1.1.1, mwf_mwr _ _ _ _ h.1.1.2⟩, h.1.2⟩, h.2⟩

/-- A Canopy set written keeps the canonical form. -/
theorem Mem.wf_putSet (m : Mem) (n : Nat) (v : CSet) (h : m.wf = true) : (m.putSet n v).wf = true := by
  simp only [Mem.wf, Mem.putSet, Bool.and_eq_true] at *
  refine ⟨h.1, ?_⟩
  obtain ⟨h1, h2⟩ : rising (m.canopy.map Prod.fst) = true ∧ (m.canopy.all fun e => decide (e.2 ≠ setDefault e.1)) = true := by
    simpa only [canopyWf, Bool.and_eq_true] using h.2
  rw [rising_iff] at h1
  have hf : ((m.canopy.filter fun e => e.1 != n).map Prod.fst).Pairwise (· < ·) := h1.sublist (List.filter_sublist.map _)
  simp only [canopyWf, Bool.and_eq_true, rising_iff, mwr, List.all_eq_true, decide_eq_true_eq] at h2 ⊢
  split
  · exact ⟨hf, fun e he => h2 e (List.mem_filter.1 he).1⟩
  · next hv =>
    refine ⟨pairwise_minsert _ _ _ hf (by simp), fun e he => ?_⟩
    rcases (mem_minsert _ _ _ _).1 he with rfl | he
    · exact hv
    · exact h2 e (List.mem_filter.1 he).1

/-- A block written to home 0 keeps the canonical form. -/
theorem Mem.wf_storeBlock (m : Mem) (b key cls : Nat) (data : List Byte) (p e : Bool) (h : m.wf = true) :
    (m.storeBlock b key cls data p e).wf = true := by
  unfold Mem.storeBlock
  apply Mem.wf_putBlock
  simp only [Mem.wf, Bool.and_eq_true] at *
  exact ⟨⟨⟨⟨Memory.wf_wrBytes _ _ _ h.1.1.1.1, h.1.1.1.2⟩, h.1.1.2⟩, h.1.2⟩, h.2⟩

theorem State.reset_mem_wf : State.reset.mem.wf = true := rfl

end Sys2Proof.Machine
end

