-- ==== Sys2Proof/Laws/State.lean ====
section
/-! SUPPORT. Laws of State: what each update leaves in each field, one lemma a field, so that no later proof unfolds a record update. -/

namespace Sys2Proof.Machine

open Sys2Proof

/-! ### One core of the device -/

theorem State.core_setCore (s : State) (c d : CoreId) (k : Core) : (s.setCore c k).core d = if d = c then k else s.core d := by
  by_cases h : d = c
  · subst h; simp [State.core, State.setCore, Vector.get_eq_getElem]
  · have : c.val ≠ d.val := fun e => h (Fin.ext e.symm)
    simp [State.core, State.setCore, Vector.get_eq_getElem, h, this]

@[simp] theorem State.core_setCore_self (s : State) (c : CoreId) (k : Core) : (s.setCore c k).core c = k := by simp [State.core_setCore]

@[simp] theorem State.core_setCore_other (s : State) (c d : CoreId) (k : Core) (h : d ≠ c) : (s.setCore c k).core d = s.core d := by
  simp [State.core_setCore, h]

@[simp] theorem State.core_modCore_self (s : State) (c : CoreId) (f : Core → Core) : (s.modCore c f).core c = f (s.core c) := by simp [State.modCore]

@[simp] theorem State.core_modCore_other (s : State) (c d : CoreId) (f : Core → Core) (h : d ≠ c) : (s.modCore c f).core d = s.core d := by
  simp [State.modCore, h]

@[simp] theorem State.me_modMe (s : State) (f : Core → Core) : (s.modMe f).me = f s.me := by
  simp [State.me, State.modMe, State.modCore, State.setCore, State.core, Vector.get_eq_getElem]

@[simp] theorem State.core_modMe_other (s : State) (d : CoreId) (f : Core → Core) (h : d ≠ s.ctx.core) : (s.modMe f).core d = s.core d := by
  simp [State.modMe, h]

@[simp] theorem State.core_modMe_self (s : State) (f : Core → Core) : (s.modMe f).core s.ctx.core = f s.me := by
  simp [State.modMe, State.me]

/-! ### `setCore` -/

@[simp] theorem State.setCore_mem (s : State) (c : CoreId) (k : Core) : (s.setCore c k).mem = s.mem := rfl
@[simp] theorem State.setCore_sched (s : State) (c : CoreId) (k : Core) : (s.setCore c k).sched = s.sched := rfl
@[simp] theorem State.setCore_sysCopies (s : State) (c : CoreId) (k : Core) : (s.setCore c k).sysCopies = s.sysCopies := rfl
@[simp] theorem State.setCore_queues (s : State) (c : CoreId) (k : Core) : (s.setCore c k).queues = s.queues := rfl
@[simp] theorem State.setCore_served (s : State) (c : CoreId) (k : Core) : (s.setCore c k).served = s.served := rfl
@[simp] theorem State.setCore_hk (s : State) (c : CoreId) (k : Core) : (s.setCore c k).hk = s.hk := rfl
@[simp] theorem State.setCore_todo (s : State) (c : CoreId) (k : Core) : (s.setCore c k).todo = s.todo := rfl
@[simp] theorem State.setCore_ctx (s : State) (c : CoreId) (k : Core) : (s.setCore c k).ctx = s.ctx := rfl
@[simp] theorem State.setCore_saved (s : State) (c : CoreId) (k : Core) : (s.setCore c k).saved = s.saved := rfl
@[simp] theorem State.setCore_agenda (s : State) (c : CoreId) (k : Core) : (s.setCore c k).agenda = s.agenda := rfl
@[simp] theorem State.setCore_cur (s : State) (c : CoreId) (k : Core) : (s.setCore c k).cur = s.cur := rfl
@[simp] theorem State.setCore_clock (s : State) (c : CoreId) (k : Core) : (s.setCore c k).clock = s.clock := rfl
@[simp] theorem State.setCore_freeCtr (s : State) (c : CoreId) (k : Core) : (s.setCore c k).freeCtr = s.freeCtr := rfl

/-! ### `modCore` -/

@[simp] theorem State.modCore_mem (s : State) (c : CoreId) (f : Core → Core) : (s.modCore c f).mem = s.mem := rfl
@[simp] theorem State.modCore_sched (s : State) (c : CoreId) (f : Core → Core) : (s.modCore c f).sched = s.sched := rfl
@[simp] theorem State.modCore_sysCopies (s : State) (c : CoreId) (f : Core → Core) : (s.modCore c f).sysCopies = s.sysCopies := rfl
@[simp] theorem State.modCore_queues (s : State) (c : CoreId) (f : Core → Core) : (s.modCore c f).queues = s.queues := rfl
@[simp] theorem State.modCore_served (s : State) (c : CoreId) (f : Core → Core) : (s.modCore c f).served = s.served := rfl
@[simp] theorem State.modCore_hk (s : State) (c : CoreId) (f : Core → Core) : (s.modCore c f).hk = s.hk := rfl
@[simp] theorem State.modCore_todo (s : State) (c : CoreId) (f : Core → Core) : (s.modCore c f).todo = s.todo := rfl
@[simp] theorem State.modCore_ctx (s : State) (c : CoreId) (f : Core → Core) : (s.modCore c f).ctx = s.ctx := rfl
@[simp] theorem State.modCore_saved (s : State) (c : CoreId) (f : Core → Core) : (s.modCore c f).saved = s.saved := rfl
@[simp] theorem State.modCore_agenda (s : State) (c : CoreId) (f : Core → Core) : (s.modCore c f).agenda = s.agenda := rfl
@[simp] theorem State.modCore_cur (s : State) (c : CoreId) (f : Core → Core) : (s.modCore c f).cur = s.cur := rfl
@[simp] theorem State.modCore_clock (s : State) (c : CoreId) (f : Core → Core) : (s.modCore c f).clock = s.clock := rfl
@[simp] theorem State.modCore_freeCtr (s : State) (c : CoreId) (f : Core → Core) : (s.modCore c f).freeCtr = s.freeCtr := rfl

/-! ### `modMe` -/

@[simp] theorem State.modMe_mem (s : State) (f : Core → Core) : (s.modMe f).mem = s.mem := rfl
@[simp] theorem State.modMe_sched (s : State) (f : Core → Core) : (s.modMe f).sched = s.sched := rfl
@[simp] theorem State.modMe_sysCopies (s : State) (f : Core → Core) : (s.modMe f).sysCopies = s.sysCopies := rfl
@[simp] theorem State.modMe_queues (s : State) (f : Core → Core) : (s.modMe f).queues = s.queues := rfl
@[simp] theorem State.modMe_served (s : State) (f : Core → Core) : (s.modMe f).served = s.served := rfl
@[simp] theorem State.modMe_hk (s : State) (f : Core → Core) : (s.modMe f).hk = s.hk := rfl
@[simp] theorem State.modMe_todo (s : State) (f : Core → Core) : (s.modMe f).todo = s.todo := rfl
@[simp] theorem State.modMe_ctx (s : State) (f : Core → Core) : (s.modMe f).ctx = s.ctx := rfl
@[simp] theorem State.modMe_saved (s : State) (f : Core → Core) : (s.modMe f).saved = s.saved := rfl
@[simp] theorem State.modMe_agenda (s : State) (f : Core → Core) : (s.modMe f).agenda = s.agenda := rfl
@[simp] theorem State.modMe_cur (s : State) (f : Core → Core) : (s.modMe f).cur = s.cur := rfl
@[simp] theorem State.modMe_clock (s : State) (f : Core → Core) : (s.modMe f).clock = s.clock := rfl
@[simp] theorem State.modMe_freeCtr (s : State) (f : Core → Core) : (s.modMe f).freeCtr = s.freeCtr := rfl

/-! ### `modHk` -/

@[simp] theorem State.modHk_mem (s : State) (f : Hsk → Hsk) : (s.modHk f).mem = s.mem := rfl
@[simp] theorem State.modHk_sched (s : State) (f : Hsk → Hsk) : (s.modHk f).sched = s.sched := rfl
@[simp] theorem State.modHk_sysCopies (s : State) (f : Hsk → Hsk) : (s.modHk f).sysCopies = s.sysCopies := rfl
@[simp] theorem State.modHk_queues (s : State) (f : Hsk → Hsk) : (s.modHk f).queues = s.queues := rfl
@[simp] theorem State.modHk_served (s : State) (f : Hsk → Hsk) : (s.modHk f).served = s.served := rfl
@[simp] theorem State.modHk_todo (s : State) (f : Hsk → Hsk) : (s.modHk f).todo = s.todo := rfl
@[simp] theorem State.modHk_ctx (s : State) (f : Hsk → Hsk) : (s.modHk f).ctx = s.ctx := rfl
@[simp] theorem State.modHk_saved (s : State) (f : Hsk → Hsk) : (s.modHk f).saved = s.saved := rfl
@[simp] theorem State.modHk_agenda (s : State) (f : Hsk → Hsk) : (s.modHk f).agenda = s.agenda := rfl
@[simp] theorem State.modHk_cur (s : State) (f : Hsk → Hsk) : (s.modHk f).cur = s.cur := rfl
@[simp] theorem State.modHk_clock (s : State) (f : Hsk → Hsk) : (s.modHk f).clock = s.clock := rfl
@[simp] theorem State.modHk_freeCtr (s : State) (f : Hsk → Hsk) : (s.modHk f).freeCtr = s.freeCtr := rfl

/-! ### `bump` -/

@[simp] theorem State.bump_mem (s : State) : (s.bump).mem = s.mem := rfl
@[simp] theorem State.bump_sched (s : State) : (s.bump).sched = s.sched := rfl
@[simp] theorem State.bump_sysCopies (s : State) : (s.bump).sysCopies = s.sysCopies := rfl
@[simp] theorem State.bump_queues (s : State) : (s.bump).queues = s.queues := rfl
@[simp] theorem State.bump_served (s : State) : (s.bump).served = s.served := rfl
@[simp] theorem State.bump_hk (s : State) : (s.bump).hk = s.hk := rfl
@[simp] theorem State.bump_todo (s : State) : (s.bump).todo = s.todo := rfl
@[simp] theorem State.bump_ctx (s : State) : (s.bump).ctx = s.ctx := rfl
@[simp] theorem State.bump_saved (s : State) : (s.bump).saved = s.saved := rfl
@[simp] theorem State.bump_agenda (s : State) : (s.bump).agenda = s.agenda := rfl
@[simp] theorem State.bump_cur (s : State) : (s.bump).cur = s.cur := rfl
@[simp] theorem State.bump_clock (s : State) : (s.bump).clock = s.clock := rfl

/-! ### `addRec` -/

@[simp] theorem State.addRec_mem (s : State) (r : ErrRec) : (s.addRec r).mem = s.mem := rfl
@[simp] theorem State.addRec_sched (s : State) (r : ErrRec) : (s.addRec r).sched = s.sched := rfl
@[simp] theorem State.addRec_sysCopies (s : State) (r : ErrRec) : (s.addRec r).sysCopies = s.sysCopies := rfl
@[simp] theorem State.addRec_queues (s : State) (r : ErrRec) : (s.addRec r).queues = s.queues := rfl
@[simp] theorem State.addRec_served (s : State) (r : ErrRec) : (s.addRec r).served = s.served := rfl
@[simp] theorem State.addRec_todo (s : State) (r : ErrRec) : (s.addRec r).todo = s.todo := rfl
@[simp] theorem State.addRec_ctx (s : State) (r : ErrRec) : (s.addRec r).ctx = s.ctx := rfl
@[simp] theorem State.addRec_saved (s : State) (r : ErrRec) : (s.addRec r).saved = s.saved := rfl
@[simp] theorem State.addRec_agenda (s : State) (r : ErrRec) : (s.addRec r).agenda = s.agenda := rfl
@[simp] theorem State.addRec_cur (s : State) (r : ErrRec) : (s.addRec r).cur = s.cur := rfl
@[simp] theorem State.addRec_clock (s : State) (r : ErrRec) : (s.addRec r).clock = s.clock := rfl
@[simp] theorem State.addRec_freeCtr (s : State) (r : ErrRec) : (s.addRec r).freeCtr = s.freeCtr := rfl

/-! ### `addRecs` -/

@[simp] theorem State.addRecs_mem (s : State) (l : List ErrRec) : (s.addRecs l).mem = s.mem := rfl
@[simp] theorem State.addRecs_sched (s : State) (l : List ErrRec) : (s.addRecs l).sched = s.sched := rfl
@[simp] theorem State.addRecs_sysCopies (s : State) (l : List ErrRec) : (s.addRecs l).sysCopies = s.sysCopies := rfl
@[simp] theorem State.addRecs_queues (s : State) (l : List ErrRec) : (s.addRecs l).queues = s.queues := rfl
@[simp] theorem State.addRecs_served (s : State) (l : List ErrRec) : (s.addRecs l).served = s.served := rfl
@[simp] theorem State.addRecs_todo (s : State) (l : List ErrRec) : (s.addRecs l).todo = s.todo := rfl
@[simp] theorem State.addRecs_ctx (s : State) (l : List ErrRec) : (s.addRecs l).ctx = s.ctx := rfl
@[simp] theorem State.addRecs_saved (s : State) (l : List ErrRec) : (s.addRecs l).saved = s.saved := rfl
@[simp] theorem State.addRecs_agenda (s : State) (l : List ErrRec) : (s.addRecs l).agenda = s.agenda := rfl
@[simp] theorem State.addRecs_cur (s : State) (l : List ErrRec) : (s.addRecs l).cur = s.cur := rfl
@[simp] theorem State.addRecs_clock (s : State) (l : List ErrRec) : (s.addRecs l).clock = s.clock := rfl
@[simp] theorem State.addRecs_freeCtr (s : State) (l : List ErrRec) : (s.addRecs l).freeCtr = s.freeCtr := rfl

/-! ### `atTurn` -/

@[simp] theorem State.atTurn_mem (s : State) (a : Stim) : (s.atTurn a).mem = s.mem := rfl
@[simp] theorem State.atTurn_sched (s : State) (a : Stim) : (s.atTurn a).sched = s.sched := rfl
@[simp] theorem State.atTurn_sysCopies (s : State) (a : Stim) : (s.atTurn a).sysCopies = s.sysCopies := rfl
@[simp] theorem State.atTurn_queues (s : State) (a : Stim) : (s.atTurn a).queues = s.queues := rfl
@[simp] theorem State.atTurn_served (s : State) (a : Stim) : (s.atTurn a).served = s.served := rfl
@[simp] theorem State.atTurn_hk (s : State) (a : Stim) : (s.atTurn a).hk = s.hk := rfl
@[simp] theorem State.atTurn_todo (s : State) (a : Stim) : (s.atTurn a).todo = s.todo := rfl
@[simp] theorem State.atTurn_ctx (s : State) (a : Stim) : (s.atTurn a).ctx = s.ctx := rfl
@[simp] theorem State.atTurn_saved (s : State) (a : Stim) : (s.atTurn a).saved = s.saved := rfl
@[simp] theorem State.atTurn_freeCtr (s : State) (a : Stim) : (s.atTurn a).freeCtr = s.freeCtr := rfl

/-! ### `atSlot` -/

@[simp] theorem State.atSlot_mem (s : State) (i : Nat) (l : List (Bool × Nat × BitVec 24)) : (s.atSlot i l).mem = s.mem := rfl
@[simp] theorem State.atSlot_sched (s : State) (i : Nat) (l : List (Bool × Nat × BitVec 24)) : (s.atSlot i l).sched = s.sched := rfl
@[simp] theorem State.atSlot_sysCopies (s : State) (i : Nat) (l : List (Bool × Nat × BitVec 24)) : (s.atSlot i l).sysCopies = s.sysCopies := rfl
@[simp] theorem State.atSlot_queues (s : State) (i : Nat) (l : List (Bool × Nat × BitVec 24)) : (s.atSlot i l).queues = s.queues := rfl
@[simp] theorem State.atSlot_served (s : State) (i : Nat) (l : List (Bool × Nat × BitVec 24)) : (s.atSlot i l).served = s.served := rfl
@[simp] theorem State.atSlot_hk (s : State) (i : Nat) (l : List (Bool × Nat × BitVec 24)) : (s.atSlot i l).hk = s.hk := rfl
@[simp] theorem State.atSlot_ctx (s : State) (i : Nat) (l : List (Bool × Nat × BitVec 24)) : (s.atSlot i l).ctx = s.ctx := rfl
@[simp] theorem State.atSlot_saved (s : State) (i : Nat) (l : List (Bool × Nat × BitVec 24)) : (s.atSlot i l).saved = s.saved := rfl
@[simp] theorem State.atSlot_agenda (s : State) (i : Nat) (l : List (Bool × Nat × BitVec 24)) : (s.atSlot i l).agenda = s.agenda := rfl
@[simp] theorem State.atSlot_clock (s : State) (i : Nat) (l : List (Bool × Nat × BitVec 24)) : (s.atSlot i l).clock = s.clock := rfl
@[simp] theorem State.atSlot_freeCtr (s : State) (i : Nat) (l : List (Bool × Nat × BitVec 24)) : (s.atSlot i l).freeCtr = s.freeCtr := rfl

/-! ### `fly` -/

@[simp] theorem State.fly_mem (s : State) (p b : Nat) (v : Val) : (s.fly p b v).mem = s.mem := rfl
@[simp] theorem State.fly_sched (s : State) (p b : Nat) (v : Val) : (s.fly p b v).sched = s.sched := rfl
@[simp] theorem State.fly_sysCopies (s : State) (p b : Nat) (v : Val) : (s.fly p b v).sysCopies = s.sysCopies := rfl
@[simp] theorem State.fly_queues (s : State) (p b : Nat) (v : Val) : (s.fly p b v).queues = s.queues := rfl
@[simp] theorem State.fly_served (s : State) (p b : Nat) (v : Val) : (s.fly p b v).served = s.served := rfl
@[simp] theorem State.fly_hk (s : State) (p b : Nat) (v : Val) : (s.fly p b v).hk = s.hk := rfl
@[simp] theorem State.fly_todo (s : State) (p b : Nat) (v : Val) : (s.fly p b v).todo = s.todo := rfl
@[simp] theorem State.fly_ctx (s : State) (p b : Nat) (v : Val) : (s.fly p b v).ctx = s.ctx := rfl
@[simp] theorem State.fly_saved (s : State) (p b : Nat) (v : Val) : (s.fly p b v).saved = s.saved := rfl
@[simp] theorem State.fly_agenda (s : State) (p b : Nat) (v : Val) : (s.fly p b v).agenda = s.agenda := rfl
@[simp] theorem State.fly_cur (s : State) (p b : Nat) (v : Val) : (s.fly p b v).cur = s.cur := rfl
@[simp] theorem State.fly_clock (s : State) (p b : Nat) (v : Val) : (s.fly p b v).clock = s.clock := rfl
@[simp] theorem State.fly_freeCtr (s : State) (p b : Nat) (v : Val) : (s.fly p b v).freeCtr = s.freeCtr := rfl

/-! ### `bumpId` -/

@[simp] theorem State.bumpId_mem (s : State) : (s.bumpId).mem = s.mem := rfl
@[simp] theorem State.bumpId_sched (s : State) : (s.bumpId).sched = s.sched := rfl
@[simp] theorem State.bumpId_sysCopies (s : State) : (s.bumpId).sysCopies = s.sysCopies := rfl
@[simp] theorem State.bumpId_queues (s : State) : (s.bumpId).queues = s.queues := rfl
@[simp] theorem State.bumpId_served (s : State) : (s.bumpId).served = s.served := rfl
@[simp] theorem State.bumpId_hk (s : State) : (s.bumpId).hk = s.hk := rfl
@[simp] theorem State.bumpId_todo (s : State) : (s.bumpId).todo = s.todo := rfl
@[simp] theorem State.bumpId_ctx (s : State) : (s.bumpId).ctx = s.ctx := rfl
@[simp] theorem State.bumpId_saved (s : State) : (s.bumpId).saved = s.saved := rfl
@[simp] theorem State.bumpId_agenda (s : State) : (s.bumpId).agenda = s.agenda := rfl
@[simp] theorem State.bumpId_cur (s : State) : (s.bumpId).cur = s.cur := rfl
@[simp] theorem State.bumpId_clock (s : State) : (s.bumpId).clock = s.clock := rfl
@[simp] theorem State.bumpId_freeCtr (s : State) : (s.bumpId).freeCtr = s.freeCtr := rfl
@[simp] theorem State.modHk_cores (s : State) (f : Hsk → Hsk) : (s.modHk f).cores = s.cores := rfl
@[simp] theorem State.modHk_core (s : State) (f : Hsk → Hsk) (d : CoreId) : (s.modHk f).core d = s.core d := rfl
@[simp] theorem State.bump_cores (s : State) : (s.bump).cores = s.cores := rfl
@[simp] theorem State.bump_core (s : State) (d : CoreId) : (s.bump).core d = s.core d := rfl
@[simp] theorem State.addRec_cores (s : State) (r : ErrRec) : (s.addRec r).cores = s.cores := rfl
@[simp] theorem State.addRec_core (s : State) (r : ErrRec) (d : CoreId) : (s.addRec r).core d = s.core d := rfl
@[simp] theorem State.addRecs_cores (s : State) (l : List ErrRec) : (s.addRecs l).cores = s.cores := rfl
@[simp] theorem State.addRecs_core (s : State) (l : List ErrRec) (d : CoreId) : (s.addRecs l).core d = s.core d := rfl
@[simp] theorem State.atTurn_cores (s : State) (a : Stim) : (s.atTurn a).cores = s.cores := rfl
@[simp] theorem State.atTurn_core (s : State) (a : Stim) (d : CoreId) : (s.atTurn a).core d = s.core d := rfl
@[simp] theorem State.atSlot_cores (s : State) (i : Nat) (l : List (Bool × Nat × BitVec 24)) : (s.atSlot i l).cores = s.cores := rfl
@[simp] theorem State.atSlot_core (s : State) (i : Nat) (l : List (Bool × Nat × BitVec 24)) (d : CoreId) : (s.atSlot i l).core d = s.core d := rfl
@[simp] theorem State.modHk_hk (s : State) (f : Hsk → Hsk) : (s.modHk f).hk = f s.hk := rfl
@[simp] theorem State.bump_freeCtr (s : State) : s.bump.freeCtr = s.freeCtr + 1 := rfl
@[simp] theorem State.addRec_recs (s : State) (r : ErrRec) : (s.addRec r).hk.recs = queueRec s.hk.recs { r with cycle := s.clock } := rfl
@[simp] theorem State.addRecs_nil (s : State) : s.addRecs [] = s := rfl
@[simp] theorem State.addRecs_cons (s : State) (r : ErrRec) (l : List ErrRec) : s.addRecs (r :: l) = (s.addRec r).addRecs l := rfl
@[simp] theorem State.atTurn_cur (s : State) (a : Stim) : (s.atTurn a).cur = a := rfl
@[simp] theorem State.atTurn_clock (s : State) (a : Stim) : (s.atTurn a).clock = s.clock + 1 := rfl
@[simp] theorem State.atTurn_agenda (s : State) (a : Stim) : (s.atTurn a).agenda = s.agenda.tail := rfl
@[simp] theorem State.atSlot_todo (s : State) (i : Nat) (l : List (Bool × Nat × BitVec 24)) : (s.atSlot i l).todo = l := rfl
@[simp] theorem State.atSlot_slot (s : State) (i : Nat) (l : List (Bool × Nat × BitVec 24)) : (s.atSlot i l).cur.slot = i := rfl

/-! ### A core after `fly` -/

@[simp] theorem Core.fly_regs (k : Core) (p a b : Nat) (v : Val) (w : Row) : (k.fly p a b v w).regs = k.regs := rfl
@[simp] theorem Core.fly_pc (k : Core) (p a b : Nat) (v : Val) (w : Row) : (k.fly p a b v w).pc = k.pc := rfl
@[simp] theorem Core.fly_ctrl (k : Core) (p a b : Nat) (v : Val) (w : Row) : (k.fly p a b v w).ctrl = k.ctrl := rfl
@[simp] theorem Core.fly_traps (k : Core) (p a b : Nat) (v : Val) (w : Row) : (k.fly p a b v w).traps = k.traps := rfl
@[simp] theorem Core.fly_mode (k : Core) (p a b : Nat) (v : Val) (w : Row) : (k.fly p a b v w).mode = k.mode := rfl
@[simp] theorem Core.fly_loc (k : Core) (p a b : Nat) (v : Val) (w : Row) : (k.fly p a b v w).loc = k.loc := rfl
@[simp] theorem Core.fly_snap (k : Core) (p a b : Nat) (v : Val) (w : Row) : (k.fly p a b v w).snap = k.snap := rfl
@[simp] theorem Core.fly_ms (k : Core) (p a b : Nat) (v : Val) (w : Row) : (k.fly p a b v w).ms = k.ms := rfl
@[simp] theorem Core.fly_own (k : Core) (p a b : Nat) (v : Val) (w : Row) : (k.fly p a b v w).own = k.own := rfl
@[simp] theorem Core.fly_eng (k : Core) (p a b : Nat) (v : Val) (w : Row) : (k.fly p a b v w).eng = k.eng := rfl
@[simp] theorem Core.fly_reports (k : Core) (p a b : Nat) (v : Val) (w : Row) : (k.fly p a b v w).reports = k.reports := rfl
@[simp] theorem Core.fly_seq (k : Core) (p a b : Nat) (v : Val) (w : Row) : (k.fly p a b v w).seq = k.seq := rfl
@[simp] theorem Core.fly_task (k : Core) (p a b : Nat) (v : Val) (w : Row) : (k.fly p a b v w).task = k.task := rfl
@[simp] theorem Core.fly_ending (k : Core) (p a b : Nat) (v : Val) (w : Row) : (k.fly p a b v w).ending = k.ending := rfl
@[simp] theorem Core.fly_asked (k : Core) (p a b : Nat) (v : Val) (w : Row) : (k.fly p a b v w).asked = k.asked := rfl
@[simp] theorem Core.fly_lastDomain (k : Core) (p a b : Nat) (v : Val) (w : Row) : (k.fly p a b v w).lastDomain = k.lastDomain := rfl
@[simp] theorem Core.fly_standby (k : Core) (p a b : Nat) (v : Val) (w : Row) : (k.fly p a b v w).standby = k.standby := rfl
@[simp] theorem Core.fly_fatal (k : Core) (p a b : Nat) (v : Val) (w : Row) : (k.fly p a b v w).fatal = k.fatal := rfl

/-! ### A core after `setLatch` -/

@[simp] theorem Core.setLatch_regs (k : Core) (n : Nat) (v : Val) : (k.setLatch n v).regs = k.regs := rfl
@[simp] theorem Core.setLatch_pc (k : Core) (n : Nat) (v : Val) : (k.setLatch n v).pc = k.pc := rfl
@[simp] theorem Core.setLatch_ctrl (k : Core) (n : Nat) (v : Val) : (k.setLatch n v).ctrl = k.ctrl := rfl
@[simp] theorem Core.setLatch_traps (k : Core) (n : Nat) (v : Val) : (k.setLatch n v).traps = k.traps := rfl
@[simp] theorem Core.setLatch_mode (k : Core) (n : Nat) (v : Val) : (k.setLatch n v).mode = k.mode := rfl
@[simp] theorem Core.setLatch_loc (k : Core) (n : Nat) (v : Val) : (k.setLatch n v).loc = k.loc := rfl
@[simp] theorem Core.setLatch_snap (k : Core) (n : Nat) (v : Val) : (k.setLatch n v).snap = k.snap := rfl
@[simp] theorem Core.setLatch_ms (k : Core) (n : Nat) (v : Val) : (k.setLatch n v).ms = k.ms := rfl
@[simp] theorem Core.setLatch_own (k : Core) (n : Nat) (v : Val) : (k.setLatch n v).own = k.own := rfl
@[simp] theorem Core.setLatch_eng (k : Core) (n : Nat) (v : Val) : (k.setLatch n v).eng = k.eng := rfl
@[simp] theorem Core.setLatch_reports (k : Core) (n : Nat) (v : Val) : (k.setLatch n v).reports = k.reports := rfl
@[simp] theorem Core.setLatch_seq (k : Core) (n : Nat) (v : Val) : (k.setLatch n v).seq = k.seq := rfl
@[simp] theorem Core.setLatch_task (k : Core) (n : Nat) (v : Val) : (k.setLatch n v).task = k.task := rfl
@[simp] theorem Core.setLatch_ending (k : Core) (n : Nat) (v : Val) : (k.setLatch n v).ending = k.ending := rfl
@[simp] theorem Core.setLatch_asked (k : Core) (n : Nat) (v : Val) : (k.setLatch n v).asked = k.asked := rfl
@[simp] theorem Core.setLatch_lastDomain (k : Core) (n : Nat) (v : Val) : (k.setLatch n v).lastDomain = k.lastDomain := rfl
@[simp] theorem Core.setLatch_standby (k : Core) (n : Nat) (v : Val) : (k.setLatch n v).standby = k.standby := rfl
@[simp] theorem Core.setLatch_fatal (k : Core) (n : Nat) (v : Val) : (k.setLatch n v).fatal = k.fatal := rfl

/-! ### A core after `setPort` -/

@[simp] theorem Core.setPort_regs (k : Core) (n : Nat) (v : Val) : (k.setPort n v).regs = k.regs := rfl
@[simp] theorem Core.setPort_pc (k : Core) (n : Nat) (v : Val) : (k.setPort n v).pc = k.pc := rfl
@[simp] theorem Core.setPort_ctrl (k : Core) (n : Nat) (v : Val) : (k.setPort n v).ctrl = k.ctrl := rfl
@[simp] theorem Core.setPort_traps (k : Core) (n : Nat) (v : Val) : (k.setPort n v).traps = k.traps := rfl
@[simp] theorem Core.setPort_mode (k : Core) (n : Nat) (v : Val) : (k.setPort n v).mode = k.mode := rfl
@[simp] theorem Core.setPort_loc (k : Core) (n : Nat) (v : Val) : (k.setPort n v).loc = k.loc := rfl
@[simp] theorem Core.setPort_snap (k : Core) (n : Nat) (v : Val) : (k.setPort n v).snap = k.snap := rfl
@[simp] theorem Core.setPort_ms (k : Core) (n : Nat) (v : Val) : (k.setPort n v).ms = k.ms := rfl
@[simp] theorem Core.setPort_own (k : Core) (n : Nat) (v : Val) : (k.setPort n v).own = k.own := rfl
@[simp] theorem Core.setPort_eng (k : Core) (n : Nat) (v : Val) : (k.setPort n v).eng = k.eng := rfl
@[simp] theorem Core.setPort_reports (k : Core) (n : Nat) (v : Val) : (k.setPort n v).reports = k.reports := rfl
@[simp] theorem Core.setPort_seq (k : Core) (n : Nat) (v : Val) : (k.setPort n v).seq = k.seq := rfl
@[simp] theorem Core.setPort_task (k : Core) (n : Nat) (v : Val) : (k.setPort n v).task = k.task := rfl
@[simp] theorem Core.setPort_ending (k : Core) (n : Nat) (v : Val) : (k.setPort n v).ending = k.ending := rfl
@[simp] theorem Core.setPort_asked (k : Core) (n : Nat) (v : Val) : (k.setPort n v).asked = k.asked := rfl
@[simp] theorem Core.setPort_lastDomain (k : Core) (n : Nat) (v : Val) : (k.setPort n v).lastDomain = k.lastDomain := rfl
@[simp] theorem Core.setPort_standby (k : Core) (n : Nat) (v : Val) : (k.setPort n v).standby = k.standby := rfl
@[simp] theorem Core.setPort_fatal (k : Core) (n : Nat) (v : Val) : (k.setPort n v).fatal = k.fatal := rfl

/-! ### A core after `setRow` -/

@[simp] theorem Core.setRow_regs (k : Core) (n : Nat) (v : RowT) : (k.setRow n v).regs = k.regs := rfl
@[simp] theorem Core.setRow_pc (k : Core) (n : Nat) (v : RowT) : (k.setRow n v).pc = k.pc := rfl
@[simp] theorem Core.setRow_ctrl (k : Core) (n : Nat) (v : RowT) : (k.setRow n v).ctrl = k.ctrl := rfl
@[simp] theorem Core.setRow_traps (k : Core) (n : Nat) (v : RowT) : (k.setRow n v).traps = k.traps := rfl
@[simp] theorem Core.setRow_tr (k : Core) (n : Nat) (v : RowT) : (k.setRow n v).tr = k.tr := rfl
@[simp] theorem Core.setRow_mode (k : Core) (n : Nat) (v : RowT) : (k.setRow n v).mode = k.mode := rfl
@[simp] theorem Core.setRow_snap (k : Core) (n : Nat) (v : RowT) : (k.setRow n v).snap = k.snap := rfl
@[simp] theorem Core.setRow_ms (k : Core) (n : Nat) (v : RowT) : (k.setRow n v).ms = k.ms := rfl
@[simp] theorem Core.setRow_own (k : Core) (n : Nat) (v : RowT) : (k.setRow n v).own = k.own := rfl
@[simp] theorem Core.setRow_eng (k : Core) (n : Nat) (v : RowT) : (k.setRow n v).eng = k.eng := rfl
@[simp] theorem Core.setRow_reports (k : Core) (n : Nat) (v : RowT) : (k.setRow n v).reports = k.reports := rfl
@[simp] theorem Core.setRow_seq (k : Core) (n : Nat) (v : RowT) : (k.setRow n v).seq = k.seq := rfl
@[simp] theorem Core.setRow_task (k : Core) (n : Nat) (v : RowT) : (k.setRow n v).task = k.task := rfl
@[simp] theorem Core.setRow_ending (k : Core) (n : Nat) (v : RowT) : (k.setRow n v).ending = k.ending := rfl
@[simp] theorem Core.setRow_asked (k : Core) (n : Nat) (v : RowT) : (k.setRow n v).asked = k.asked := rfl
@[simp] theorem Core.setRow_lastDomain (k : Core) (n : Nat) (v : RowT) : (k.setRow n v).lastDomain = k.lastDomain := rfl
@[simp] theorem Core.setRow_standby (k : Core) (n : Nat) (v : RowT) : (k.setRow n v).standby = k.standby := rfl
@[simp] theorem Core.setRow_fatal (k : Core) (n : Nat) (v : RowT) : (k.setRow n v).fatal = k.fatal := rfl

/-! ### A core after `setV` -/

@[simp] theorem Core.setV_regs (k : Core) (i : BitVec 6) (v : RowT) : (k.setV i v).regs = k.regs := rfl
@[simp] theorem Core.setV_pc (k : Core) (i : BitVec 6) (v : RowT) : (k.setV i v).pc = k.pc := rfl
@[simp] theorem Core.setV_ctrl (k : Core) (i : BitVec 6) (v : RowT) : (k.setV i v).ctrl = k.ctrl := rfl
@[simp] theorem Core.setV_traps (k : Core) (i : BitVec 6) (v : RowT) : (k.setV i v).traps = k.traps := rfl
@[simp] theorem Core.setV_tr (k : Core) (i : BitVec 6) (v : RowT) : (k.setV i v).tr = k.tr := rfl
@[simp] theorem Core.setV_mode (k : Core) (i : BitVec 6) (v : RowT) : (k.setV i v).mode = k.mode := rfl
@[simp] theorem Core.setV_snap (k : Core) (i : BitVec 6) (v : RowT) : (k.setV i v).snap = k.snap := rfl
@[simp] theorem Core.setV_ms (k : Core) (i : BitVec 6) (v : RowT) : (k.setV i v).ms = k.ms := rfl
@[simp] theorem Core.setV_own (k : Core) (i : BitVec 6) (v : RowT) : (k.setV i v).own = k.own := rfl
@[simp] theorem Core.setV_eng (k : Core) (i : BitVec 6) (v : RowT) : (k.setV i v).eng = k.eng := rfl
@[simp] theorem Core.setV_reports (k : Core) (i : BitVec 6) (v : RowT) : (k.setV i v).reports = k.reports := rfl
@[simp] theorem Core.setV_seq (k : Core) (i : BitVec 6) (v : RowT) : (k.setV i v).seq = k.seq := rfl
@[simp] theorem Core.setV_task (k : Core) (i : BitVec 6) (v : RowT) : (k.setV i v).task = k.task := rfl
@[simp] theorem Core.setV_ending (k : Core) (i : BitVec 6) (v : RowT) : (k.setV i v).ending = k.ending := rfl
@[simp] theorem Core.setV_asked (k : Core) (i : BitVec 6) (v : RowT) : (k.setV i v).asked = k.asked := rfl
@[simp] theorem Core.setV_lastDomain (k : Core) (i : BitVec 6) (v : RowT) : (k.setV i v).lastDomain = k.lastDomain := rfl
@[simp] theorem Core.setV_standby (k : Core) (i : BitVec 6) (v : RowT) : (k.setV i v).standby = k.standby := rfl
@[simp] theorem Core.setV_fatal (k : Core) (i : BitVec 6) (v : RowT) : (k.setV i v).fatal = k.fatal := rfl

/-! ### A core after `setToken` -/

@[simp] theorem Core.setToken_regs (k : Core) (t : Nat) (v : BitVec 2) : (k.setToken t v).regs = k.regs := rfl
@[simp] theorem Core.setToken_pc (k : Core) (t : Nat) (v : BitVec 2) : (k.setToken t v).pc = k.pc := rfl
@[simp] theorem Core.setToken_ctrl (k : Core) (t : Nat) (v : BitVec 2) : (k.setToken t v).ctrl = k.ctrl := rfl
@[simp] theorem Core.setToken_traps (k : Core) (t : Nat) (v : BitVec 2) : (k.setToken t v).traps = k.traps := rfl
@[simp] theorem Core.setToken_tr (k : Core) (t : Nat) (v : BitVec 2) : (k.setToken t v).tr = k.tr := rfl
@[simp] theorem Core.setToken_mode (k : Core) (t : Nat) (v : BitVec 2) : (k.setToken t v).mode = k.mode := rfl
@[simp] theorem Core.setToken_loc (k : Core) (t : Nat) (v : BitVec 2) : (k.setToken t v).loc = k.loc := rfl
@[simp] theorem Core.setToken_snap (k : Core) (t : Nat) (v : BitVec 2) : (k.setToken t v).snap = k.snap := rfl
@[simp] theorem Core.setToken_ms (k : Core) (t : Nat) (v : BitVec 2) : (k.setToken t v).ms = k.ms := rfl
@[simp] theorem Core.setToken_own (k : Core) (t : Nat) (v : BitVec 2) : (k.setToken t v).own = k.own := rfl
@[simp] theorem Core.setToken_reports (k : Core) (t : Nat) (v : BitVec 2) : (k.setToken t v).reports = k.reports := rfl
@[simp] theorem Core.setToken_seq (k : Core) (t : Nat) (v : BitVec 2) : (k.setToken t v).seq = k.seq := rfl
@[simp] theorem Core.setToken_task (k : Core) (t : Nat) (v : BitVec 2) : (k.setToken t v).task = k.task := rfl
@[simp] theorem Core.setToken_ending (k : Core) (t : Nat) (v : BitVec 2) : (k.setToken t v).ending = k.ending := rfl
@[simp] theorem Core.setToken_asked (k : Core) (t : Nat) (v : BitVec 2) : (k.setToken t v).asked = k.asked := rfl
@[simp] theorem Core.setToken_lastDomain (k : Core) (t : Nat) (v : BitVec 2) : (k.setToken t v).lastDomain = k.lastDomain := rfl
@[simp] theorem Core.setToken_standby (k : Core) (t : Nat) (v : BitVec 2) : (k.setToken t v).standby = k.standby := rfl
@[simp] theorem Core.setToken_fatal (k : Core) (t : Nat) (v : BitVec 2) : (k.setToken t v).fatal = k.fatal := rfl

/-! ### A core after `setDesc` -/

@[simp] theorem Core.setDesc_regs (k : Core) (i : Nat) (d : Desc) : (k.setDesc i d).regs = k.regs := rfl
@[simp] theorem Core.setDesc_pc (k : Core) (i : Nat) (d : Desc) : (k.setDesc i d).pc = k.pc := rfl
@[simp] theorem Core.setDesc_ctrl (k : Core) (i : Nat) (d : Desc) : (k.setDesc i d).ctrl = k.ctrl := rfl
@[simp] theorem Core.setDesc_traps (k : Core) (i : Nat) (d : Desc) : (k.setDesc i d).traps = k.traps := rfl
@[simp] theorem Core.setDesc_tr (k : Core) (i : Nat) (d : Desc) : (k.setDesc i d).tr = k.tr := rfl
@[simp] theorem Core.setDesc_mode (k : Core) (i : Nat) (d : Desc) : (k.setDesc i d).mode = k.mode := rfl
@[simp] theorem Core.setDesc_loc (k : Core) (i : Nat) (d : Desc) : (k.setDesc i d).loc = k.loc := rfl
@[simp] theorem Core.setDesc_snap (k : Core) (i : Nat) (d : Desc) : (k.setDesc i d).snap = k.snap := rfl
@[simp] theorem Core.setDesc_ms (k : Core) (i : Nat) (d : Desc) : (k.setDesc i d).ms = k.ms := rfl
@[simp] theorem Core.setDesc_eng (k : Core) (i : Nat) (d : Desc) : (k.setDesc i d).eng = k.eng := rfl
@[simp] theorem Core.setDesc_reports (k : Core) (i : Nat) (d : Desc) : (k.setDesc i d).reports = k.reports := rfl
@[simp] theorem Core.setDesc_seq (k : Core) (i : Nat) (d : Desc) : (k.setDesc i d).seq = k.seq := rfl
@[simp] theorem Core.setDesc_task (k : Core) (i : Nat) (d : Desc) : (k.setDesc i d).task = k.task := rfl
@[simp] theorem Core.setDesc_ending (k : Core) (i : Nat) (d : Desc) : (k.setDesc i d).ending = k.ending := rfl
@[simp] theorem Core.setDesc_asked (k : Core) (i : Nat) (d : Desc) : (k.setDesc i d).asked = k.asked := rfl
@[simp] theorem Core.setDesc_lastDomain (k : Core) (i : Nat) (d : Desc) : (k.setDesc i d).lastDomain = k.lastDomain := rfl
@[simp] theorem Core.setDesc_standby (k : Core) (i : Nat) (d : Desc) : (k.setDesc i d).standby = k.standby := rfl
@[simp] theorem Core.setDesc_fatal (k : Core) (i : Nat) (d : Desc) : (k.setDesc i d).fatal = k.fatal := rfl

/-! ### A core after `setGranule` -/

@[simp] theorem Core.setGranule_regs (k : Core) (g v : Nat) : (k.setGranule g v).regs = k.regs := rfl
@[simp] theorem Core.setGranule_pc (k : Core) (g v : Nat) : (k.setGranule g v).pc = k.pc := rfl
@[simp] theorem Core.setGranule_ctrl (k : Core) (g v : Nat) : (k.setGranule g v).ctrl = k.ctrl := rfl
@[simp] theorem Core.setGranule_traps (k : Core) (g v : Nat) : (k.setGranule g v).traps = k.traps := rfl
@[simp] theorem Core.setGranule_tr (k : Core) (g v : Nat) : (k.setGranule g v).tr = k.tr := rfl
@[simp] theorem Core.setGranule_mode (k : Core) (g v : Nat) : (k.setGranule g v).mode = k.mode := rfl
@[simp] theorem Core.setGranule_loc (k : Core) (g v : Nat) : (k.setGranule g v).loc = k.loc := rfl
@[simp] theorem Core.setGranule_snap (k : Core) (g v : Nat) : (k.setGranule g v).snap = k.snap := rfl
@[simp] theorem Core.setGranule_ms (k : Core) (g v : Nat) : (k.setGranule g v).ms = k.ms := rfl
@[simp] theorem Core.setGranule_eng (k : Core) (g v : Nat) : (k.setGranule g v).eng = k.eng := rfl
@[simp] theorem Core.setGranule_reports (k : Core) (g v : Nat) : (k.setGranule g v).reports = k.reports := rfl
@[simp] theorem Core.setGranule_seq (k : Core) (g v : Nat) : (k.setGranule g v).seq = k.seq := rfl
@[simp] theorem Core.setGranule_task (k : Core) (g v : Nat) : (k.setGranule g v).task = k.task := rfl
@[simp] theorem Core.setGranule_ending (k : Core) (g v : Nat) : (k.setGranule g v).ending = k.ending := rfl
@[simp] theorem Core.setGranule_asked (k : Core) (g v : Nat) : (k.setGranule g v).asked = k.asked := rfl
@[simp] theorem Core.setGranule_lastDomain (k : Core) (g v : Nat) : (k.setGranule g v).lastDomain = k.lastDomain := rfl
@[simp] theorem Core.setGranule_standby (k : Core) (g v : Nat) : (k.setGranule g v).standby = k.standby := rfl
@[simp] theorem Core.setGranule_fatal (k : Core) (g v : Nat) : (k.setGranule g v).fatal = k.fatal := rfl

/-! ### A core after `tick` -/

@[simp] theorem Core.tick_regs (k : Core) : (k.tick).regs = k.regs := rfl
@[simp] theorem Core.tick_pc (k : Core) : (k.tick).pc = k.pc := rfl
@[simp] theorem Core.tick_traps (k : Core) : (k.tick).traps = k.traps := rfl
@[simp] theorem Core.tick_mode (k : Core) : (k.tick).mode = k.mode := rfl
@[simp] theorem Core.tick_loc (k : Core) : (k.tick).loc = { k.loc with fresh := [] } := rfl
@[simp] theorem Core.tick_snap (k : Core) : (k.tick).snap = k.snap := rfl
@[simp] theorem Core.tick_ms (k : Core) : (k.tick).ms = k.ms := rfl
@[simp] theorem Core.tick_own (k : Core) : (k.tick).own = k.own := rfl
@[simp] theorem Core.tick_eng (k : Core) : (k.tick).eng = { k.eng with cim.fresh := [] } := rfl
@[simp] theorem Core.tick_reports (k : Core) : (k.tick).reports = k.reports := rfl
@[simp] theorem Core.tick_seq (k : Core) : (k.tick).seq = k.seq := rfl
@[simp] theorem Core.tick_ending (k : Core) : (k.tick).ending = k.ending := rfl
@[simp] theorem Core.tick_asked (k : Core) : (k.tick).asked = k.asked := rfl
@[simp] theorem Core.tick_lastDomain (k : Core) : (k.tick).lastDomain = k.lastDomain := rfl
@[simp] theorem Core.tick_standby (k : Core) : (k.tick).standby = k.standby := rfl
@[simp] theorem Core.tick_fatal (k : Core) : (k.tick).fatal = k.fatal := rfl

/-! ### A core after `report` -/

@[simp] theorem Core.report_regs (k : Core) (o : Origin) (c d : Byte) (a : W64) : (k.report o c d a).regs = k.regs := rfl
@[simp] theorem Core.report_pc (k : Core) (o : Origin) (c d : Byte) (a : W64) : (k.report o c d a).pc = k.pc := rfl
@[simp] theorem Core.report_ctrl (k : Core) (o : Origin) (c d : Byte) (a : W64) : (k.report o c d a).ctrl = k.ctrl := rfl
@[simp] theorem Core.report_traps (k : Core) (o : Origin) (c d : Byte) (a : W64) : (k.report o c d a).traps = k.traps := rfl
@[simp] theorem Core.report_tr (k : Core) (o : Origin) (c d : Byte) (a : W64) : (k.report o c d a).tr = k.tr := rfl
@[simp] theorem Core.report_mode (k : Core) (o : Origin) (c d : Byte) (a : W64) : (k.report o c d a).mode = k.mode := rfl
@[simp] theorem Core.report_loc (k : Core) (o : Origin) (c d : Byte) (a : W64) : (k.report o c d a).loc = k.loc := rfl
@[simp] theorem Core.report_snap (k : Core) (o : Origin) (c d : Byte) (a : W64) : (k.report o c d a).snap = k.snap := rfl
@[simp] theorem Core.report_ms (k : Core) (o : Origin) (c d : Byte) (a : W64) : (k.report o c d a).ms = k.ms := rfl
@[simp] theorem Core.report_own (k : Core) (o : Origin) (c d : Byte) (a : W64) : (k.report o c d a).own = k.own := rfl
@[simp] theorem Core.report_eng (k : Core) (o : Origin) (c d : Byte) (a : W64) : (k.report o c d a).eng = k.eng := rfl
@[simp] theorem Core.report_seq (k : Core) (o : Origin) (c d : Byte) (a : W64) : (k.report o c d a).seq = k.seq := rfl
@[simp] theorem Core.report_task (k : Core) (o : Origin) (c d : Byte) (a : W64) : (k.report o c d a).task = k.task := rfl
@[simp] theorem Core.report_ending (k : Core) (o : Origin) (c d : Byte) (a : W64) : (k.report o c d a).ending = k.ending := rfl
@[simp] theorem Core.report_asked (k : Core) (o : Origin) (c d : Byte) (a : W64) : (k.report o c d a).asked = k.asked := rfl
@[simp] theorem Core.report_lastDomain (k : Core) (o : Origin) (c d : Byte) (a : W64) : (k.report o c d a).lastDomain = k.lastDomain := rfl
@[simp] theorem Core.report_standby (k : Core) (o : Origin) (c d : Byte) (a : W64) : (k.report o c d a).standby = k.standby := rfl
@[simp] theorem Core.report_fatal (k : Core) (o : Origin) (c d : Byte) (a : W64) : (k.report o c d a).fatal = k.fatal := rfl

/-! ### A core after `takeSnapshot` -/

@[simp] theorem Core.takeSnapshot_regs (k : Core) (r : W64) : (k.takeSnapshot r).regs = k.regs := rfl
@[simp] theorem Core.takeSnapshot_pc (k : Core) (r : W64) : (k.takeSnapshot r).pc = k.pc := rfl
@[simp] theorem Core.takeSnapshot_ctrl (k : Core) (r : W64) : (k.takeSnapshot r).ctrl = k.ctrl := rfl
@[simp] theorem Core.takeSnapshot_traps (k : Core) (r : W64) : (k.takeSnapshot r).traps = k.traps := rfl
@[simp] theorem Core.takeSnapshot_mode (k : Core) (r : W64) : (k.takeSnapshot r).mode = k.mode := rfl
@[simp] theorem Core.takeSnapshot_ms (k : Core) (r : W64) : (k.takeSnapshot r).ms = k.ms := rfl
@[simp] theorem Core.takeSnapshot_own (k : Core) (r : W64) : (k.takeSnapshot r).own = k.own := rfl
@[simp] theorem Core.takeSnapshot_eng (k : Core) (r : W64) : (k.takeSnapshot r).eng = k.eng := rfl
@[simp] theorem Core.takeSnapshot_reports (k : Core) (r : W64) : (k.takeSnapshot r).reports = k.reports := rfl
@[simp] theorem Core.takeSnapshot_seq (k : Core) (r : W64) : (k.takeSnapshot r).seq = k.seq := rfl
@[simp] theorem Core.takeSnapshot_task (k : Core) (r : W64) : (k.takeSnapshot r).task = k.task := rfl
@[simp] theorem Core.takeSnapshot_ending (k : Core) (r : W64) : (k.takeSnapshot r).ending = k.ending := rfl
@[simp] theorem Core.takeSnapshot_asked (k : Core) (r : W64) : (k.takeSnapshot r).asked = k.asked := rfl
@[simp] theorem Core.takeSnapshot_lastDomain (k : Core) (r : W64) : (k.takeSnapshot r).lastDomain = k.lastDomain := rfl
@[simp] theorem Core.takeSnapshot_standby (k : Core) (r : W64) : (k.takeSnapshot r).standby = k.standby := rfl
@[simp] theorem Core.takeSnapshot_fatal (k : Core) (r : W64) : (k.takeSnapshot r).fatal = k.fatal := rfl

@[simp] theorem Core.tick_cyc (k : Core) : k.tick.ctrl.cyc = k.ctrl.cyc + 1 := rfl
@[simp] theorem Core.setV_acc (k : Core) (i : BitVec 6) (v : RowT) : (k.setV i v).loc.acc = k.loc.acc := rfl
@[simp] theorem Core.setV_rowAt (k : Core) (i : BitVec 6) (v : RowT) (r : Nat) : (k.setV i v).rowAt r = k.rowAt r := rfl
@[simp] theorem Core.setV_written (k : Core) (i : BitVec 6) (v : RowT) : k.vRow i ∈ (k.setV i v).loc.written := by
  unfold Core.setV; simp only; split
  · next h => simpa using h
  · simp

/-! ### Registers -/

@[simp] theorem Regs.getX_zero (r : Regs) : r.getX 0 = 0 := rfl
@[simp] theorem Regs.setX_zero (r : Regs) (v : W64) : r.setX 0 v = r := rfl
theorem Regs.getX_setX_self (r : Regs) (i : BitVec 6) (v : W64) (h : i ≠ 0) : (r.setX i v).getX i = v := by
  have h' : ¬ i = 0#6 := h
  simp [Regs.getX, Regs.setX, h', Vector.get_eq_getElem]
theorem Regs.getX_setX_other (r : Regs) (i j : BitVec 6) (v : W64) (h : j ≠ i) : (r.setX i v).getX j = r.getX j := by
  have : i.toNat ≠ j.toNat := fun e => h (BitVec.eq_of_toNat_eq e.symm)
  unfold Regs.getX Regs.setX
  split
  · rfl
  · split
    · rfl
    · simp [Vector.get_eq_getElem, this]
@[simp] theorem Regs.getP_setP_self (r : Regs) (i : Fin 96) (v : Bool) : (r.setP i v).getP i = v := by
  simp [Regs.getP, Regs.setP, Vector.get_eq_getElem]
theorem Regs.getP_setP_other (r : Regs) (i j : Fin 96) (v : Bool) (h : j ≠ i) : (r.setP i v).getP j = r.getP j := by
  have : i.val ≠ j.val := fun e => h (Fin.ext e.symm)
  simp [Regs.getP, Regs.setP, Vector.get_eq_getElem, this]
@[simp] theorem Regs.setX_p (r : Regs) (i : BitVec 6) (v : W64) : (r.setX i v).p = r.p := by unfold Regs.setX; split <;> rfl
@[simp] theorem Regs.setP_x (r : Regs) (i : Fin 96) (v : Bool) : (r.setP i v).x = r.x := rfl

end Sys2Proof.Machine
end

