-- ==== Sys2Proof/Laws/Ops.lean ====
section
/-! SUPPORT. Laws of the shared operations: one lemma for each says all it can do. -/

namespace Sys2Proof.Machine

open Sys2Proof

/-! ### Triggers (R201, R202) -/

/-- A trigger under a false guard leaves everything as it was. -/
theorem State.trig_dead (s : State) (m : Mv) (f : W64 → State) (h : s.live m = false) : s.trig m f = .next s := by
  simp [State.trig, h]

theorem State.trigR_dead (s : State) (m : Mv) (f : RowT → State) (h : s.live m = false) : s.trigR m f = .next s := by
  simp [State.trigR, h]

/-- A trigger whose guard is true and whose value is clean is its operation on B. -/
theorem State.trig_live (s : State) (m : Mv) (f : W64 → State) (h : s.live m = true) (hp : (s.srcVal m).poisoned = false) :
    s.trig m f = .next (f (s.srcVal m).word) := by
  simp [State.trig, h, hp]

theorem State.trigR_live (s : State) (m : Mv) (f : RowT → State) (h : s.live m = true) : s.trigR m f = .next (f (s.srcVal m).row) := by
  simp [State.trigR, h]

/-- A poisoned row moved to a 64-bit trigger port is a scalar consumption. -/
theorem State.trig_poisoned (s : State) (m : Mv) (f : W64 → State) (h : s.live m = true) (hp : (s.srcVal m).poisoned = true) :
    s.trig m f = .next (s.raise 0x03 0) := by
  simp [State.trig, h, hp]

/-- A trigger always answers a next state. -/
theorem State.trig_next (s : State) (m : Mv) (f : W64 → State) : ∃ t, s.trig m f = .next t := by
  unfold State.trig; split <;> [split; skip] <;> exact ⟨_, rfl⟩

theorem State.trigR_next (s : State) (m : Mv) (f : RowT → State) : ∃ t, s.trigR m f = .next t := by
  unfold State.trigR; split <;> exact ⟨_, rfl⟩

/-! ### Results (R213) -/

/-- A result under way to a port changes nothing else of the device, and of its core only what is under way. -/
theorem State.fly_frame (s : State) (p b : Nat) (v : Val) : ResultFrame s (s.fly p b v) where
  trigger := {
    device := ⟨rfl, rfl, rfl, rfl, rfl⟩
    others := fun d h => by simp [State.fly, h]
    program := by
      have : (s.fly p b v).core s.ctx.core = s.me.fly p b b v 0 := by simp [State.fly]
      rw [this]
      exact ⟨rfl, rfl, rfl, rfl, rfl, rfl, rfl, rfl, rfl, rfl, rfl, rfl⟩ }
  ms := by simp [State.fly]

/-! ### The rollback (R393) -/

/-- The restored rows are all that `restoreRows` changes. -/
theorem Core.restoreRows_eq (k : Core) : k.restoreRows = { k with loc := k.restoreRows.loc } := by
  have h : ∀ (l : List (Nat × RowT)) (k : Core),
      l.foldl (fun (k : Core) (rv : Nat × RowT) => if k.loc.written.contains rv.1 then k.setRow rv.1 rv.2 else k) k =
      { k with loc := (l.foldl (fun (k : Core) (rv : Nat × RowT) => if k.loc.written.contains rv.1 then k.setRow rv.1 rv.2 else k) k).loc } := by
    intro l
    induction l with
    | nil => exact fun _ => rfl
    | cons a l ih =>
      intro k
      rw [List.foldl_cons]
      rw [ih]
      split <;> rfl
  unfold Core.restoreRows
  rw [h]

/-- After a rollback the registers are those of the snapshot, the core resumes where it says, and nothing is withheld or under way to a
fixed-latency port. -/
theorem Core.rollback_regs (k : Core) (n : Nat) : (k.rollback n).regs = k.snap.regs := by
  unfold Core.rollback; rw [Core.restoreRows_eq]
theorem Core.rollback_pc (k : Core) (n : Nat) : (k.rollback n).pc = k.snap.resume := by
  unfold Core.rollback; rw [Core.restoreRows_eq]
@[simp] theorem Core.rollback_wh (k : Core) (n : Nat) : (k.rollback n).ms.wh = [] := rfl
@[simp] theorem Core.rollback_inflight (k : Core) (n : Nat) : (k.rollback n).tr.inflight = [] := rfl
@[simp] theorem Core.rollback_written (k : Core) (n : Nat) : (k.rollback n).loc.written = [] := rfl
theorem Core.rollback_ctrl (k : Core) (n : Nat) : (k.rollback n).ctrl = k.ctrl := by
  unfold Core.rollback; rw [Core.restoreRows_eq]
theorem Core.rollback_traps (k : Core) (n : Nat) : (k.rollback n).traps = k.traps := by
  unfold Core.rollback; rw [Core.restoreRows_eq]
theorem Core.rollback_mode (k : Core) (n : Nat) : (k.rollback n).mode = k.mode := by
  unfold Core.rollback; rw [Core.restoreRows_eq]
theorem Core.rollback_snap (k : Core) (n : Nat) : (k.rollback n).snap = k.snap := by
  unfold Core.rollback; rw [Core.restoreRows_eq]
theorem Core.rollback_own (k : Core) (n : Nat) : (k.rollback n).own = k.own := by
  unfold Core.rollback; rw [Core.restoreRows_eq]
theorem Core.rollback_reports (k : Core) (n : Nat) : (k.rollback n).reports = k.reports := by
  unfold Core.rollback; rw [Core.restoreRows_eq]
theorem Core.rollback_seq (k : Core) (n : Nat) : (k.rollback n).seq = k.seq := by
  unfold Core.rollback; rw [Core.restoreRows_eq]
theorem Core.rollback_task (k : Core) (n : Nat) : (k.rollback n).task = k.task := by
  unfold Core.rollback; rw [Core.restoreRows_eq]
theorem Core.rollback_ending (k : Core) (n : Nat) : (k.rollback n).ending = k.ending := by
  unfold Core.rollback; rw [Core.restoreRows_eq]
theorem Core.rollback_asked (k : Core) (n : Nat) : (k.rollback n).asked = k.asked := by
  unfold Core.rollback; rw [Core.restoreRows_eq]
theorem Core.rollback_lastDomain (k : Core) (n : Nat) : (k.rollback n).lastDomain = k.lastDomain := by
  unfold Core.rollback; rw [Core.restoreRows_eq]
theorem Core.rollback_standby (k : Core) (n : Nat) : (k.rollback n).standby = k.standby := by
  unfold Core.rollback; rw [Core.restoreRows_eq]
theorem Core.rollback_tokens (k : Core) (n : Nat) : (k.rollback n).eng.tokens = k.eng.tokens := by
  unfold Core.rollback; rw [Core.restoreRows_eq]
theorem Core.rollback_flags (k : Core) (n : Nat) : (k.rollback n).eng.flags = k.eng.flags := by
  unfold Core.rollback; rw [Core.restoreRows_eq]

/-! ### Taking a trap (R398) -/

/-- A trap leaves memory, the scheduler and every other core as they were. -/
theorem State.takeTrap_mem (s : State) (c : CoreId) (n : Nat) (t : Trap) : (s.takeTrap c n t).mem = s.mem := by
  unfold State.takeTrap; simp only; (repeat' split) <;> rfl

theorem State.takeTrap_sched (s : State) (c : CoreId) (n : Nat) (t : Trap) : (s.takeTrap c n t).sched = s.sched := by
  unfold State.takeTrap; simp only; (repeat' split) <;> rfl

theorem State.takeTrap_others (s : State) (c : CoreId) (n : Nat) (t : Trap) : SameOthers c s (s.takeTrap c n t) := by
  intro d h
  unfold State.takeTrap
  simp only
  (repeat' split) <;> simp only [State.core_setCore_other _ _ _ _ h, State.addRec_core] <;> rfl

/-- Outside handler mode, a cause with a handler enters it: the trap registers hold the trap, the program counter is `TVEC`'s entry, and the
registers are those of the snapshot. -/
theorem State.takeTrap_entry (s : State) (c : CoreId) (n : Nat) (t : Trap) (hh : (s.core c).mode.handler = false) (hk : t.kills = false)
    (hd : t.debugs = false) :
    let k := (s.takeTrap c n t).core c
    k.traps = (s.core c).traps.record t ∧ k.pc = (s.core c).traps.tvec ∧ k.mode.handler = true ∧ k.regs = (s.core c).snap.regs ∧
      k.ms.wh = [] ∧ k.ending = (s.core c).ending := by
  have h1 : (s.core c).doubles n = false := by simp [Core.doubles, hh]
  simp only [State.takeTrap, h1, hk, hh, hd, Bool.or_self, Bool.false_eq_true, if_false, State.core_setCore_self]
  exact ⟨trivial, trivial, trivial, Core.rollback_regs _ _, rfl, Core.rollback_ending _ _⟩

end Sys2Proof.Machine
end

