-- ==== Sys2Proof/Laws/PerInstr.lean ====
section
/-! SUPPORT. The family Encodable: the word of an instruction fits the width its encoding has (spec R209, R346), one lemma a
constructor. -/

namespace Sys2Proof.Laws.Encodable

/-- An instruction with an encoding has 24 bits as a slot word or 64 as a micro-word, and its word has no more. -/
def Statement (i : Instr) : Prop := ∀ n w, encode i = some (n, w) → w < 2 ^ n ∧ (n = 24 ∨ n = 64)

/-- Every encoding comes from a slot word or from a micro-word. -/
theorem all (i : Instr) : Statement i := by
  intro n w h
  unfold encode at h
  split at h
  · obtain ⟨rfl, rfl⟩ := Prod.mk.inj (Option.some.inj h)
    exact ⟨BitVec.isLt _, .inl rfl⟩
  · obtain ⟨v, -, hv⟩ := Option.map_eq_some_iff.1 h
    obtain ⟨rfl, rfl⟩ := Prod.mk.inj hv
    exact ⟨BitVec.isLt _, .inr rfl⟩

theorem add : ∀ a b, Statement (.add a b) := fun _ _ => all _
theorem sub : ∀ a b, Statement (.sub a b) := fun _ _ => all _
theorem addw : ∀ a b, Statement (.addw a b) := fun _ _ => all _
theorem subw : ∀ a b, Statement (.subw a b) := fun _ _ => all _
theorem mul : ∀ a b, Statement (.mul a b) := fun _ _ => all _
theorem mulh : ∀ a b, Statement (.mulh a b) := fun _ _ => all _
theorem mulhz : ∀ a b, Statement (.mulhz a b) := fun _ _ => all _
theorem div : ∀ a b, Statement (.div a b) := fun _ _ => all _
theorem divz : ∀ a b, Statement (.divz a b) := fun _ _ => all _
theorem rem : ∀ a b, Statement (.rem a b) := fun _ _ => all _
theorem remz : ∀ a b, Statement (.remz a b) := fun _ _ => all _
theorem and : ∀ a b, Statement (.and a b) := fun _ _ => all _
theorem or : ∀ a b, Statement (.or a b) := fun _ _ => all _
theorem xor : ∀ a b, Statement (.xor a b) := fun _ _ => all _
theorem andn : ∀ a b, Statement (.andn a b) := fun _ _ => all _
theorem orn : ∀ a b, Statement (.orn a b) := fun _ _ => all _
theorem lut3 : ∀ a b, Statement (.lut3 a b) := fun _ _ => all _
theorem shl : ∀ a b, Statement (.shl a b) := fun _ _ => all _
theorem shr : ∀ a b, Statement (.shr a b) := fun _ _ => all _
theorem sra : ∀ a b, Statement (.sra a b) := fun _ _ => all _
theorem rotl : ∀ a b, Statement (.rotl a b) := fun _ _ => all _
theorem clz : ∀ a b, Statement (.clz a b) := fun _ _ => all _
theorem ctz : ∀ a b, Statement (.ctz a b) := fun _ _ => all _
theorem popc : ∀ a b, Statement (.popc a b) := fun _ _ => all _
theorem brev : ∀ a b, Statement (.brev a b) := fun _ _ => all _
theorem bswap : ∀ a b, Statement (.bswap a b) := fun _ _ => all _
theorem min : ∀ a b, Statement (.min a b) := fun _ _ => all _
theorem max : ∀ a b, Statement (.max a b) := fun _ _ => all _
theorem minz : ∀ a b, Statement (.minz a b) := fun _ _ => all _
theorem maxz : ∀ a b, Statement (.maxz a b) := fun _ _ => all _
theorem eq : ∀ a b, Statement (.eq a b) := fun _ _ => all _
theorem ne : ∀ a b, Statement (.ne a b) := fun _ _ => all _
theorem lt : ∀ a b, Statement (.lt a b) := fun _ _ => all _
theorem le : ∀ a b, Statement (.le a b) := fun _ _ => all _
theorem ltz : ∀ a b, Statement (.ltz a b) := fun _ _ => all _
theorem lez : ∀ a b, Statement (.lez a b) := fun _ _ => all _
theorem bfx : ∀ a b, Statement (.bfx a b) := fun _ _ => all _
theorem bfi : ∀ a b, Statement (.bfi a b) := fun _ _ => all _
theorem sext : ∀ a b, Statement (.sext a b) := fun _ _ => all _
theorem zext : ∀ a b, Statement (.zext a b) := fun _ _ => all _
theorem cmul16 : ∀ a b, Statement (.cmul16 a b) := fun _ _ => all _
theorem pand : ∀ a, Statement (.pand a) := fun _ => all _
theorem por : ∀ a, Statement (.por a) := fun _ => all _
theorem pxor : ∀ a, Statement (.pxor a) := fun _ => all _
theorem pnot : ∀ a, Statement (.pnot a) := fun _ => all _
theorem pany : ∀ a, Statement (.pany a) := fun _ => all _
theorem pall : ∀ a, Statement (.pall a) := fun _ => all _
theorem jump : ∀ a, Statement (.jump a) := fun _ => all _
theorem jlink : ∀ a, Statement (.jlink a) := fun _ => all _
theorem loopset : ∀ a, Statement (.loopset a) := fun _ => all _
theorem loopend : ∀ a, Statement (.loopend a) := fun _ => all _
theorem endTask : ∀ a, Statement (.endTask a) := fun _ => all _
theorem kwait : ∀ a, Statement (.kwait a) := fun _ => all _
theorem kpoll : ∀ a, Statement (.kpoll a) := fun _ => all _
theorem kfree : ∀ a, Statement (.kfree a) := fun _ => all _
theorem rdcyc : ∀ a, Statement (.rdcyc a) := fun _ => all _
theorem swtrap : ∀ a, Statement (.swtrap a) := fun _ => all _
theorem csrr : ∀ a, Statement (.csrr a) := fun _ => all _
theorem csrw : ∀ a, Statement (.csrw a) := fun _ => all _
theorem launch : ∀ a, Statement (.launch a) := fun _ => all _
theorem eret : ∀ a, Statement (.eret a) := fun _ => all _
theorem bkpt : ∀ a, Statement (.bkpt a) := fun _ => all _
theorem idle : ∀ a, Statement (.idle a) := fun _ => all _
theorem tlbinv : ∀ a, Statement (.tlbinv a) := fun _ => all _
theorem l1inv : ∀ a, Statement (.l1inv a) := fun _ => all _
theorem mpload : ∀ a, Statement (.mpload a) := fun _ => all _
theorem vadd : ∀ a b, Statement (.vadd a b) := fun _ _ => all _
theorem vsub : ∀ a b, Statement (.vsub a b) := fun _ _ => all _
theorem vmul : ∀ a b, Statement (.vmul a b) := fun _ _ => all _
theorem vmulh : ∀ a b, Statement (.vmulh a b) := fun _ _ => all _
theorem vfma : ∀ a b, Statement (.vfma a b) := fun _ _ => all _
theorem vabs : ∀ a b, Statement (.vabs a b) := fun _ _ => all _
theorem vneg : ∀ a b, Statement (.vneg a b) := fun _ _ => all _
theorem vmin : ∀ a b, Statement (.vmin a b) := fun _ _ => all _
theorem vmax : ∀ a b, Statement (.vmax a b) := fun _ _ => all _
theorem vclamp : ∀ a b, Statement (.vclamp a b) := fun _ _ => all _
theorem vand : ∀ a b, Statement (.vand a b) := fun _ _ => all _
theorem vor : ∀ a b, Statement (.vor a b) := fun _ _ => all _
theorem vxor : ∀ a b, Statement (.vxor a b) := fun _ _ => all _
theorem vlut3 : ∀ a b, Statement (.vlut3 a b) := fun _ _ => all _
theorem vshl : ∀ a b, Statement (.vshl a b) := fun _ _ => all _
theorem vshr : ∀ a b, Statement (.vshr a b) := fun _ _ => all _
theorem vsra : ∀ a b, Statement (.vsra a b) := fun _ _ => all _
theorem vclz : ∀ a b, Statement (.vclz a b) := fun _ _ => all _
theorem vpopc : ∀ a b, Statement (.vpopc a b) := fun _ _ => all _
theorem vcmpeq : ∀ a b, Statement (.vcmpeq a b) := fun _ _ => all _
theorem vcmpne : ∀ a b, Statement (.vcmpne a b) := fun _ _ => all _
theorem vcmplt : ∀ a b, Statement (.vcmplt a b) := fun _ _ => all _
theorem vcmple : ∀ a b, Statement (.vcmple a b) := fun _ _ => all _
theorem vsel : ∀ a b, Statement (.vsel a b) := fun _ _ => all _
theorem vcvt : ∀ a b, Statement (.vcvt a b) := fun _ _ => all _
theorem vsatq : ∀ a b, Statement (.vsatq a b) := fun _ _ => all _
theorem vscale : ∀ a b, Statement (.vscale a b) := fun _ _ => all _
theorem vdot2 : ∀ a b, Statement (.vdot2 a b) := fun _ _ => all _
theorem vdot4 : ∀ a b, Statement (.vdot4 a b) := fun _ _ => all _
theorem vsum : ∀ a b, Statement (.vsum a b) := fun _ _ => all _
theorem vrmax : ∀ a b, Statement (.vrmax a b) := fun _ _ => all _
theorem vrmin : ∀ a b, Statement (.vrmin a b) := fun _ _ => all _
theorem vscan : ∀ a b, Statement (.vscan a b) := fun _ _ => all _
theorem vmin2 : ∀ a b, Statement (.vmin2 a b) := fun _ _ => all _
theorem vcmul : ∀ a b, Statement (.vcmul a b) := fun _ _ => all _
theorem vcmac : ∀ a b, Statement (.vcmac a b) := fun _ _ => all _
theorem vconj : ∀ a b, Statement (.vconj a b) := fun _ _ => all _
theorem vcabs2 : ∀ a b, Statement (.vcabs2 a b) := fun _ _ => all _
theorem vperm : ∀ a b, Statement (.vperm a b) := fun _ _ => all _
theorem vbperm : ∀ a b, Statement (.vbperm a b) := fun _ _ => all _
theorem vbmat8 : ∀ a b, Statement (.vbmat8 a b) := fun _ _ => all _
theorem vshuf : ∀ a b, Statement (.vshuf a b) := fun _ _ => all _
theorem vrot : ∀ a b, Statement (.vrot a b) := fun _ _ => all _
theorem vsort2 : ∀ a b, Statement (.vsort2 a b) := fun _ _ => all _
theorem vbcast : ∀ a b, Statement (.vbcast a b) := fun _ _ => all _
theorem vext : ∀ a b, Statement (.vext a b) := fun _ _ => all _
theorem vins : ∀ a b, Statement (.vins a b) := fun _ _ => all _
theorem vptest : ∀ a b, Statement (.vptest a b) := fun _ _ => all _
theorem vpset : ∀ a b, Statement (.vpset a b) := fun _ _ => all _
theorem vpclr : ∀ a b, Statement (.vpclr a b) := fun _ _ => all _
theorem rcp : ∀ a, Statement (.rcp a) := fun _ => all _
theorem rsq : ∀ a, Statement (.rsq a) := fun _ => all _
theorem rcpstep : ∀ a, Statement (.rcpstep a) := fun _ => all _
theorem rsqstep : ∀ a, Statement (.rsqstep a) := fun _ => all _
theorem sqrt : ∀ a, Statement (.sqrt a) := fun _ => all _
theorem exp2 : ∀ a, Statement (.exp2 a) := fun _ => all _
theorem log2 : ∀ a, Statement (.log2 a) := fun _ => all _
theorem sinp : ∀ a, Statement (.sinp a) := fun _ => all _
theorem cosp : ∀ a, Statement (.cosp a) := fun _ => all _
theorem tanh : ∀ a, Statement (.tanh a) := fun _ => all _
theorem sigm : ∀ a, Statement (.sigm a) := fun _ => all _
theorem ttw : ∀ a, Statement (.ttw a) := fun _ => all _
theorem ttr : ∀ a, Statement (.ttr a) := fun _ => all _
theorem ttclr : ∀ a, Statement (.ttclr a) := fun _ => all _
theorem ttcvt : ∀ a, Statement (.ttcvt a) := fun _ => all _
theorem lds8 : ∀ a b, Statement (.lds8 a b) := fun _ _ => all _
theorem ldz8 : ∀ a b, Statement (.ldz8 a b) := fun _ _ => all _
theorem lds16 : ∀ a b, Statement (.lds16 a b) := fun _ _ => all _
theorem ldz16 : ∀ a b, Statement (.ldz16 a b) := fun _ _ => all _
theorem lds32 : ∀ a b, Statement (.lds32 a b) := fun _ _ => all _
theorem ldz32 : ∀ a b, Statement (.ldz32 a b) := fun _ _ => all _
theorem ld64 : ∀ a b, Statement (.ld64 a b) := fun _ _ => all _
theorem st8 : ∀ a b, Statement (.st8 a b) := fun _ _ => all _
theorem st16 : ∀ a b, Statement (.st16 a b) := fun _ _ => all _
theorem st32 : ∀ a b, Statement (.st32 a b) := fun _ _ => all _
theorem st64 : ∀ a b, Statement (.st64 a b) := fun _ _ => all _
theorem vld : ∀ a b, Statement (.vld a b) := fun _ _ => all _
theorem vst : ∀ a b, Statement (.vst a b) := fun _ _ => all _
theorem vldg : ∀ a b, Statement (.vldg a b) := fun _ _ => all _
theorem vsts : ∀ a b, Statement (.vsts a b) := fun _ _ => all _
theorem gld : ∀ a b, Statement (.gld a b) := fun _ _ => all _
theorem gst : ∀ a b, Statement (.gst a b) := fun _ _ => all _
theorem gvld : ∀ a b, Statement (.gvld a b) := fun _ _ => all _
theorem gvst : ∀ a b, Statement (.gvst a b) := fun _ _ => all _
theorem xld : ∀ a b, Statement (.xld a b) := fun _ _ => all _
theorem xst : ∀ a b, Statement (.xst a b) := fun _ _ => all _
theorem xvld : ∀ a b, Statement (.xvld a b) := fun _ _ => all _
theorem pref : ∀ a b, Statement (.pref a b) := fun _ _ => all _
theorem amoadd : ∀ a b, Statement (.amoadd a b) := fun _ _ => all _
theorem amomin : ∀ a b, Statement (.amomin a b) := fun _ _ => all _
theorem amomax : ∀ a b, Statement (.amomax a b) := fun _ _ => all _
theorem amoand : ∀ a b, Statement (.amoand a b) := fun _ _ => all _
theorem amoor : ∀ a b, Statement (.amoor a b) := fun _ _ => all _
theorem amoxor : ∀ a b, Statement (.amoxor a b) := fun _ _ => all _
theorem amoswp : ∀ a b, Statement (.amoswp a b) := fun _ _ => all _
theorem amocas : ∀ a b, Statement (.amocas a b) := fun _ _ => all _
theorem amofadd : ∀ a b, Statement (.amofadd a b) := fun _ _ => all _
theorem gamoadd : ∀ a b, Statement (.gamoadd a b) := fun _ _ => all _
theorem gamomin : ∀ a b, Statement (.gamomin a b) := fun _ _ => all _
theorem gamomax : ∀ a b, Statement (.gamomax a b) := fun _ _ => all _
theorem gamoswp : ∀ a b, Statement (.gamoswp a b) := fun _ _ => all _
theorem gamocas : ∀ a b, Statement (.gamocas a b) := fun _ _ => all _
theorem gamofadd : ∀ a b, Statement (.gamofadd a b) := fun _ _ => all _
theorem amoaddn : ∀ a b, Statement (.amoaddn a b) := fun _ _ => all _
theorem amominn : ∀ a b, Statement (.amominn a b) := fun _ _ => all _
theorem amomaxn : ∀ a b, Statement (.amomaxn a b) := fun _ _ => all _
theorem amoandn : ∀ a b, Statement (.amoandn a b) := fun _ _ => all _
theorem amoorn : ∀ a b, Statement (.amoorn a b) := fun _ _ => all _
theorem amoxorn : ∀ a b, Statement (.amoxorn a b) := fun _ _ => all _
theorem amoswpn : ∀ a b, Statement (.amoswpn a b) := fun _ _ => all _
theorem amocasn : ∀ a b, Statement (.amocasn a b) := fun _ _ => all _
theorem amofaddn : ∀ a b, Statement (.amofaddn a b) := fun _ _ => all _
theorem gamoaddn : ∀ a b, Statement (.gamoaddn a b) := fun _ _ => all _
theorem gamominn : ∀ a b, Statement (.gamominn a b) := fun _ _ => all _
theorem gamomaxn : ∀ a b, Statement (.gamomaxn a b) := fun _ _ => all _
theorem gamoswpn : ∀ a b, Statement (.gamoswpn a b) := fun _ _ => all _
theorem gamocasn : ∀ a b, Statement (.gamocasn a b) := fun _ _ => all _
theorem gamofaddn : ∀ a b, Statement (.gamofaddn a b) := fun _ _ => all _
theorem drain : ∀ a, Statement (.drain a) := fun _ => all _
theorem rel : ∀ a, Statement (.rel a) := fun _ => all _
theorem acq : ∀ a, Statement (.acq a) := fun _ => all _
theorem fadd : ∀ a, Statement (.fadd a) := fun _ => all _
theorem fset : ∀ a, Statement (.fset a) := fun _ => all _
theorem fwait : ∀ a, Statement (.fwait a) := fun _ => all _
theorem join : ∀ a, Statement (.join a) := fun _ => all _
theorem leave : ∀ a, Statement (.leave a) := fun _ => all _
theorem gmask : ∀ a, Statement (.gmask a) := fun _ => all _
theorem hmake : ∀ a, Statement (.hmake a) := fun _ => all _
theorem hgive : ∀ a, Statement (.hgive a) := fun _ => all _
theorem hlend : ∀ a, Statement (.hlend a) := fun _ => all _
theorem hpool : ∀ a, Statement (.hpool a) := fun _ => all _
theorem hreclaim : ∀ a, Statement (.hreclaim a) := fun _ => all _
theorem hfree : ∀ a, Statement (.hfree a) := fun _ => all _
theorem ceCpy : ∀ a, Statement (.ceCpy a) := fun _ => all _
theorem ceCinit : ∀ a, Statement (.ceCinit a) := fun _ => all _
theorem cfAwait : ∀ a, Statement (.cfAwait a) := fun _ => all _
theorem cfRelease : ∀ a, Statement (.cfRelease a) := fun _ => all _
theorem cfStat : ∀ a, Statement (.cfStat a) := fun _ => all _
theorem aqPush : ∀ a, Statement (.aqPush a) := fun _ => all _
theorem yqPop : ∀ a b, Statement (.yqPop a b) := fun _ _ => all _
theorem nmIred : ∀ a b, Statement (.nmIred a b) := fun _ _ => all _
theorem nmFadd : ∀ a b, Statement (.nmFadd a b) := fun _ _ => all _
theorem nmIadd : ∀ a b, Statement (.nmIadd a b) := fun _ _ => all _
theorem nmPop : ∀ a b c, Statement (.nmPop a b c) := fun _ _ _ => all _
theorem nfence : ∀ a, Statement (.nfence a) := fun _ => all _
theorem allred : ∀ a, Statement (.allred a) := fun _ => all _
theorem bcast : ∀ a, Statement (.bcast a) := fun _ => all _
theorem rgather : ∀ a, Statement (.rgather a) := fun _ => all _
theorem cimCall : ∀ a, Statement (.cimCall a) := fun _ => all _
theorem cimStep : ∀ a, Statement (.cimStep a) := fun _ => all _
theorem cimStat : ∀ a, Statement (.cimStat a) := fun _ => all _
theorem cimMpsw : ∀ a, Statement (.cimMpsw a) := fun _ => all _
theorem mjmp : ∀ a b c, Statement (.mjmp a b c) := fun _ _ _ => all _
theorem mlpi : ∀ a b c d, Statement (.mlpi a b c d) := fun _ _ _ _ => all _
theorem mlpe : ∀ a, Statement (.mlpe a) := fun _ => all _
theorem mset : ∀ a b c d e, Statement (.mset a b c d e) := fun _ _ _ _ _ => all _
theorem madd : ∀ a b c, Statement (.madd a b c) := fun _ _ _ => all _
theorem mmod : ∀ a b c, Statement (.mmod a b c) := fun _ _ _ => all _
theorem mprc : ∀ a, Statement (.mprc a) := fun _ => all _
theorem mscl : ∀ a b c, Statement (.mscl a b c) := fun _ _ _ => all _
theorem msel : ∀ a b c, Statement (.msel a b c) := fun _ _ _ => all _
theorem mld : ∀ a b c, Statement (.mld a b c) := fun _ _ _ => all _
theorem mswp : ∀ a b, Statement (.mswp a b) := fun _ _ => all _
theorem mbc : ∀ a b c d e f, Statement (.mbc a b c d e f) := fun _ _ _ _ _ _ => all _
theorem mprm : ∀ a b c d e f g, Statement (.mprm a b c d e f g) := fun _ _ _ _ _ _ _ => all _
theorem mclr : ∀ a b c d e, Statement (.mclr a b c d e) := fun _ _ _ _ _ => all _
theorem mchk : ∀ a b, Statement (.mchk a b) := fun _ _ => all _
theorem mout : ∀ a b, Statement (.mout a b) := fun _ _ => all _
theorem mpoi : ∀ a b c d, Statement (.mpoi a b c d) := fun _ _ _ _ => all _
theorem mwtq : ∀ a b, Statement (.mwtq a b) := fun _ _ => all _
theorem mtok : ∀ a, Statement (.mtok a) := fun _ => all _
theorem mtkw : ∀ a, Statement (.mtkw a) := fun _ => all _
theorem dispatch : ∀ a, Statement (.dispatch a) := fun _ => all _
theorem schedulerMemoryWrite : ∀ a b, Statement (.schedulerMemoryWrite a b) := fun _ _ => all _
theorem registerWrite : ∀ a b, Statement (.registerWrite a b) := fun _ _ => all _
theorem hostW1Access : ∀ a, Statement (.hostW1Access a) := fun _ => all _
theorem hostW2Read : ∀ a b c, Statement (.hostW2Read a b c) := fun _ _ _ => all _
theorem inboundPeerRequest : ∀ a b, Statement (.inboundPeerRequest a b) := fun _ _ => all _
theorem bundleIssue : Statement .bundleIssue := all _
theorem resultLanding : Statement .resultLanding := all _
theorem variableResultLanding : Statement .variableResultLanding := all _
theorem translationWalk : Statement .translationWalk := all _
theorem checkpointRelease : Statement .checkpointRelease := all _
theorem signalPerform : Statement .signalPerform := all _
theorem drainComplete : Statement .drainComplete := all _
theorem relComplete : Statement .relComplete := all _
theorem l1Writeback : Statement .l1Writeback := all _
theorem canopyFill : Statement .canopyFill := all _
theorem remoteAccessArrival : Statement .remoteAccessArrival := all _
theorem deferredRefusalArrival : Statement .deferredRefusalArrival := all _
theorem handleOperationCheck : Statement .handleOperationCheck := all _
theorem handleOperationPerform : Statement .handleOperationPerform := all _
theorem trapEntry : Statement .trapEntry := all _
theorem mploadComplete : Statement .mploadComplete := all _
theorem atomicPerform : Statement .atomicPerform := all _
theorem copyPacketAccept : Statement .copyPacketAccept := all _
theorem carafeSlotAssign : Statement .carafeSlotAssign := all _
theorem copyComplete : Statement .copyComplete := all _
theorem iredResult : Statement .iredResult := all _
theorem nearAddApply : Statement .nearAddApply := all _
theorem nfenceComplete : Statement .nfenceComplete := all _
theorem collectiveStart : Statement .collectiveStart := all _
theorem collectiveComplete : Statement .collectiveComplete := all _
theorem cimRoutineStart : Statement .cimRoutineStart := all _
theorem mnop : Statement .mnop := all _
theorem mend : Statement .mend := all _
theorem grinderFill : Statement .grinderFill := all _
theorem engineTokenDone : Statement .engineTokenDone := all _
theorem taskEnd : Statement .taskEnd := all _
theorem launchAccept : Statement .launchAccept := all _
theorem agePromotion : Statement .agePromotion := all _
theorem discard : Statement .discard := all _
theorem standbyPrepare : Statement .standbyPrepare := all _
theorem instanceComplete : Statement .instanceComplete := all _
theorem budgetExpiry : Statement .budgetExpiry := all _
theorem budgetGraceExpiry : Statement .budgetGraceExpiry := all _
theorem envelopeChange : Statement .envelopeChange := all _
theorem lockstepPairing : Statement .lockstepPairing := all _
theorem powerClockStep : Statement .powerClockStep := all _
theorem capEnforce : Statement .capEnforce := all _
theorem errorRecordPlace : Statement .errorRecordPlace := all _
theorem patrolScrub : Statement .patrolScrub := all _
theorem refresh : Statement .refresh := all _
theorem backgroundZeroing : Statement .backgroundZeroing := all _
theorem deviceReset : Statement .deviceReset := all _
theorem launchWrite : Statement .launchWrite := all _
theorem lstatRead : Statement .lstatRead := all _
theorem mbstatRead : Statement .mbstatRead := all _
theorem envelopeWrite : Statement .envelopeWrite := all _
theorem protmodeWrite : Statement .protmodeWrite := all _
theorem pcapWrite : Statement .pcapWrite := all _
theorem pinlimWrite : Statement .pinlimWrite := all _
theorem ageWrite : Statement .ageWrite := all _
theorem errorBankClear : Statement .errorBankClear := all _
theorem linkTraining : Statement .linkTraining := all _
theorem linkDown : Statement .linkDown := all _
theorem flitRetry : Statement .flitRetry := all _
theorem glalloc : Statement .glalloc := all _
theorem glfree : Statement .glfree := all _
theorem cwret : Statement .cwret := all _
theorem dbgctl : Statement .dbgctl := all _
theorem dbggo : Statement .dbggo := all _
theorem dbgrd : Statement .dbgrd := all _
theorem debugHalt : Statement .debugHalt := all _
theorem stepStop : Statement .stepStop := all _
theorem attest : Statement .attest := all _
theorem mpwrite : Statement .mpwrite := all _
theorem hostTlbinv : Statement .hostTlbinv := all _
theorem coreswap : Statement .coreswap := all _
theorem spareSwap : Statement .spareSwap := all _
theorem macret : Statement .macret := all _
theorem macroRetirement : Statement .macroRetirement := all _
theorem hbmsvc : Statement .hbmsvc := all _
theorem lanert : Statement .lanert := all _
theorem fwstage : Statement .fwstage := all _
theorem fwswitch : Statement .fwswitch := all _
theorem schedulerImageSwitch : Statement .schedulerImageSwitch := all _
theorem keyload : Statement .keyload := all _
theorem keyunld : Statement .keyunld := all _
theorem globalStoreArrival : Statement .globalStoreArrival := all _
theorem coreResetAndTest : Statement .coreResetAndTest := all _
theorem hbmChannelResume : Statement .hbmChannelResume := all _
theorem hostLinkDown : Statement .hostLinkDown := all _
theorem laneLoss : Statement .laneLoss := all _

end Sys2Proof.Laws.Encodable
end

