-- ==== Sys2Proof/Tests/Slice0.lean ====
section
/-! SUPPORT. Tests: words written out from the manual, an ill-formed term for each check of WellFormed, a state and operands that meet the
hypotheses of each statement, clause by clause at the ends of their ranges, and a few steps whose results the manual works out. -/

open Sys2Proof Sys2Proof.Machine

namespace Sys2Proof.Tests

set_option Elab.async false

/-! ### Words of the manual -/

/-- R209 to R211: GS [23:22], DST [21:11], SRC [10:0]: `{ x10 -> ls0.a }` of the example of R301 is 00_10001000000_00000001010. -/
theorem test_decode_latch : decodeFields 0b00_10001000000_00000001010 = .ok ⟨0, .latch (.lsA 0), .x 10⟩ := by decide

/-- The same example: `{ v5 -> ls0.vldg }`, destination `0x455`, source `0x0C5`. -/
theorem test_decode_gather : decodeSlot false 1 0b00_10001010101_00011000101 = some (.vldg 0 ⟨0, .v 5⟩) := by decide

/-- R236: `sa1` is `sa0` with 0x40 more; G3 as guard select, source `p95`. -/
theorem test_decode_scalar : decodeSlot false 1 0b11_01001001000_00010011111 = some (.add 1 ⟨3, .p 95⟩) := by decide

/-- The example of R246: slot 4 is `{ v0 -> va0.vfma }`, slot 6 is `{ yq.pop -> v9 }`. -/
theorem test_decode_vector : decodeSlot false 1 0x1860C0 = some (.vfma 0 ⟨0, .v 0⟩) ∧ decodeSlot true 1 0x064948 = some (.yqPop 0 (.v 9)) := by decide

/-- R240 and R229: `{ #-1 -> sf.rcp }`, destination `0x3C8`, source `0x7FF`. -/
theorem test_decode_special_function : decodeSlot false 1 0b00_01111001000_11111111111 = some (.rcp ⟨0, .imm 0xFF⟩) := by decide

/-- R210: source `0x6FF` is the bundle's address plus LIMM; `0x248` is `sa1.add`; `0x6FB` and `0x0A0` + 32 stand at the ends of their blocks. -/
theorem test_decode_source_ends :
    decodeFields (slotWord 0 0x7FF 0x6FF) = .ok ⟨0, .null, .limmPc⟩ ∧ decodeFields (slotWord 0 0x7FF 0x6FB) = .error 0x03 ∧
    decodeFields (slotWord 0 0x7FF 0x0BF) = .ok ⟨0, .null, .tok 31⟩ ∧ decodeFields (slotWord 0 0x7FF 0x0C0) = .ok ⟨0, .null, .v 0⟩ ∧
    decodeFields (slotWord 0 0x000 0x09F) = .ok ⟨0, .x 0, .p 95⟩ := by decide

/-- R230: the destination of a pop may be a trigger, named by its code. -/
theorem test_decode_pop_trigger : decodeSlot true 1 (slotWord 0 0x30C 0x148) = some (.yqPop 0 (.trigger 0x30C)) := by decide

/-- The words of the worked example of the CIM chapter and of R367's. -/
theorem test_decode_micro :
    decodeMicro 0x2028000000000000 = some (.mmod 5 0 0) ∧ decodeMicro 0x1480000000000002 = some (.mset 1 0 0 0 2) ∧
    decodeMicro 0x4028000040000000 = some (.mbc 5 0 0 0 2 0) ∧ decodeMicro 0x30A0140000000000 = some (.mld 20 1 2) := by decide

/-- R346: a reserved opcode and a non-zero zero bit are no words. -/
theorem test_decode_micro_reserved : decodeMicro 0x1C00000000000000 = none ∧ decodeMicro 0x0400000000000001 = none := by decide

/-- `decodeTableWord` reads a slot word, a pop and a micro-word. -/
theorem test_decode_table_word : decodeTableWord 24 0x22A8C5 = some (.vldg 0 ⟨0, .v 5⟩) ∧ decodeTableWord 24 0x3FF948 = some (.yqPop 0 .null) ∧
    decodeTableWord 64 0x0400000000000000 = some .mend := by decide

/-! ### Ill-formed terms are refused (R211, R346, R347) -/

theorem test_ill_formed_condition : (Instr.mjmp 3 0 0).wellFormed = false := by decide
theorem test_ill_formed_scale_select : (Instr.mscl 3 0 0).wellFormed = false := by decide
theorem test_ill_formed_scale_half : (Instr.mscl 2 0 2).wellFormed = false ∧ (Instr.mscl 2 0 1).wellFormed = true := by decide
theorem test_ill_formed_pattern : (Instr.msel 0 0 6).wellFormed = false ∧ (Instr.msel 0 0 5).wellFormed = true := by decide
theorem test_ill_formed_ranges :
    (Instr.mmod 127 1 0).wellFormed = false ∧ (Instr.msel 1 127 0).wellFormed = false ∧ (Instr.mld 64 64 0).wellFormed = false ∧
    (Instr.mswp 127 127).wellFormed = false ∧ (Instr.mbc 100 28 0 0 0 0).wellFormed = false ∧ (Instr.mprm 1 127 0 0 0 0 0).wellFormed = false ∧
    (Instr.mclr 127 1 0 0 0).wellFormed = false ∧ (Instr.mchk 2 126).wellFormed = false ∧ (Instr.mchk 0 127).wellFormed = true := by decide
theorem test_ill_formed_source : (Instr.mbc 0 0 0 0 3 0).wellFormed = false := by decide
theorem test_ill_formed_wait : (Instr.mwtq 0 17).wellFormed = false ∧ (Instr.mwtq 1 16).wellFormed = true := by decide
theorem test_ill_formed_pops : (Instr.yqPop 0 (.trigger 0x400)).wellFormed = false ∧ (Instr.nmPop 0 0 (.trigger 0x292)).wellFormed = false ∧
    (Instr.yqPop 0 (.trigger 0x208)).wellFormed = true := by decide

/-! ### States for the witnesses: core 0 of the device at reset, changed in a few places -/

/-- The device at reset with core 0 changed. -/
def dev (f : Core → Core) : State := State.reset.modCore 0 f

/-- Latches of core 0, and `x4`, the source of `mv`. -/
def trigAt (l : List (Nat × W64)) (b : W64) : State :=
  dev fun k => { k with tr.latches := l.map fun e => (e.1, Val.w e.2), regs.x := k.regs.x.set 4 b }

/-- Latches of core 0, words and rows, and `v3`, the source of `mr`. -/
def rowsAt (l : List (Nat × Val)) (r : RowT) : State := dev fun k => { k with tr.latches := l, loc.acc := [(3, r)] }

def mv : Mv := ⟨0, .x 4⟩
def mr : Mv := ⟨0, .v 3⟩

/-- Under an always-true guard a move of `x4` fires and delivers `x4`; a move of a row is live and delivers it. -/
theorem test_fires (l : List (Nat × W64)) (b : W64) : (trigAt l b).fires mv ∧ (trigAt l b).operand mv = b := ⟨⟨rfl, rfl⟩, rfl⟩
theorem test_live (l : List (Nat × Val)) : (rowsAt l ⟨5, 0⟩).live mr = true ∧ (rowsAt l ⟨5, 0⟩).operandRow mr = ⟨5, 0⟩ := ⟨rfl, rfl⟩

/-- A task on a core. -/
def task0 : Task := ⟨0, 0, 0, 5, false, false, 10, 0, 0, false, 0, 0, 0, none⟩

/-! ### Witnesses: encodings and steps -/

theorem wit_slot_encoding : (Instr.nmPop 3 3 (.trigger 0x610)).wellFormed = true ∧
    (encodeSlot (.nmPop 3 3 (.trigger 0x610))).isSome = true ∧ (encodeSlot (.vsel 2 ⟨3, .imm 0xFF⟩)).isSome = true := by decide

theorem wit_micro_encoding : (encodeMicro (.mjmp 2 7 0xFFF)).isSome = true ∧ (encodeMicro .mnop).isSome = true := by decide

theorem wit_words_and_headers :
    (decodeSlot false 1 0x107804).isSome = true ∧ (decodeMicro 0x0400000000000000).isSome = true ∧
    ((0x1000000000000000 : W64).extractLsb' 60 2 ≠ 0) ∧ ((0x0000000100000000 : W64).extractLsb' 32 4 ≠ 0) ∧
    ((0x0600000000000000 : W64).extractLsb' 60 2 = 0 ∧ (0x0600000000000000 : W64).extractLsb' 32 4 = 0 ∧
      96 ≤ ((0x0600000000000000 : W64).extractLsb' 52 7).toNat) ∧
    (∀ o ∈ [36, 44, 52], ((0xC5FDF5F000000000 : W64).extractLsb' o 7).toNat < 96) := by decide

theorem wit_step :
    (∃ s t : State, s.todo = [(false, 0, (0x107804 : BitVec 24))] ∧
      decodeSlot false ((s.atSlot 0 []).cmdOp 0 0x107804) 0x107804 = some (.div 0 mv) ∧ exec (.div 0 mv) (s.atSlot 0 []) = .next t) ∧
    (∃ (s : State) (r : Routine), s.todo = [] ∧ s.turn = .micro 0 ∧ (s.core 0).eng.cim.run = some r ∧ r.call.step = some 0x0400000000000000 ∧
      decodeMicro 0x0400000000000000 = some .mend) ∧
    ∃ s : State, s.todo = [] ∧ s.turn = .event {} .refresh ∧ encode .refresh = none :=
  ⟨⟨State.reset.withSlot 0x107804, _, rfl, by decide, rfl⟩, ⟨State.reset.withMicro 0x0400000000000000, _, rfl, rfl, rfl, rfl, by decide⟩,
    ⟨{ State.reset with agenda := [.event {} .refresh] }, rfl, rfl, by decide⟩⟩

/-- Core 0 at the second bundle of the trap page's base handler, which starts a trigger. -/
def atHandler : State := dev fun k => { k with pc := 0xFFFFFFFFFF0020, task := some task0 }

/-- The conditions on the fetched bundle in `BundleIssueStartsTheBundle`. -/
def issues (s : State) (c : CoreId) : Bool :=
  match s.fetch c with
  | (.ok b, u) => match bundleCheck b with
    | .ok (h, all) =>
      let k := u.core c
      let live := all.filter fun t => guardOf h k.regs t.sl.gs
      k.loc.ceRows.isEmpty && k.loc.badRows.isEmpty && k.eng.cim.fresh.isEmpty && (!(live.any (slotStalls k { core := c, addr := k.pc, hdr := h } live))) &&
        (moveFault k { core := c, addr := k.pc, hdr := h, whN := k.ms.wh.length } live).isNone &&
        (live.all fun t => !t.sl.src.isPop) && live.any SlotAt.isTrig
    | _ => false
  | _ => false

theorem wit_bundle_issue : atHandler.canIssue 0 = true ∧ (atHandler.boundary 0).isNone = true ∧ (atHandler.core 0).mode.dbgHalt = false ∧
    (atHandler.core 0).ms.releasing = none ∧ (atHandler.core 0).mode.stepPc = none ∧ issues atHandler 0 = true ∧
    (let s : State := { atHandler with hk := { atHandler.hk with protActive := 1 }, cur := { flag := true } }
     s.canIssue 0 = true ∧ (s.boundary 0).isNone = true ∧ issues s 0 = true ∧ s.cur.flag = true ∧ s.lockstep (groveOf 0) = true) := by decide +kernel

theorem wit_guards :
    guardOf ⟨false, false, 0x80, 0, 0, 0⟩ State.reset.me.regs 1 = true ∧ guardOf ⟨false, false, 0x5F, 0, 0, 0⟩ State.reset.me.regs 1 = false ∧
    ((bundleHeader (BitVec.ofNat 256 0x0600000000000000)).extractLsb' 60 2 = 0 ∧ (bundleHeader (BitVec.ofNat 256 0x0600000000000000)).extractLsb' 32 4 = 0 ∧
      96 ≤ ((bundleHeader (BitVec.ofNat 256 0x0600000000000000)).extractLsb' 52 7).toNat) ∧
    trigOf 1 0x208 ⟨1, .x 4⟩ = some (.add 0 ⟨1, .x 4⟩) ∧ State.reset.live ⟨1, .x 4⟩ = false := by decide

theorem wit_predicate_range :
    (let b : W64 := 0x005F; (b.extractLsb' 0 7).toNat + ((b.extractLsb' 8 7).toNat + 1) = 96) ∧
    (let b : W64 := 0x0060; (b.extractLsb' 0 7).toNat + ((b.extractLsb' 8 7).toNat + 1) = 97) := by decide

/-! ### Witnesses: the end of a bundle and traps -/

theorem wit_bundle_end : State.reset.ctx.pending = none ∧ State.reset.ctx.hdr.c = false ∧ State.reset.me.mode.dbgStep = false ∧
    State.reset.ctx.eret = false ∧ State.reset.ctx.acq = false ∧ State.reset.ctx.stall = 0 := by decide

/-- A core in its handler, whose first bundle was bundle 7. -/
def inHandler : State := dev fun k => { k with mode.handler := true, mode.entrySeq := 7 }

theorem wit_traps :
    ((State.reset.core 0).mode.handler = false ∧ (0x03 : Byte) ∉ [(0x02 : Byte), 0x30, 0x21, 0x22]) ∧
    ((inHandler.core 0).mode.handler = true ∧ (inHandler.core 0).mode.entrySeq = 7) ∧ (inHandler.core 0).mode.stackSeq ≠ some 8 ∧
    ((0x21 : Byte) ∈ [(0x21 : Byte), 0x22] ∧ State.reset.me.mode.handler = false) := by decide

theorem wit_eret : (∀ b, (trigAt [] b).fires mv ∧ (trigAt [] b).me.mode.handler = false) ∧ inHandler.live mv = true ∧
    (let s := { State.reset with ctx := { eret := true } }
     s.ctx.pending = none ∧ s.ctx.hdr.c = false ∧ s.me.mode.dbgStep = false ∧ s.ctx.eret = true ∧ s.me.task = none ∧ s.ctx.acq = false) :=
  ⟨fun b => ⟨(test_fires [] b).1, rfl⟩, rfl, by decide⟩

theorem wit_rollback : ((State.reset.core 0).snap.rows.map Prod.fst).Nodup := by decide

/-! ### Witnesses: control and system -/

theorem wit_control :
    (let b : W64 := 0x00FFFFFFFFFFFFE0; b.extractLsb' 0 5 = 0 ∧ b.extractLsb' 56 8 = 0) ∧ (0x01 : W64).extractLsb' 0 5 ≠ 0 ∧
    (0x0100000000000000 : W64).extractLsb' 56 8 ≠ 0 ∧ ((trigAt [] 31).me.token 31 ≠ 3) ∧
    ((dev fun k => k.setToken 31 3).me.token 31 = 3) ∧ 32 ≤ (32 : W64).toNat ∧
    ((0xFFFFFFFF : W64).extractLsb' 32 32 = 0 ∧ ∀ k, k < 32 → (0xFFFFFFFF : W64).getLsbD k = true → State.reset.me.token k ≠ 1) ∧
    (0x100000000 : W64).extractLsb' 32 32 ≠ 0 ∧ (dev fun k => k.setToken 31 1).me.token 31 = 1 := by decide

theorem wit_control_registers : (0x027 : W64).toNat ∉ [0x000, 0x001, 0x002, 0x003, 0x008, 0x009, 0x00A, 0x00B, 0x00C, 0x00D, 0x00E, 0x010, 0x011,
      0x012, 0x013, 0x014, 0x015, 0x020, 0x021, 0x022, 0x023, 0x024, 0x025, 0x026] ∧
    (trigAt [(0x600, 4)] 0).me.latchW 0x600 = 4 ∧ (trigAt [(0x600, 1)] 0).me.latchW 0x600 = 1 ∧
    ((trigAt [(0x600, 3)] 0).me.latchW 0x600 = 3 ∧ (trigAt [(0x600, 3)] 0).ctx.hdr.c = false) ∧
    ({ trigAt [(0x600, 3)] 0 with ctx := { hdr := ⟨true, false, 0, 0, 0, 0⟩ } } : State).ctx.hdr.c = true := by decide

theorem wit_system :
    (0x83FFFFFFFFFFFFFF : W64).extractLsb' 58 5 = 0 ∧ (0x0400000000000000 : W64).extractLsb' 58 5 ≠ 0 ∧ (0x800 : W64).getLsbD 11 = true ∧
    ((0x7FF : W64).getLsbD 11 = false ∧ (0x0100000000000000 : W64).extractLsb' 56 8 ≠ 0) ∧
    (((0x00000FFF : W64).extractLsb' 0 12).toNat + (((0x00000FFF : W64).extractLsb' 16 12).toNat + 1) = 4096) ∧
    (((0x00010FFF : W64).extractLsb' 0 12).toNat + (((0x00010FFF : W64).extractLsb' 16 12).toNat + 1) = 4097) ∧
    State.reset.me.eng.cim.pinned 4095 = false := by decide

theorem wit_latches_legal : LatchesLegal State.reset 0x9F 30 ∧ ¬ LatchesLegal State.reset 0x9F 31 ∧ ¬ LatchesLegal State.reset 0 32 := by
  refine ⟨⟨by unfold WaitLegal; decide, by decide, by unfold WaitsOn; decide, by decide, by decide⟩, fun h => h.own ?_, fun h => ?_⟩
  · exact ⟨0, by decide⟩
  · exact absurd h.produce (by decide)

theorem wit_breakpoint : (dev fun k => { k with mode.dbgEn := true }).me.mode.dbgEn = true ∧ (dev fun k => { k with mode.dbgEn := true }).live mv = true ∧
    State.reset.me.mode.dbgEn = false := by decide

/-! ### Witnesses: vector, special-function and transpose units -/

/-- `va0` with TA, TD, RM and A, B given: `ty` is the word of `.ty`. -/
def vecAt (ty a : W64) (r : RowT) : State := rowsAt [(0x300, .r ⟨a.setWidth 4096, 0⟩), (0x303, .w ty)] r

theorem wit_vector_complete :
    ((vecAt 0x04 0 ⟨5, 0⟩).live mr = true ∧ ((vecAt 0x04 0 ⟨5, 0⟩).vecArgs 0).any (fun x => boundTa x = 2 && x.ta = .s32) = true) ∧
    (vecAt 0x20 0 ⟨5, 0⟩).vecArgs 0 = none ∧ tyLegal ((vecAt 0x20 0 ⟨5, 0⟩).vTy 0) = false ∧ (vecAt 0x1F 0 ⟨5, 0⟩).vecArgs 0 = none ∧
    ((vecAt 0x08 0 ⟨5, 0⟩).vecArgs 0).any (fun x => !intTa x) = true ∧ tyLegal ((vecAt 0x04 0 ⟨5, 0⟩).vTy 0) = true := by decide +kernel

/-- LG and D at the ends of their ranges: 128 lanes of `s32`, groups of 2^7, stages of distance 2^6. -/
theorem wit_vector_groups :
    ((vecAt 0x04 7 ⟨5, 0⟩).vecArgs 0).any (fun x => decide (2 ^ (x.pa.extractLsb' 0 4).toNat ≤ x.ta.lanes) && x.ta.isI) = true ∧
    ((vecAt 0x04 6 ⟨5, 0⟩).vecArgs 0).any (fun x => decide (2 ^ (x.pa.extractLsb' 0 4).toNat < x.ta.lanes)) = true ∧
    ((vecAt 0x402 0 ⟨5, 0⟩).vecArgs 0).any (fun x => x.ta = .s16 && x.td = some .s32) = true ∧
    ((vecAt 0x400 0 ⟨5, 0⟩).vecArgs 0).any (fun x => x.ta = .s8 && x.td = some .s32) = true := by decide +kernel

/-- Float types, RM 3 and the conversion of `f32` to `bf16` in its last PART. -/
theorem wit_vector_floats :
    ((vecAt 0x6008 0 ⟨5, 0⟩).vecArgs 0).any (fun x => x.ta.isF && x.ta.fmt.isSome && x.rm = 3) = true ∧
    ((rowsAt [(0x301, .r ⟨0x100, 0⟩), (0x303, .w 0x8A08)] ⟨5, 0⟩).vecArgs 0).any (fun x =>
      x.ta.isValue && x.rm = 4 && x.td.any fun d => d.isTarget && partOk x d) = true := by decide +kernel

theorem wit_special_function : State.reset.me.tr.sfWait = 0 ∧ (dev fun k => { k with tr.sfWait := 1 }).me.tr.sfWait ≠ 0 ∧
    (f32Nan 0x7F800001 ∧ f32Nan 0xFFFFFFFF) ∧ (f32Zero false 0x007FFFFF ∧ f32Zero true 0x80000000 ∧ f32Zero true 0x807FFFFF) ∧
    (f32Below 0x80800000 ∧ f32Below 0xFF800000) := by
  unfold f32Nan f32Zero f32Below; decide +kernel

theorem wit_transpose :
    ((0x00013F03 : W64) &&& 0xFFFFFFFFFFFEC0FC = 0) ∧ ((0x00020000 : W64) &&& 0xFFFFFFFFFFFEC0FC ≠ 0) ∧ ((0x3F03 : W64) &&& 0xFFFFFFFFFFFFC0FC = 0) ∧
    ((0x4000 : W64) &&& 0xFFFFFFFFFFFFC0FC ≠ 0) ∧ ((0x03 : W64) &&& 0xFFFFFFFFFFFFFFFC = 0) ∧ ((0x04 : W64) &&& 0xFFFFFFFFFFFFFFFC ≠ 0) ∧
    (tyLegal 0xA08 = true ∧ Ty.ofCode ((0xA08 : W64).extractLsb' 0 5).toNat = some .f32 ∧ Ty.ofCode ((0xA08 : W64).extractLsb' 8 5).toNat = some .bf16 ∧
      Ty.isTarget .bf16 = true) ∧
    (Ty.ofCode 2 = some .s16 ∧ Ty.s16 ∉ [Ty.s32, Ty.z32, Ty.f32]) ∧ Ty.ofCode 0x1F = none ∧ tyLegal 0x20 = false := by decide +kernel

/-! ### Witnesses: loads, stores, atomics -/

/-- `ls0` with EA in `ls0.a` and zero in `x4`. -/
def loadAt (ea : W64) : State := trigAt [(0x440, ea)] 0

theorem test_granules (n off : Nat) : State.reset.granulesOk 0 0 off n := fun _ _ => rfl

theorem wit_local :
    (State.reset.localAddrOk 8 8 0x3FFFF8 ∧ State.reset.granulesOk 0 0 0x3FFFF8 8) ∧ ¬ State.reset.localAddrOk 8 8 0x3FFFFC ∧
    ¬ State.reset.localAddrOk 1 1 0x800000 ∧
    (State.reset.localAddrOk 1 1 0 ∧ (0 : W64).toNat < 0x400000 ∧ ¬ (dev fun k => { k with own.gran := [(0, 257)], own.desc := [(1, { st := 2 })] }).granulesOk 0 1 0 1) ∧
    (loadAt 0x3FFFF8).storeFits (.loc 0x3FFFF8) 0x3FFFF8 (wordBytes 8 0) false := by
  refine ⟨⟨⟨by decide, .inl (by decide)⟩, test_granules _ _⟩, fun h => absurd h.1 (by decide), ?_, ⟨⟨by decide, .inl (by decide)⟩, by decide, ?_⟩, ?_⟩
  · rintro ⟨-, h | h⟩ <;> revert h <;> decide
  · exact fun h => absurd (h 0 (by decide)) (by decide +kernel)
  · unfold State.storeFits; decide +kernel

/-- The gather of the example of R301, and a row all of whose lanes are skipped. -/
def gatherAt (a : W64) (idx : Row) (tag : Byte) : State := rowsAt [(0x440, .w a)] ⟨idx, tag⟩

theorem wit_gather :
    (gatherAt 0x10000 (BitVec.allOnes 4096) 0).live mr = true ∧ (gatherAt 0 0 1).operandRow mr = ⟨0, 1⟩ ∧
    ((0xC000000000000000 : W64).extractLsb' 62 2).toNat = 3 ∧ (0x0000000000800000 : W64).extractLsb' 23 39 ≠ 0 ∧
    ((0x00000000003FFFFE : W64).extractLsb' 23 39 = 0 ∧ ((0x00000000003FFFFE : W64).extractLsb' 0 23).toNat % 4 ≠ 0) ∧
    ((0x00000000003FFFFC : W64).extractLsb' 0 23).toNat + 4 = 0x400000 := by decide +kernel

theorem wit_global :
    ((0x40000004 : W64).toNat % 8 ≠ 0) ∧ ((0x40000000 : W64).toNat % 8 = 0) ∧
    ((loadAt 0x40000000).transCore 0 5 .load false 0x40000000 8).1 = .miss ∧
    ((loadAt 0x100000000000000).transCore 0 5 .load false 0x100000000000000 8).1 = .fault 0x16 0x04 0x100000000000000 ∧
    ((loadAt 0).transCore 0 5 .store false 0xFFFFFFFFFF7FF8 8).1 = .fault 0x13 0x0C 0xFFFFFFFFFF7FF8 ∧
    ((loadAt 0).transCore 0 5 .store false 0xFFFFFFFFFF8000 8).1 = .ok [⟨14, 0x7FC08000, 0, 0, 8⟩] := by decide +kernel

theorem wit_remote :
    (remoteAddrOk 8 8 0x4BFFFF8 ∧ homeOf 0x4BFFFF8 = 9 ∧ State.reset.absent 9 = false ∧ (9 : CoreId) ≠ State.reset.ctx.core) ∧
    ¬ remoteAddrOk 8 8 0x4C00000 ∧ ¬ remoteAddrOk 8 8 0x20000000 ∧
    (remoteAddrOk 8 8 0x3FFFF8 ∧ homeOf 0x3FFFF8 = State.reset.ctx.core) ∧
    ((dev fun k => { k with mode.quarantined := true }).absent 0 = true ∨ (dev fun k => { k with mode.offline := true }).absent 0 = true) := by
  unfold remoteAddrOk; decide +kernel

theorem wit_atomics :
    (State.reset.me.ownState 0 ≠ 3 ∧ homeOf 0 = State.reset.ctx.core) ∧ (dev fun k => { k with own.gran := [(0, 257)], own.desc := [(1, { st := 3 })] }).me.ownState 0 = 3 ∧
    (scratchAmos.any fun o => !o.ret) = true ∧ (scratchAmos.any fun o => o.ret) = true ∧ (globalAmos.any fun o => o.ret) = true ∧
    (globalAmos.any fun o => !o.ret) = true ∧ (State.reset.me.loadLocal 0 0 8).2 = false ∧
    ((dev fun k => { k with loc.badWords := [0] }).me.loadLocal 0 0 8).2 = true := by decide +kernel

/-! ### Witnesses: ordering, engines -/

theorem wit_ordering :
    ((0xFFFFFFFFF : W64).extractLsb' 36 28 = 0) ∧ ((0x1000000000 : W64).extractLsb' 36 28 ≠ 0) ∧ ((63 : W64).toNat < 64 ∧ 64 ≤ (64 : W64).toNat) ∧
    (7 : W64).toNat < 8 ∧ 8 ≤ (8 : W64).toNat ∧ ((0x3FF03FF : W64).extractLsb' 10 6 = 0 ∧ (0x3FF03FF : W64).extractLsb' 26 38 = 0) ∧
    (0x400 : W64).extractLsb' 10 6 ≠ 0 ∧ (0x4000000 : W64).extractLsb' 26 38 ≠ 0 ∧ State.reset.absent (coreId 63) = false ∧
    (State.reset.modCore 63 fun k => { k with mode.offline := true }).absent (coreId 63) = true := by decide +kernel

theorem wit_mask : (dev fun k => { k with task := some task0, eng.gangMask := 1 }).maskOk 1 := by unfold State.maskOk; decide +kernel

theorem wit_copy_and_queues :
    ((rowsAt [] ⟨5, 0⟩).operandRow mr = ⟨5, 0⟩ ∧ (rowsAt [] ⟨5, 1⟩).operandRow mr = ⟨5, 1⟩) ∧
    (15 : W64).toNat < 16 ∧ 16 ≤ (16 : W64).toNat ∧
    (let a : W64 := 0x03F0000020000040
     a.extractLsb' 34 30 ≠ 0) ∧
    (let a : W64 := 0x0000000000002001
     a.extractLsb' 34 30 = 0 ∧ (a.extractLsb' 6 14).toNat ≠ 0 ∧
       ((a.extractLsb' 20 14).toNat + ((a.extractLsb' 0 6).toNat + 1) * (a.extractLsb' 6 14).toNat) * 512 ≤ 0x400000) ∧
    ((State.reset.me.eng.carafes.get 3).nasgn = 0 ∧ State.reset.me.eng.cafWaits 3 = false) ∧
    (State.reset.me.eng.carafes.get 15).act = false ∧
    (((dev fun k => { k with eng.carafes := k.eng.carafes.set 15 { act := true, nheld := 1 } }).me.eng.carafes.get 15).act = true ∧
      (dev fun k => { k with eng.carafes := k.eng.carafes.set 15 { act := true, nheld := 1 } }).me.heldReleases 15 = 0) ∧
    (let s := dev fun k => { k with eng.yq := [⟨1, 0⟩, ⟨2, 0⟩], eng.yqSpec := 1 }
     s.me.eng.yq[s.me.eng.yqSpec]? = some ⟨2, 0⟩ ∧ guardOf s.ctx.hdr s.me.regs 0 = true) ∧
    (let s := dev fun k => { k with eng.nm := k.eng.nm.set 3 { results := [⟨1, 0⟩] } }
     (s.me.eng.nm.get 3).results[(s.me.eng.nm.get 3).spec]? = some ⟨1, 0⟩) := by decide +kernel

/-! ### Witnesses: near-memory commands, collectives, the CIM engine -/

/-- Domain 5 with 64 GiB at `0x10_0000_0000` mapped onto home 0 as a class: its root at `0x1_0000` and the next table at `0x2_0000`. -/
def mapped (cls : Nat) (s : State) : State :=
  { s with
    sched := { s.sched with mem := [(40, 1), (42, 1)] }
    mem := { s.mem with
      hbm := [(0x10000, 1), (0x10002, 2), (0x20008, 0x57), (0x20009, BitVec.ofNat 8 (16 * cls))]
      blocks := [(0x400, { written := true }), (0x800, { written := true })] } }

/-- A command row: word 0, word 1 and word 2. -/
def nearRow (w0 w1 w2 : W64) : RowT := ⟨w0.setWidth 4096 ||| (w1.setWidth 4096 <<< 64) ||| (w2.setWidth 4096 <<< 128), 0⟩

/-- A core with a task in domain 5 and a command row in `v3`. -/
def nearAt (r : RowT) : State := mapped 3 (dev fun k => { k with loc.acc := [(3, r)], task := some task0 })

theorem wit_near :
    (nmFieldsOk (nearRow 0x0200000000000000 0x1000100000 0).data = true ∧ nmFieldsOk (nearRow 0x0400000000000000 0x1000100000 0).data = false) ∧
    ((nearRow 0x0200000000000000 0x2000000000000000 0).data.extractLsb' 124 4).toNat = 2 ∧
    ((nearRow 0x0200000000000000 0x1000000000000000 0).data.extractLsb' 124 4).toNat = 1 ∧
    (let s := nearAt (nearRow 0x0200000000000000 0x1000100000 0)
     let r := (s.operandRow mr).data
     s.live mr = true ∧ (s.operandRow mr).tag = 0 ∧ ¬ 64 ≤ s.me.nrf ∧ (nmTranslate s r).1 = .ok [⟨0, 0x100000, 3, 0, 4⟩]) ∧
    (let s := mapped 1 (nearAt (nearRow 0x0200000000000000 0x1000100000 0))
     (nmTranslate s (s.operandRow mr).data).1 = .ok [⟨0, 0x100000, 1, 0, 4⟩]) ∧
    (let s := nearAt (nearRow 0x0200000000000000 0x2000000000 0)
     (nmTranslate s (s.operandRow mr).data).1 = .error (0x10, 0x35, 0x2000000000)) := by decide +kernel

theorem wit_near_full : 16 ≤ (dev fun k => { k with eng.nm := k.eng.nm.set 0 { results := List.replicate 16 RowT.zero } }).me.nmOut 0 := by decide +kernel

theorem wit_collectives : CollLegal 0 0x40000000000 0x3FFE00 1 0 ∧ CollLegal 1 0x3F000000000000 0 0x8000000000000001 0 ∧ CollLegal 2 0 0 1 0 ∧
    ¬ CollLegal 1 0x1000000000000 0 1 0 := by
  refine ⟨?_, ?_, ?_, fun h => ?_⟩
  · constructor <;> decide
  · constructor <;> decide
  · constructor <;> decide
  · exact absurd h.root (by decide)

theorem wit_cim_triggers :
    ((255 : W64).toNat < 256 ∧ 256 ≤ (256 : W64).toNat) ∧ ((0xFFFFFFFF : W64).extractLsb' 32 32 = 0) ∧ (0x100000000 : W64).extractLsb' 32 32 ≠ 0 ∧
    (decodeMicro 0x6400000000000005 = some (.mtok 5) ∧ ((0x6400000000000005 : W64).extractLsb' 58 6).toNat = 0x19) ∧
    (decodeMicro 0x2028000000000000 = some (.mmod 5 0 0) ∧ ((0x2028000000000000 : W64).extractLsb' 58 6).toNat ∉ [0x01, 0x02, 0x03, 0x04, 0x19]) ∧
    ((4095 : W64).toNat < 4096 ∧ 4096 ≤ (4096 : W64).toNat) ∧ State.reset.me.eng.cim.pinned 4095 = false := by decide +kernel

/-- A routine of core 0 at its first word, with a token and a progress token. -/
def routine0 : Routine :=
  { stepRoutine 0 with call := { entry := 0, step := none, waits := [], token := some 6, progress := 0x80, mps := List.replicate 8 0, org := {} }, first := 256, last := 260, mpc := 256 }

def inRoutine (r : Routine) (f : Core → Core) : State := dev fun k => f { k with eng.cim.run := some r }

theorem wit_routine_ends : (∀ t, routine0.call.token = some t → t < 32 ∧ routine0.call.progress.getLsbD t = false) ∧
    (inRoutine routine0 id).seqCim.run = some routine0 := by
  refine ⟨?_, rfl⟩
  rintro t ⟨⟩; decide

theorem wit_micro_control :
    (16 < (17 : BitVec 5).toNat ∧ (16 : BitVec 5).toNat ≤ 16) ∧ (routine0.call.progress.getLsbD 7 = true ∧ (inRoutine routine0 fun k => k.setToken 7 1).seqCore.token 7 = 1) ∧
    routine0.call.progress.getLsbD 6 = false ∧ (2 ≤ (2 : W32).toNat ∧ (1 : W32).toNat < 2) ∧
    ((0x3FFFE0 : W32).toNat % 8 = 0 ∧ (0x3FFFE0 : W32).toNat + 32 ≤ 0x400000) ∧ ¬ ((0x3FFFE8 : W32).toNat + 32 ≤ 0x400000) ∧
    (∀ i, i < 32 → granuleOk 0 (inRoutine routine0 id).seqCore (some 0) 0 ((0x3FFFE0 + i) / 4096) = true) := by decide +kernel

/-- A fill of a macro from a descriptor. -/
def fillOf (m off : Nat) : Fill := { macr := m, cfg := {}, group := 1, descOff := off, domain := 5 }

theorem wit_micro_ranges :
    RangeOk (inRoutine routine0 id) 127 0 false ∧ 127 < (127 : BitVec 7).toNat + (1 : BitVec 7).toNat ∧
    (macroIn 0 5 5 ∧ ¬ (inRoutine routine0 fun k => { k with eng.cim.macros := [(5, { retired := true })] }).seqCore.macroUse true 5) ∧
    (macroIn 0 5 5 ∧ ¬ (inRoutine routine0 fun k => { k with eng.cim.macros := [(5, { scratch := true })] }).seqCore.macroUse false 5 ∧
      (inRoutine routine0 fun k => { k with eng.cim.macros := [(5, { scratch := true })] }).seqCore.macroUse true 5) ∧
    (∃ f ∈ (inRoutine routine0 fun k => { k with eng.cim.fills := [fillOf 5 0] }).seqCore.eng.cim.fills, macroIn 0 5 f.macr) := by
  refine ⟨⟨by decide, fun m _ => ⟨rfl, ?_, fun _ => rfl⟩⟩, by decide, ⟨by unfold macroIn; decide, ?_⟩, ⟨by unfold macroIn; decide, ?_, rfl, ?_, nofun⟩, ⟨_, .head _, by unfold macroIn; decide⟩⟩
  · rintro ⟨b, h, -⟩; cases h
  · exact fun h => absurd h.1 (by decide +kernel)
  · exact fun h => absurd (h.2.2 rfl) (by decide +kernel)
  · rintro ⟨b, h, -⟩; cases h

theorem wit_broadcast : (inRoutine routine0 id).seqCim.run = some routine0 ∧ (inRoutine routine0 id).seqCore.eng.aq = [] ∧
    (mbcCheck Cim.reset Cim.reset.active (latchRow {} RowT.zero) 0 0 routine0 {}).isOk = true ∧
    (let c : CimCfg := {}; c.tree = false ∧ c.blockMode = false ∧ c.afmt = 0 ∧ 1 ≤ c.wa) ∧
    (256 / 8 ≤ 31 + 1 ∧ 30 + 1 < 256 / 8) := by decide +kernel

/-! ### Witnesses: events of a core -/

def coreAt (f : Core → Core) : Core := (dev f).core 0

/-- A committed item, a pending result, and a report. -/
def item (place : Place) (what : CommKind) : Comm := { id := 1, org := {}, place := place, batch := 0, what := what }
def pending (place : Place) (n : Nat) (got : Option Val) : Pend := { id := 1, org := {}, port := 0x122, place := place, n := n, got := got }
def report0 : Report := ⟨{ code := 0x03 }, 5⟩

/-- A miss on page n of a task's domain, whose walk was asked for at a time. -/
def missOf (n since : Nat) : Walk := ⟨n, {}, BitVec.ofNat 64 (65536 * n), 8, .load, since⟩
def cimFail0 : CimFail := ⟨3, { waits := [], token := none, progress := 0, mps := [], org := {} }, 0, 0, 0⟩

/-- Sixteen dirty lines of the L1 set of line 0 that a `rel` holds. -/
def heldSet : Core := coreAt fun k => { k with
  ms.l1 := (List.range 16).map fun i => ⟨13, 1024 * (i + 1), 0, 0, 0, 1, 1, 0, 0, 0⟩
  ms.fifo := .marker 9 :: (List.range 16).map fun i => .line 13 (1024 * (i + 1)) }

theorem wit_landings :
    (coreAt fun k => { k with ms.pend := [pending .va 8 (some (.w 1))] }).ms.pend[0]? = some (pending .va 8 (some (.w 1))) ∧
    ((pending (.glob [⟨1, 0, 0, 0, 8⟩]) 8 none).got = none ∧ State.reset.me.untranslated 0 = false ∧ ((0 : W64) ≠ 1) ∧
      (pending (.glob [⟨1, 0, 0, 0, 8⟩]) 8 none).noFill = false ∧ (pending (.glob [⟨1, 0, 0, 0, 8⟩]) 8 none).part = [] ∧
      heldSet.fillWaits [⟨1, 0, 0, 0, 8⟩] = true ∧ State.reset.me.fillWaits [⟨1, 0, 0, 0, 8⟩] = false ∧
      State.reset.gladeGone 0 [⟨1, 0, 0, 0, 8⟩] = none ∧ State.reset.gladeGone 0 [⟨14, 0x80, 0, 0, 8⟩] = some 0) ∧
    ((pending (.loc 7) 0 none).place = .loc 7 ∧ ∀ w ∈ State.reset.me.ms.comm, w.id < 1) := by decide +kernel

/-- A miss that the trap page serves, one that a walk ends with a fault or with a leaf, and one behind thirty-two others. -/
theorem wit_walks :
    State.reset.missAt 0 0 0xFFFFFFFFFF8000 8 = none ∧
    (let s := dev fun k => { k with ms.walks := [missOf 1 0] }
     (s.core 0).ms.walks[0]? = some (missOf 1 0) ∧ s.missAt 0 (s.core 0).domain 65536 8 = some 65536 ∧ s.walkRuns (groveOf 0) (s.core 0).domain 1 = true ∧
       (s.misses (groveOf 0)).length = 1 ∧ (match (s.walkGrove 0 (s.core 0).domain 65536).1 with | .fault .. => true | .leaf .. => false) = true) ∧
    (let s := mapped 1 (dev fun k => { k with task := some task0, ms.walks := [missOf 0x100010 0] })
     s.missAt 0 5 0x1000100000 8 = some 0x1000100000 ∧ (match (s.walkGrove 0 5 0x1000100000).1 with | .leaf .. => true | .fault .. => false) = true) ∧
    (let s := dev fun k => { k with ms.walks := (List.range 33).map fun n => missOf (n + 1) n }
     s.walkRuns (groveOf 0) (s.core 0).domain 32 = true ∧ s.walkRuns (groveOf 0) (s.core 0).domain 33 = false) ∧
    (let s := dev fun k => { k with ms.walks := [missOf 1 0] }
     (s.transCore 0 0 .load false 65536 8).1 = .miss ∧ (match (s.transCore 0 0 .load true 65536 8).1 with | .fault .. => true | _ => false) = true ∧
       ((s.transCore 0 0 .load true 65536 8).2.core 0).ms.walks.any (fun x => x.id = 1) = true) := by decide +kernel

theorem wit_boundaries :
    (let s := dev fun k => { k with task := some task0, asked := some .killed }
     s.canIssue 0 = true ∧ (s.core 0).fatal = [] ∧ (s.core 0).endIssued = false ∧ (s.core 0).asked = some .killed) ∧
    (let s := dev fun k => { k with task := some task0, fatal := [(4, 0x20)] }
     s.canIssue 0 = true ∧ (s.core 0).fatal = [(4, 0x20)]) ∧
    (let s := dev fun k => { k with task := some task0, ms.releasing := some ⟨[⟨0, {}, .va, 0, .endTask 7⟩], 0, false, 0, false⟩ }
     s.canIssue 0 = true ∧ (s.core 0).endIssued = true ∧ (s.core 0).reports = []) ∧
    (let s := dev fun k => { k with task := some task0, eng.cim.fails := [cimFail0] }
     s.canIssue 0 = true ∧ (s.core 0).asked = none ∧ (s.core 0).reports = [] ∧ (s.core 0).mode.handler = false ∧ (s.core 0).eng.cim.fails = [cimFail0]) := by
  decide +kernel

theorem wit_reports : (coreAt fun k => { k with reports := [report0] }).takes report0 ∧
    ¬ (coreAt fun k => { k with mode.handler := true, reports := [report0] }).takes report0 ∧
    (let k := coreAt fun k => { k with reports := [report0], mode.openSeq := 5, ms.releasing := some ⟨[⟨0, {}, .va, 0, .endTask 7⟩], 0, false, 0, false⟩ }
     k.endIssued = true ∧ k.takes report0) ∧
    ¬ (coreAt fun k => { k with mode.openSeq := 6, ms.releasing := some ⟨[⟨0, {}, .va, 0, .endTask 7⟩], 0, false, 0, false⟩ }).takes report0 := by
  unfold Core.takes; decide +kernel

/-- A release of an interval at its checkpoint. -/
def release0 (committed : Bool) : Release := ⟨[], 0x20, false, 0, committed⟩

theorem wit_releases :
    (let k := coreAt fun k => { k with ms.releasing := some (release0 true), ms.comm := [item .va (.rel 1)], ms.fifo := [.marker 1] }
     k.ms.releasing = some (release0 true) ∧ k.l1Free = false) ∧
    (let k := coreAt fun k => { k with ms.releasing := some (release0 true) }
     k.l1Free = true) ∧
    (let k := coreAt fun k => { k with ms.releasing := some (release0 false), ms.walks := [missOf 1 0] }
     k.releaseHeld (release0 false) = true) ∧
    (let k := coreAt fun k => { k with ms.releasing := some (release0 false), ms.wh := [⟨0, {}, .loc 0x3FFFF8, 0x3FFFF8, .store (List.replicate 8 1) false⟩] }
     k.releaseHeld (release0 false) = false ∧ k.ms.wh ≠ []) ∧
    (let s : State := { State.reset with hk := { State.reset.hk with protActive := 1 }, cur := { flag := true } }
     s.cur.flag = true ∧ s.lockstep (groveOf 0) = true) := by decide +kernel

theorem wit_store_in_scratch : (⟨0, {}, .loc 0x3FFFF8, 0x3FFFF8, .store (List.replicate 8 1) false⟩ : Withheld).inScratch :=
  ⟨_, _, _, rfl, rfl, by decide⟩

theorem wit_drains :
    ((item .va (.drain 0xF 3)).what = .drain 0xF 3 ∧ State.reset.me.nearPending = []) ∧
    ((item (.rem 9 0) (.store [1] false)).drainClass &&& 0xF ≠ 0) ∧ ((item (.rem 9 0) (.store [1] false)).drainClass &&& 2 = 0) ∧
    ((FifoEnt.line 0 5) ∈ [FifoEnt.line 0 5, .marker 1].takeWhile fun e => decide (e ≠ .marker 1)) ∧
    (item (.glob [⟨1, 0, 0, 0, 8⟩]) (.store [1] false)).isL1 = true ∧
    (let l : L1Line := ⟨13, 5, 0, 0, 0, 1, 1, 0, 0, 0⟩
     [l].find? (lineIs 13 5) = some l ∧ l.dirty ≠ 0 ∧ (coreAt fun k => { k with ms.l1 := [l], ms.fifo := [.line 13 5, .marker 9] }).lineHeld l = false ∧
       (coreAt fun k => { k with ms.l1 := [l], ms.fifo := [.marker 9, .line 13 5] }).lineHeld l = true) ∧
    (let l : L1Line := ⟨14, 5, 0, 0, 0, 1, 1, 0, 0, 0⟩
     l.dirty ≠ 0 ∧ State.reset.mem.gladeLine 5 = false) ∧
    ((0xFFFFFFFF : Nat) < 2 ^ 32 ∧ State.reset.mem.fullKey ((State.reset.mem.block (2 * 0xFFFFFFFF)).key % 256) = (State.reset.mem.block (2 * 0xFFFFFFFF)).key ∧
      (State.reset.mem.set (setOf 0xFFFFFFFF)).victim.isSome = true) := by decide +kernel

theorem first_free (w : Comm) : (coreAt fun k => { k with ms.comm := [w] }).freeItem 0 w := ⟨by rfl, fun _ h => (nomatch h), fun _ h => (nomatch h)⟩

theorem wit_free_item :
    (let w := item (.rem 9 0x3FFFF8) (.store (List.replicate 8 1) false)
     (coreAt fun k => { k with ms.comm := [w] }).freeItem 0 w) ∧
    (let w := item (.rem 9 0x3FFFF8) (.signal (.amo .add 1 0 0x122))
     (coreAt fun k => { k with ms.comm := [w] }).freeItem 0 w ∧ w.returns = true) ∧
    (let w := item (.glob [⟨1, 0, 0, 0, 8⟩]) (.amo .add 1 0)
     (coreAt fun k => { k with ms.comm := [w] }).freeItem 0 w ∧ w.returns = false ∧ w.left = true ∧
       State.reset.mem.extTouched 1 0 8 = false ∧ (coreAt fun k => { k with ms.comm := [w] }).ms.l1.find? (lineIs 1 0) = none) ∧
    (let w := item (.glob [⟨1, 0, 0, 0, 8⟩]) (.store (List.replicate 8 1) false)
     (coreAt fun k => { k with ms.comm := [w] }).freeItem 0 w ∧ w.isL1 = true) ∧
    (let w := item (.glob [⟨1, 0, 2, 0, 8⟩]) (.store (List.replicate 8 1) false)
     (coreAt fun k => { k with ms.comm := [w] }).freeItem 0 w ∧ w.isL1 = false) :=
  ⟨first_free _, ⟨first_free _, by decide⟩, ⟨first_free _, by decide +kernel⟩, ⟨first_free _, by decide⟩, ⟨first_free _, by decide⟩⟩

theorem wit_home_accepts : (State.reset.modCore 9 fun k => { k with own.gran := [(1023, 257)], own.desc := [(1, { st := 1, hcore := 0 })] }).homeAccepts 0 9 1 0x3FFFF8 8 ∧
    (State.reset.modCore 9 fun k => { k with own.gran := [(1023, 257)], own.desc := [(1, { st := 3, hcore := 9, mask := 1 })] }).homeAccepts 0 9 2 0x3FFFF8 8 ∧
    ¬ (State.reset.modCore 9 fun k => { k with own.gran := [(0, 257)], own.desc := [(1, { st := 1, hcore := 9 })] }).homeAccepts 0 9 1 0 8 ∧
    ¬ (State.reset.modCore 9 fun k => { k with mode.offline := true }).homeAccepts 0 9 1 0 8 := by
  refine ⟨⟨by decide +kernel, by decide +kernel⟩, ⟨by decide +kernel, by decide +kernel⟩, fun h => ?_, fun h => ?_⟩
  · exact absurd (h.2 0 (by decide)) (by decide +kernel)
  · exact absurd h.1 (by decide +kernel)

theorem wit_refusals : (coreAt fun k => { k with ms.refusals := [(report0, true)] }).ms.refusals[0]? = some (report0, true) := by decide +kernel

/-- Core 0 with descriptor 5 in a state. -/
def owner (d : Desc) : State := dev fun k => { k with own.desc := [(5, d)], eng.gangMask := 3, task := some task0 }

theorem wit_handles :
    ((0x03FF0000 : W64).extractLsb' 0 10).toNat + (((0x03FF0000 : W64).extractLsb' 16 10).toNat + 1) = 1024 ∧
    ((0x03FF0001 : W64).extractLsb' 0 10).toNat + (((0x03FF0001 : W64).extractLsb' 16 10).toNat + 1) = 1025 ∧
    (((owner { st := 1 }).core 0).desc 0).st = 0 ∧ (((owner { st := 1 }).core 0).desc 5).st = 1 ∧ (((owner { st := 1 }).core 0).desc 5).hcore = 0 ∧
    (((owner { st := 2 }).core 0).desc 5).st ≠ 1 ∧ (((owner { st := 1, hcore := 9 }).core 0).desc 5).hcore ≠ 0 ∧
    ((owner {}).core 0).eng.gangMask.getLsbD 0 = true ∧ ((owner {}).core 0).task.isSome = true ∧ ((owner {}).core 1).task = none ∧
    (∀ j, j < 1024 → State.reset.me.granule j = 0) := by decide +kernel

theorem wit_handle_events :
    (let s := owner { st := 1 }
     s.handleTry 0 .free 0 (handleOf 0 0 5) = .ok (0, 5, { gen := 1 }) ∧ s.handleTry 0 .give (handleOf 0 1 5) 0 = .error (0x09, ownDetail 0 7 false, 0)) ∧
    (let e : CEff := { id := 1, org := {}, what := .signal (.handle .free 0 (handleOf 0 0 5) 0 false) }
     let k := coreAt fun k => { k with ms.releasing := some ⟨[e], 0, false, 0, false⟩ }
     k.ms.releasing = some ⟨[e], 0, false, 0, false⟩ ∧ ([e] : List CEff)[0]? = some e ∧ k.ms.comm = [] ∧ k.reports = []) := by decide +kernel

theorem wit_signals :
    (let w := item .va (.signal (.fset 0x8000000000000001 15 7)); (coreAt fun k => { k with ms.comm := [w] }).freeItem 0 w) ∧
    (let w := item .va (.signal (.join 7)); (coreAt fun k => { k with ms.comm := [w] }).freeItem 0 w) ∧
    ∃ a : W64, (coreAt fun k => { k with eng.cim.mpload := [(a, 0, [], some 31)] }).eng.cim.mpload[0]? = some (a, 0, [], some 31) :=
  ⟨first_free _, first_free _, ⟨0, by rfl⟩⟩

theorem wit_waits : ((coreAt fun k => k.setToken 31 1).waits [31]) ∧ ¬ ((coreAt fun k => k.setToken 31 3).waits [31]) ∧ (coreAt fun k => k.setToken 31 3).waitFailed [31] ∧
    State.reset.me.waitFailed [32] ∧ ¬ State.reset.me.waits [32] := by unfold Core.waits Core.waitFailed; decide +kernel

theorem wit_collective_members : ∀ q : CoreId, (1 : W64).getLsbD q.val = true → (State.reset.core q).task.map Task.gang = State.reset.me.task.map Task.gang := by decide +kernel

/-- A call of entry 0, or a step. -/
def call0 (step : Option W64) (waits : List Nat) : CimCall := { step := step, waits := waits, token := some 1, progress := 0, mps := [], org := {} }

theorem wit_engine_starts :
    (let k := coreAt fun k => { k with eng.cim.queue := [call0 none []], eng.cim.store := [(0, 0x8000000000010FFE)] }
     let e := mrd 0 k.eng.cim.store 0
     k.cimStops = false ∧ k.eng.cim.run = none ∧ mwf {} k.eng.cim.macros = true ∧ k.eng.cim.fills = [] ∧ k.standby = none ∧ e.getLsbD 63 = true ∧ e.extractLsb' 28 35 = 0 ∧
       e.extractLsb' 12 4 = 0 ∧ 256 ≤ (e.extractLsb' 0 12).toNat ∧ (e.extractLsb' 0 12).toNat + (e.extractLsb' 16 12).toNat = 4095 ∧
       k.eng.cim.pending.invalid = none) ∧
    (mrd (0 : W64) State.reset.me.eng.cim.store 0).getLsbD 63 = false ∧ ({ wa := 9 } : CimCfg).invalid = some 1 ∧
    (call0 (some 0) []).step.isSome = true := by decide +kernel

theorem wit_engine_ends :
    (let k := coreAt fun k => { k with eng.nfences := [(some 31, [1], false)], eng.nrfCmds := [(1, 0, 0, [])] }
     k.eng.nfences[0]? = some (some 31, [1], false) ∧ 1 ∈ k.nearPending) ∧
    (let k := coreAt fun k => { k with eng.nfences := [(some 31, [1], false)] }
     1 ∉ k.nearPending) ∧
    (coreAt fun k => { k with eng.cim.fills := [fillOf 127 0x3FFFFF] }).eng.cim.fills = [fillOf 127 0x3FFFFF] ∧ 0x3FFFFF % 64 ≠ 0 := by decide +kernel

/-! ### Witnesses: copies, near commands, collectives -/

/-- Queue 0 of domain 5 bound to system engine 64, its ring in class 1 pages. -/
def queued : State :=
  let s := mapped 1 State.reset
  { s with
    sched := { s.sched with mem := [(40, 1), (42, 1), (0x1002, 0x30), (0x1004, 0x10), (0x1008, 1), (0x1009, 64), (0x100A, 5)] }
    queues := [(0, ⟨0⟩)] }

theorem wit_copy_queue :
    queued.sched.queueRow 0 = some ⟨0x1000300000, 5, 64, 16⟩ ∧ queued.queues.lookup 0 = some ⟨0⟩ ∧ queued.engineFree 64 = true ∧ queued.nextQueue 64 = some 0 ∧
    ({ queued with queues := [] } : State).nextQueue 64 = none ∧
    (queued.ringSegs ⟨0x1000300000, 5, 64, 16⟩ 0x80 64).1 = some [⟨0, 0x300080, 1, 0, 64⟩] ∧
    (queued.mem.readSegs [⟨0, 0x300080, 1, 0, 64⟩]).bad = false ∧ (queued.mem.readSegs [⟨0, 0x300080, 1, 0, 64⟩]).bytes = List.replicate 64 0 ∧
    (queued.ringSegs ⟨0x1000300000, 5, 64, 16⟩ 8 8).1 = some [⟨0, 0x300008, 1, 0, 8⟩] ∧
    (let s := mapped 3 queued; (s.ringSegs ⟨0x1000300000, 5, 64, 16⟩ 8 8).1.isNone) = true := by decide +kernel

/-- A copy of 512 bytes from offset 0 of core 0's scratch to offset `0x1000`. -/
def rowCopy : CopyEnt := { id := 1, words := [0x01000000, 0x1000000000000000, 0x1000000000001000, 512, 0, 0, 0, 0], core := some 0, domain := 5, token := some 31 }

theorem wit_row_copy : RowCopy rowCopy 0 0 0x1000 512 := by constructor <;> decide +kernel

theorem wit_copies :
    (let k := coreAt fun k => { k with eng.copies := [rowCopy] }
     k.eng.copies[0]? = some rowCopy ∧ rowCopy.caf = none ∧ (Packet.ofWords rowCopy.words).rec_ = 0 ∧ rowCopy.early = none ∧ rowCopy.ordAfter = [] ∧ (0 : W64).extractLsb' 62 2 = 0) ∧
    (let e : CopyEnt := { rowCopy with words := [0x03000F00, 0, 0, 0, 0, 0, 0, 0] }
     e.caf = none ∧ e.early = none ∧ (Packet.ofWords e.words).op = 3 ∧ (Packet.ofWords e.words).caf = 15) ∧
    ({ rowCopy with early := some (4, 0, 0) } : CopyEnt).early = some (4, 0, 0) ∧ State.reset.absent 0 = false ∧ (∀ g, g < 1024 → State.reset.me.granule g = 0) := by decide +kernel

theorem wit_copy_carafes :
    (let k := coreAt fun k => { k with eng.carafes := k.eng.carafes.set 15 { act := true, n := 4, nasgn := 3 } }
     (k.eng.carafes.get 15).act = true ∧ (k.eng.carafes.get 15).nasgn + (k.eng.carafes.get 15).nfill + (k.eng.carafes.get 15).nheld < (k.eng.carafes.get 15).n) ∧
    (State.reset.me.eng.carafes.get 0).act = false := by decide +kernel

theorem wit_near_perform :
    (let k := coreAt fun k => { k with eng.nm := k.eng.nm.set 3 { cmds := [(1, 0, [])] } }
     (k.eng.nm.get 3).cmds = [(1, 0, [])] ∧ k.nearReady 1 [] = true) ∧
    (let r := (nearRow 0x0200000000000000 0x1000100000 0).data
     let k := coreAt fun k => { k with eng.nrfCmds := [(1, 0, r, [⟨0, 0x10003C, 3, 0, 4⟩])] }
     k.nearReady 1 [⟨0, 0x10003C, 3, 0, 4⟩] = true ∧ 0x10003C % 64 + 4 ≤ 64 ∧ 4 % nmElem r = 0 ∧ 4 = nmElem r * nmLen r ∧ 0 < nmLen r ∧ k.eng.nearDone = [] ∧ (State.reset.mem.block (0x10003C / 64)).key = 0 ∧
       (State.reset.mem.block (0x10003C / 64)).poison = false ∧ (State.reset.mem.block (0x10003C / 64)).ue = false) := by decide +kernel

theorem wit_near_lanes : f32Nan 0x7FC00000 ∧ (∀ x ∈ [0x7F800000, 0xFF800000], ¬ f32Nan x ∧ x < 2 ^ 32) ∧ ∀ x ∈ [0x7F800000, 0x3F800000], ¬ f32Nan x ∧ x < 2 ^ 32 := by
  unfold f32Nan; decide

/-- Core 0's `bcast` to itself of one row at offset `0x1000`. -/
def bcast0 : CollReq := { core := 0, kind := 1, a := 0x1000, c := 0x2000, mask := 1, waits := [], token := some 31 }
def collState (r : CollReq) : State := { State.reset with sched := { State.reset.sched with colls := [r] } }

theorem wit_collective_perform :
    (let s := collState bcast0
     s.sched.colls[0]? = some bcast0 ∧ bcast0.kind ≤ 2 ∧ bcast0.mask.getLsbD bcast0.root = true ∧ s.sched.firstColl 0 1 = some bcast0 ∧
       (∀ p : CoreId, (1 : W64).getLsbD p.val = true → s.sched.firstColl p 1 = some bcast0) ∧ bcast0.src + 512 * bcast0.nr ≤ 0x400000 ∧
       bcast0.dst + 512 * bcast0.outRows ≤ 0x400000 ∧ bcast0.waits = [] ∧ bcast0.got = []) ∧
    (let s := collState { bcast0 with mask := 3 }
     s.sched.firstColl 1 3 = none ∧ (3 : W64).getLsbD 1 = true) ∧
    (let r := { bcast0 with rows := some [RowT.zero] }
     (collState r).sched.colls[0]? = some r ∧ r.rows = some [RowT.zero] ∧ r.wrote = [] ∧ r.dst + 512 * 1 ≤ 0x400000) := by decide +kernel

/-! ### Witnesses: scheduling -/

/-- Domain 5 with a root, and graph 0 of one node of zero words in it. -/
def graphs (l : List LaunchReq) : State := { State.reset with
  sched := { State.reset.sched with mem := [(40, 1), (42, 1), (graphTable + 2, 2), (graphTable + 7, 0x80), (graphTable + 15, 5)], launches := l } }

def launch0 (v : W64) : LaunchReq := ⟨v, none, 0, 0⟩

theorem wit_launches :
    State.reset.hk.ready = true ∧ State.reset.sched.launches.length < 64 ∧ (graphs (List.replicate 64 (launch0 0))).sched.launches.length = 64 ∧
    (graphs [launch0 1]).sched.readGraph 1 = none ∧
    ((graphs [launch0 0]).sched.readGraph 0).any (fun p => p.1 = 5 && p.2.length = 1 && p.2.all fun x => decide (nodeGang x.words ≤ (graphs []).gangLimit)) = true ∧
    (0x03F0000000000000 : W64).extractLsb' 58 5 = 0 ∧ (0x0400000000000000 : W64).extractLsb' 58 5 ≠ 0 ∧ (0x83F0000000000000 : W64).extractLsb' 12 40 = 0 ∧
    (graphs []).sched.root 5 = some 0x10000 ∧ State.reset.sched.root 5 = none ∧ (graphs []).sched.insts = [] := by decide +kernel

def node0 : Node := ⟨List.replicate 32 0, []⟩
def inst0 (prio : Nat) (st : TileSt) : Inst :=
  { gen := 0, slot := 0, accepted := 0, domain := 5, nodes := [node0], tiles := [(0, { st := st })], base := [0], prioOvr := some prio, recVa := 0,
    recDomain := 5, nkill := 0, exitor := 0 }
def readyState (prio : Nat) : State := { State.reset with sched := { State.reset.sched with insts := [inst0 prio .queued] } }

theorem wit_instances : (inst0 0 .done).over ∧ (inst0 0 .killed).over ∧ ¬ (inst0 0 .queued).over := by
  refine ⟨?_, ?_, fun h => absurd (h 0 0 (by decide +kernel) (by decide +kernel)) (by decide +kernel)⟩
  all_goals
    intro n t hn ht
    match n, hn with
    | 0, _ =>
      have : t = 0 := by
        have h1 : (inst0 0 .done).count 0 = 1 := by decide +kernel
        have h2 : (inst0 0 .killed).count 0 = 1 := by decide +kernel
        omega
      subst this
      decide +kernel

theorem wit_dispatch :
    (let s := readyState 63
     s.hk.envPend = false ∧ s.promotionsDue = [] ∧ (s.chooseUnit).any (fun u => u.tiles = [0] && u.inst = 0 && u.node = 0) = true ∧ s.canPlace 0 = true ∧
       (s.sched.insts.find? fun x => decide (x.slot = 0)) = some (inst0 63 .queued) ∧ nodeGang ((inst0 63 .queued).words 0) = 1 ∧
       (s.core 0).standby = none) ∧
    State.reset.chooseUnit.isNone = true ∧ ({ State.reset with hk := { State.reset.hk with envPend := true } } : State).hk.envPend = true ∧
    (let s : State := { readyState 3 with cores := Vector.replicate 64 { Core.reset with task := some { task0 with idem := true, prio := 40, inst := 1 } } }
     (s.chooseUnit).any (fun u => u.tiles = [0] && u.level = 3) = true ∧ s.freeCores = [] ∧ s.promotionsDue = []) ∧
    (let s : State := { readyState 3 with hk := { State.reset.hk with age := 0 } }
     s.promotionsDue.length = 1) := by decide +kernel

theorem wit_plain_node : plainNode node0.words := by unfold plainNode; decide

theorem wit_can_go : (State.reset.modCore 0 fun k => { k with task := some { task0 with idem := true, prio := 1 } }).canGoFor 0 0 { task0 with idem := true, prio := 1 } ∧
    (State.reset.modCore 0 fun k => { k with task := some task0 }).inGang 0 0 :=
  ⟨⟨by decide +kernel, by decide +kernel, by decide +kernel, by decide, by decide⟩, by decide +kernel, by decide +kernel, task0, by decide +kernel, by decide⟩

theorem wit_tasks :
    (let s := dev fun k => { k with task := some task0, ending := some (.done 7) }
     (s.core 0).task = some task0 ∧ (s.core 0).ending = some (.done 7) ∧ (s.stopTask 0 (.done 7)).taskQuiet 0 = true ∧ (s.core 0).asked = none) ∧
    (let s := dev fun k => { k with task := some { task0 with budget := 1, used := 1 } }
     s.canIssue 0 = true ∧ (s.core 0).asked = none ∧ (s.core 0).reports = [] ∧ (s.core 0).eng.cim.fails = []) ∧
    ({ task0 with tookBudget := true, grace := 0 } : Task).grace = 0 ∧
    (let k := coreAt fun k => { k with task := some task0, mode.stepPc := some 0x20 }
     k.mode.stepPc = some 0x20 ∧ k.ms.releasing = none ∧ k.ms.comm = [] ∧ k.ms.pend = []) ∧
    (let k := coreAt fun k => { k with task := some task0, mode.dbgHalt := true }
     k.mode.dbgHalt = true ∧ k.mode.stepPc = none ∧ task0.budget = 0 ∧ task0.tookBudget = false) ∧
    ((dev fun k => { k with mode.quarantined := true }).lockstep (groveOf 0) = false ∧ State.reset.me.task = none ∧ State.reset.me.standby = none) := by decide +kernel

theorem wit_quiet_boundary : (dev fun k => { k with task := some task0 }).quietBoundary 0 :=
  ⟨by decide +kernel, by decide +kernel, by decide +kernel, by decide +kernel, fun r h => (nomatch (show r ∈ ([] : List Report) from h)), Or.inr (by decide +kernel)⟩

/-! ### Witnesses: device registers, records, links, the mailbox, the windows -/

theorem wit_mode_registers :
    State.reset.hk.record.envMask.getLsbD 2 = true ∧ State.reset.hk.envelope ≠ 2 ∧ ((3 : W64).extractLsb' 0 2).toNat = 3 ∧
    (∀ d, (State.reset.core d).task = none) ∧ State.reset.hk.protLock.getLsbD 7 = State.reset.hk.protActive.getLsbD 7 ∧
    ({ State.reset.hk with protLock := 0x80 } : Hsk).protLock.getLsbD 7 ≠ State.reset.hk.protActive.getLsbD 7 ∧
    ({ State.reset.hk with pcap := 1000 } : Hsk).capNow = 1000 ∧ ({ State.reset.hk with pcap := 99 } : Hsk).capNow = 100 := by decide +kernel

/-- A bank that holds an event of a unit. -/
def bankOf (r : ErrRec) : ErrBank := recordWords r 0
def record0 : ErrRec := { event := 1, sev := 1, unit := 8, addr := 64 }

theorem wit_records : (bankOf record0).matchesRec record0 ∧ (∀ j : Fin 32, ¬ (State.reset.hk.banks.get j).matchesRec record0) ∧
    (State.reset.hk.banks.get 0).w0.getLsbD 63 = false ∧ (bankOf record0).w0.getLsbD 63 = true ∧
    ((bankOf record0).w0.extractLsb' 61 2).toNat = 1 ∧ (0x1FFFFFFFF : Nat) < 2 ^ 33 ∧
    (({ ce := true } : Block).ce = true ∧ (State.reset.mem.block 7).ce = false) := by
  refine ⟨⟨by decide, by decide, by decide, by decide, by decide, nofun⟩, fun j h => ?_, by decide +kernel⟩
  have g := h.1
  clear h
  revert j; decide +kernel

theorem wit_links :
    State.reset.mem.linkUp.getLsbD 11 = false ∧ ({ State.reset.mem with linkUp := 0x800 } : Mem).linkUp.getLsbD 11 = true ∧
    ((List.range 8).filter fun i => Nat.testBit 0x0F i).length = 4 ∧ ((List.range 8).filter fun i => Nat.testBit 0x1F i).length = 5 ∧ Nat.testBit 0x1F 4 = true := by decide

/-- The mailbox with a command of three words. -/
def mbState (op a b : W64) : State := { State.reset with hk := { State.reset.hk with mbCmd := some ⟨[op, a, b]⟩, mbstat := 1 } }

theorem wit_mailbox : (∀ op ∈ mailboxOps, ∀ a b : W64, (mbState (BitVec.ofNat 64 op) a b).mbRuns op a b) ∧ (∀ op a b, ¬ State.reset.mbRuns op a b) ∧
    (let s := mbState 0x40 0 0; s.hk.mbCmd = some ⟨[0x40, 0, 0]⟩ ∧ s.hk.ready = true ∧ 0x40 ∉ mailboxOps) ∧
    ({ State.reset.hk with ready := false } : Hsk).ready = false := by
  refine ⟨fun op h a b => ⟨Or.inl rfl, h, _, rfl, ?_, rfl, rfl⟩, ?_, by decide, rfl⟩
  · show ((BitVec.ofNat 64 op).extractLsb' 0 8).toNat = op
    clear a b
    revert op; decide
  · rintro op a b ⟨-, -, c, h, -⟩; cases h

theorem wit_mailbox_operands :
    ((0x7FBFFF80 : W64).toNat + (128 : W64).toNat = 0x7FC00000 ∧ (0x7FBFFF80 : W64).toNat % 128 = 0) ∧ (0x7FC00000 < (0x7FC00000 : W64).toNat + (128 : W64).toNat) ∧
    (State.reset.mem.set 0).ways.length = 16 ∧ State.reset.mem.gladeLine 0 = false ∧ (State.reset.mem.set (setOf 0)).admits 12 = true ∧
    (State.reset.mem.set 0).ways.getD 15 .invalid ≠ .retired ∧ (State.reset.mem.set 0).pinned < (State.reset.mem.set 0).usable - 2 ∧
    State.reset.outOfService 63 = false ∧ (State.reset.core 0).mode.stopped = false ∧ State.reset.me.eng.cim.pinned 4095 = false ∧
    mrd 0 State.reset.mem.keys 255 = 0 ∧ State.reset.hk.hbmSvc = none ∧ State.reset.hk.spareA = 2 ∧ (State.reset.hk.flash.get 1).staged = false ∧
    ({ State.reset.hk.flash.get 1 with staged := true } : Flash).staged = true ∧ State.reset.occupied 0 = false ∧
    (dev fun k => { k with task := some task0 }).occupied 0 = true ∧ State.reset.me.standby = none ∧
    ({ State.reset.hk with swapReq := [(0, 1)] } : Hsk).swapReq.find? (fun r => decide (r.1 = 0)) = some (0, 1) := by decide +kernel

theorem wit_windows :
    (64 ∈ [4, 8, 16, 32, 64] ∧ 0x6FFFC0 % 64 = 0 ∧ State.reset.sched.pinnedRange 0x6FFFC0 64 = false) ∧ 3 ∉ [4, 8, 16, 32, 64] ∧
    ({ State.reset.sched with pinned := some 0 } : Sched).pinnedRange graphTable 8 = true ∧
    (State.reset.hk.ready = true ∧ State.reset.hk.hxctx.getLsbD 8 = false ∧ ({ State.reset.hk with hxctx := 0x105 } : Hsk).hxctx.getLsbD 8 = true) ∧
    (let s := mapped 1 { State.reset with hk := { State.reset.hk with hxctx := 0x105, w1base := 1 } }
     (s.transHost 5 (1 * 2 ^ 36 + 0x100000) (.read 8) false).1 = .ok [⟨0, 0x100000, 1, 0, 8⟩]) ∧
    (0x7FFFF8 < 0x800000 ∧ 0x7FFFFC % 8 ≠ 0) ∧ State.reset.cur.flag = false ∧ ({ flag := true } : Stim).flag = true := by decide +kernel

/-! ### Witnesses: whole-machine rules -/

theorem wit_modes : ModesLegal State.reset ∧ ∃ t, step { State.reset with agenda := [.event {} .refresh] } = .next t :=
  ⟨by constructor <;> decide, _, rfl⟩

theorem wit_triggers : trigOf 1 0x208 mv = some (.add 0 mv) ∧ ∃ t, exec (.add 0 mv) State.reset = .next t := ⟨by decide, _, rfl⟩

/-! ### Witnesses: the clauses of the issue and the end of a bundle -/

/-- A bundle of a header and slot words. -/
def bundleOf (h : W64) (ws : List (BitVec 24)) : BitVec 256 :=
  (ws.zipIdx.foldl (fun (acc : BitVec 256) (w : BitVec 24 × Nat) => acc ||| (w.1.setWidth 256 <<< (64 + 24 * w.2))) (h.setWidth 256)) |||
    ((List.range (8 - ws.length)).foldl (fun (acc : BitVec 256) i => acc ||| ((0x3FF800 : BitVec 256) <<< (64 + 24 * (i + ws.length)))) 0)

/-- Core 0 at a bundle of its own in an executable page of domain 5. -/
def coded (b : BitVec 256) (f : Core → Core) : State :=
  let s := dev fun k => f { k with task := some task0, pc := 0x1000100000 }
  { s with
    sched := { s.sched with mem := [(40, 1), (42, 1)] }
    mem := { s.mem with
      hbm := [(0x10000, 1), (0x10002, 2), (0x20008, 0x5F)] ++ ((List.range 32).map fun i => (0x100000 + i, (b.extractLsb' (8 * i) 8 : Byte))).filter fun e => e.2 ≠ 0
      blocks := [(0x400, { written := true }), (0x800, { written := true }), (0x4000, { written := true })] } }

/-- Every condition of `BundleIssueStartsTheBundle` on the state itself. -/
def mayIssue (s : State) : Bool :=
  s.canIssue 0 && (s.boundary 0).isNone && !(s.core 0).mode.dbgHalt && (s.core 0).ms.releasing.isNone && (s.core 0).mode.stepPc.isNone && !(s.core 0).handleOnWay

/-- The core that issues a fetched bundle, its header and its slots. -/
def issuing (s : State) : Option (Core × Header × List SlotAt) :=
  match s.fetch 0 with
  | (.ok b, u) => match bundleCheck b with | .ok (h, all) => some (u.core 0, h, all.filter fun t => guardOf h (u.core 0).regs t.sl.gs) | .error _ => none
  | _ => none

/-- Slots of `coded` as they are fetched, with no row in the way. -/
def fetches (s : State) (p : Core → Header → List SlotAt → Bool) : Bool :=
  mayIssue s && match issuing s with
    | some (k, h, live) => k.loc.ceRows.isEmpty && k.loc.badRows.isEmpty && k.eng.cim.fresh.isEmpty && p k h live
    | none => false

theorem wit_issue_stops :
    (let s := dev fun k => { k with task := some task0, pc := 0x20 }
     mayIssue s = true ∧ (match (s.fetch 0).1 with | .trap _ => true | .ok _ => false) = true) ∧
    (let s := coded (bundleOf 0x1000000000000000 []) id
     mayIssue s = true ∧ (match (s.fetch 0).1 with | .ok b => (match bundleCheck b with | .error e => decide (e = (0x01, 8)) | .ok _ => false) | .trap _ => false) = true) ∧
    (let s := coded (bundleOf 0 [slotWord 0 0x201 3]) fun k => { k with eng.cim.fresh := [] }
     s.lockstep (groveOf 0) = false) := by decide +kernel

/-- A pop of an empty queue holds the bundle; a poisoned row over a 64-bit bus, and a pop of a stream with nothing outstanding, end it. -/
theorem wit_issue_slots :
    fetches (coded (bundleOf 0 [slotWord 0 0x7FF 0x148]) id) (fun k h live => live.any fun y => decide (y.sl.src = .port .yqPop ∧ k.eng.yq.length < k.eng.yqSpec + popsOf live .yqPop) && h.l == false) = true ∧
    fetches (coded (bundleOf 0 [slotWord 0 0x005 0x0C3]) fun k => { k with loc.acc := [(3, ⟨5, 1⟩)] })
      (fun k h live => live.any fun y => !y.isTrig && (peekVal k { core := 0, addr := k.pc, hdr := h } live y).poisoned && decide (y.i < 2)) = true ∧
    fetches (coded (bundleOf 0 [slotWord 0 0x7FF 0x150]) id) (fun k _ live => live.any fun y => (List.finRange 4).any fun u =>
      decide (y.sl.src = .port (.nmPop u) ∧ k.nmOut u < popsOf (live.filter fun t => decide (t.i ≤ y.i)) (.nmPop u))) = true ∧
    fetches (coded (bundleOf 0 [slotWord 0 0x005 0x0C3]) id) (fun k h live => !live.isEmpty && live.all fun y =>
      !(slotStalls k { core := 0, addr := k.pc, hdr := h } live y) && !(peekVal k { core := 0, addr := k.pc, hdr := h } live y).poisoned) = true := by
  decide +kernel
/-- A bundle whose slots below the last one given pass: what the clauses on the details of R212 ask of it. -/
def lowerPass (h : W64) (ws : List (BitVec 24)) : Bool :=
  let b := bundleOf h ws
  match decodeHeader (bundleHeader b) with
  | .ok y => (slotsCheck y [] 0 ((List.range (ws.length - 1)).map (bundleSlot b))).isOk && decide (bundleSlot b (ws.length - 1) = ws.getLast?.getD 0)
  | .error _ => false

theorem wit_issue_details :
    (lowerPass 0 [slotWord 0 0x005 0x6FB] = true ∧ (srcOf 0x6FB).isNone = true) ∧
    (lowerPass 0 [slotWord 0 0x005 3, slotWord 0 0x0A0 3] = true ∧ (dstOf 0x0A0).isNone = true ∧ (srcOf 3).isSome = true) ∧
    (lowerPass 0 [slotWord 0 0x005 3, slotWord 0 0x006 3, slotWord 0 0x208 3] = true ∧ (dstOf 0x208).isSome = true ∧ busReaches 2 0x208 = false) ∧
    (lowerPass 0 [slotWord 0 0x005 3, slotWord 0 0x005 3] = true ∧ busReaches 1 0x005 = true) ∧
    (lowerPass 0 [slotWord 0 0x208 3, slotWord 0 0x209 3] = true ∧ dstOf 0x208 = some (.trigger 0x208) ∧ dstOf 0x209 = some (.trigger 0x209) ∧
      trigUnit 0x208 = trigUnit 0x209) ∧
    (lowerPass 0 [slotWord 0 0x208 0x6FC] = true ∧ ((srcOf 0x6FC).any fun x => x.usesLimm) = true) ∧
    lowerPass 0 [slotWord 0 0x005 0x6FC] = true ∧
    (lowerPass 0 [slotWord 0 0x28C 3] = true ∧ needsC 0x28C = true ∧ dstOf 0x28C = some (.trigger 0x28C)) ∧
    (lowerPass 0x8000000000000000 ((List.range 7).map (fun i => slotWord 0 0x7FF (BitVec.ofNat 24 i).toNat) ++ [slotWord 0 0x7FF 0x6FB]) = true) := by decide +kernel

/-- A trap kept for the end of a bundle, and a 64-bit trigger that takes a poisoned row. -/
theorem wit_kept_traps :
    (let s : State := { State.reset with ctx := { pending := some { code := 0x03, slot := 1 } } }
     s.ctx.pending = some { code := 0x03, slot := 1 }) ∧
    (trigOf 1 0x208 mr = some (.add 0 mr) ∧ rowWide 0x208 = false ∧ (rowsAt [] ⟨5, 1⟩).live mr = true ∧ ((rowsAt [] ⟨5, 1⟩).srcVal mr).poisoned = true) := by decide

theorem wit_bundle_end_forms :
    (let s : State := { State.reset with ctx := { hdr := ⟨true, false, 0, 0, 0, 0⟩, acq := true, stall := 5, eret := true } }
     s.ctx.pending = none ∧ s.ctx.hdr.c = true ∧ s.ctx.acq = true ∧ s.ctx.eret = true) ∧
    (let s := dev fun k => { k with mode.dbgStep := true }
     s.ctx.pending = none ∧ s.me.mode.dbgStep = true) := by decide

/-- The release of a handler's bundle with C and `eret`. -/
theorem wit_eret_release :
    let r : Release := ⟨[], 0x20, true, 0, false⟩
    let s := dev fun k => { k with mode.handler := true, ms.releasing := some r }
    let k := s.core 0
    k.ms.releasing = some r ∧ r.committed = false ∧ r.eret = true ∧ k.releaseHeld r = false ∧ k.mode.handler = true ∧ k.ending = none ∧ s.cur.flag = false ∧
      k.task = none ∧ k.ms.wh = [] := by decide +kernel

/-! ### Witnesses: the clauses on floats, functions and releases -/

/-- `va0` with TA, TD and RM in the word of `.ty`, and [63:0] of A and C. -/
def vecArgsOf (ty a c : W64) : Option VecArgs :=
  (rowsAt [(0x300, .r ⟨a.setWidth 4096, 0⟩), (0x301, .r ⟨c.setWidth 4096, 0⟩), (0x303, .w ty)] ⟨5, 0⟩).vecArgs 0

theorem wit_float_forms :
    (vecArgsOf 0x6008 6 0).any (fun x => x.ta = .f32 && x.ta.isF && x.ta.fmt.isSome && decide (x.rm ≤ 3) && decide (2 ^ (x.pa.extractLsb' 0 4).toNat ≤ x.ta.lanes)) = true ∧
    (vecArgsOf 0x0809 0 0).any (fun x => x.td = some .f32 && (x.ta = .f16 || x.ta = .bf16)) = true ∧
    ([0x080D, 0x080E, 0x080F, 0x0810] : List W64).all (fun t => (vecArgsOf t 0 0).any (fun x => x.td = some .f32 && [Ty.e4m3, .e5m2, .e3m2, .e2m3].contains x.ta)) = true ∧
    (vecArgsOf 0x6008 2 0).any (fun x => [Ty.s8, .s16, .s32, .f16, .bf16, .f32].contains x.ta && decide (2 ≤ (x.pa.extractLsb' 0 4).toNat)) = true ∧
    (vecArgsOf 0x8A08 0 0x100).any (fun x => x.ta.isValue && x.td.any fun d => d.isTarget && partOk x d) = true ∧
    (vecArgsOf 0x8004 0 0x305).any (fun x => x.ta.isI && x.rm = 4 && x.td.any fun d => d.isI && partOk x d) = true ∧
    (vecArgsOf 0x0D08 0 0x303).any (fun x => x.ta.isTarget && decide (x.rm ≤ 3) && x.td.any fun d => d.isTarget && partOk x d) = true := by decide +kernel

theorem wit_complex_forms :
    ((List.range 32).filter fun t => (vecArgsOf (BitVec.ofNat 64 t) 0 0).any fun x => x.ta = .c16 || (x.ta = .cbf16 && decide (x.rm ≤ 3))).length = 2 := by decide +kernel

theorem wit_function_inputs :
    (f32Ordinary 0x3F800000 ∧ f32Ordinary 0xFF7FFFFF ∧ f32Ordinary 0x00800000) ∧ f32Halves 0x3F800000 2 ∧ f32Halves 0xBF000000 1 ∧ f32Halves 0x40200000 5 ∧
    (f32Neg 0x3F800000 = false ∧ f32Sig 0x40000000 = 2 ^ 23 ∧ f32Exp 0x43000000 = 7) ∧
    (f32Passes 0 0x3F800000 ∧ f32Passes 0x3F800000 0xFFFFFFFF) := by
  unfold f32Ordinary f32Halves f32Passes f32Ordinary; decide +kernel

/-- A read of the group mask behind a signal of its own bundle that waits for the release. -/
theorem wit_group_read :
    (let e : CEff := { id := 0, org := {}, what := .signal (.join 7) }
     let k := coreAt fun k => { k with ms.pend := [pending (.loc 7) 0 none], ms.releasing := some ⟨[e], 0, false, 0, false⟩ }
     k.ms.pend[0]? = some (pending (.loc 7) 0 none) ∧ e ∈ (k.ms.releasing.getD ⟨[], 0, false, 0, false⟩).effs ∧ e.id < (pending (.loc 7) 0 none).id) ∧
    (let w : Walk := ⟨1, {}, 0xFFFFFFFFFF8000, 8, .load, 0⟩
     (State.reset.transCore 0 State.reset.me.domain w.kind true w.ea w.n).1 = .ok [⟨14, 0x7FC08000, 0, 0, 8⟩]) := by decide +kernel

/-- An effect withheld by a core, and one of a release. -/
def withheld (place : Place) (what : WhKind) : Withheld := ⟨1, {}, place, 0, what⟩
def effect (place : Place) (what : CEffKind) : CEff := { id := 1, org := {}, place := place, what := what }

theorem wit_commits :
    (let k := coreAt fun k => { k with ms.releasing := some (release0 false), ms.wh := [withheld (.loc 0x3FFFF8) (.store (List.replicate 8 1) true)] }
     k.ms.releasing = some (release0 false) ∧ k.releaseHeld (release0 false) = false ∧ (release0 false).eret = false ∧ k.ms.pend = []) ∧
    (0x3FFFF8 + (List.replicate 8 (1 : Byte)).length ≤ 0x400000) ∧
    (let g : Seg := ⟨0, 0x38, 1, 0, 8⟩; g.pa % 64 + g.len ≤ 64 ∧ (List.replicate 8 (1 : Byte)).length = g.len) ∧
    (let g : Seg := ⟨0, 0x78, 0, 0, 8⟩
     g.pa % 128 + g.len ≤ 128 ∧ State.reset.me.l1Takes State.reset.me.ms.comm g.home (g.pa / 128) = true ∧
       (coreAt fun k => { k with ms.comm := [item (.glob [g]) (.store [1] false)] }).l1Takes [item (.glob [g]) (.store [1] false)] g.home (g.pa / 128) = false) ∧
    (let g : Seg := ⟨0, 0xF8, 4, 0, 8⟩; g.pa % 256 + g.len ≤ 256) ∧
    (let segs : List Seg := [⟨1, 0, 0, 0, 8⟩]
     (segLines segs).all (fun x => (State.reset.me.ms.l1.find? (lineIs x.1 x.2)).isNone) = true ∧ State.reset.me.ms.comm = []) ∧
    (let k := coreAt fun k => { k with eng.carafes := k.eng.carafes.set 15 { act := true, n := 4, nheld := 1 } }
     0 < (k.eng.carafes.get 15).n) ∧
    ((Signal.mpload 0 0 0 31).tokens = some (0, 31, []) ∧ (Signal.join 7).tokens = none) := by decide +kernel

/-- A store of the interval that a class 2 store of the same block joins, and one whose block an atomic between them keeps apart. -/
theorem wit_merges :
    let g : Seg := ⟨0, 0x08, 2, 0, 8⟩
    let x : Comm := { item (.glob [⟨0, 0, 2, 0, 8⟩]) (.store (List.replicate 8 1) false) with batch := 7 }
    (∃ h hs old q, x.place = .glob (h :: hs) ∧ x.what = .store old q ∧ x.batch = 7 ∧ h.cls = 2 ∧ h.home = g.home ∧ h.key = g.key ∧ h.pa / 64 = g.pa / 64) ∧
    (coreAt fun k => { k with ms.comm := [x] }).ms.comm = [] ++ [x] ∧ g.pa % 64 + g.len ≤ 64 :=
  ⟨⟨_, _, _, _, rfl, rfl, rfl, rfl, rfl, rfl, rfl⟩, rfl, by decide⟩

/-! ### Witnesses: the clauses on lines, stores through Canopy and fills -/

theorem wit_lines_home_zero :
    (State.reset.mem.keyLoaded 0 = true ∧ (1 : Nat) ≠ 3) ∧ State.reset.mem.gladeLine (0x7FC08000 / 128) = true ∧
    (let m : Mem := { State.reset.mem with blocks := [(2 * 5, { written := true, integ := some 7 })] }
     (m.block (2 * 5)).integ.isSome = true ∧ m.beyond 5 = false ∧ m.fullKey ((m.block (2 * 5)).key % 256) = (m.block (2 * 5)).key) ∧
    (let w := item (.glob [⟨0, 0, 0, 0, 8⟩]) (.store [1] false); [w].any (fun d => d.isL1) = true) := by decide +kernel

theorem wit_units : oneUnit [⟨0, 0x108, 1, 0, 8⟩, ⟨0, 0x138, 1, 0, 8⟩] 0 0 1 128 2 ∧ oneUnit [⟨14, 0x7FC08000, 1, 0, 8⟩] 14 0 1 128 (0x7FC08000 / 128) ∧
    oneUnit [⟨0, 0x1F8, 4, 0, 8⟩] 0 0 4 256 1 := by unfold oneUnit; decide

theorem wit_stores_through_canopy :
    (let g : Seg := ⟨0, 0x40, 0, 0, 8⟩
     let w := item (.glob [g]) (.store (List.replicate 8 1) false)
     w.isL1 = true ∧ (coreAt fun k => { k with ms.comm := [w] }).l1Takes [] g.home (g.pa / 128) = true ∧ g.pa % 128 + 8 ≤ 128) ∧
    (let g : Seg := ⟨0, 0x40, 1, 0, 8⟩
     let w := item (.glob [g]) (.amo .add 1 0)
     w.returns = false ∧ w.left = true ∧ g.len = AmoOp.add.width ∧ (State.reset.mem.readSegs [g]).bad = false) ∧
    (let g : Seg := ⟨0, 0x140, 4, 0, 8⟩
     (List.replicate 8 (1 : Byte)).length = g.len ∧ (item (.glob [g]) (.store (List.replicate 8 1) false)).isL1 = false) := by decide +kernel

/-- Core 0 with a fill of macro 5 at the head of its queue, from a descriptor at offset 0 given by its bytes. -/
def filling (bytes : List (Nat × Byte)) : State := dev fun k => { k with loc.scratch := bytes, eng.cim.fills := [fillOf 5 0] }

/-- The descriptor that the fill reads. -/
def descOf (s : State) : List W64 := (List.range 8).map fun j => (s.core 0).scratchWord (8 * j)

theorem wit_fills :
    (let s := filling [(18, 1)]
     let d := FillDesc.ofWords (descOf s)
     (s.core 0).eng.cim.out = none ∧ (fillOf 5 0).got = [] ∧ fillMalformed (descOf s) {} = false ∧ d.stv = false ∧ d.kind = 0 ∧ d.img = false ∧ d.kd = 1 ∧ d.nout = 1 ∧
       ({} : CimCfg).wfmt = 0 ∧ ({} : CimCfg).wbs = 0) ∧
    (let s := filling [(7, 0x20)]
     fillMalformed (descOf s) {} = false ∧ (FillDesc.ofWords (descOf s)).kind = 2) ∧
    (let s := filling [(7, 0x20), (42, 0x80 >>> 6), (47, 0x80)]
     (FillDesc.ofWords (descOf s)).stv = true ∧ (FillDesc.ofWords (descOf s)).stat = 0x20000 ∧ (FillDesc.ofWords (descOf s)).stat % 16 = 0) ∧
    fillMalformed (descOf (filling [(7, 0x30)])) {} = true ∧ (1 : Nat) % 64 ≠ 0 := by decide +kernel

theorem wit_fill_scratch : (State.reset.core 0).scratchOk 0 0 0 64 ∧ (State.reset.core 0).scratchOk 0 1 0x20000 16 ∧ (State.reset.core 0).scratchOk 0 0 (0 + 0 * 1) 1 ∧
    ¬ (State.reset.core 0).scratchOk 0 0 0x400000 64 :=
  ⟨⟨by decide, fun _ _ => rfl⟩, ⟨by decide, fun _ _ => rfl⟩, ⟨by decide, fun _ _ => rfl⟩, fun h => absurd h.1 (by decide)⟩

/-- A call that would change the mode of a macro of the standby, and one whose fills and standby are out of its way. -/
theorem wit_standby_holds :
    (let b : Standby := ⟨0, 0, 0, 0, 5, 4, 2, []⟩
     let k := coreAt fun k => { k with standby := some b, eng.cim.macros := [(5, { pendScratch := true })], eng.cim.queue := [call0 none []] }
     k.standby = some b ∧ b.macroFirst ≤ 5 ∧ 5 < b.macroFirst + b.macroCount ∧ (k.eng.cim.macro' 5).pendScratch ≠ (k.eng.cim.macro' 5).scratch ∧
       k.eng.cim.fills = [] ∧ mwf {} k.eng.cim.macros = true) ∧
    (coreAt fun k => { k with eng.cim.queue := [call0 none [31]], eng.tokens := k.eng.tokens.set 31 3 }).waitFailed [31] ∧
    (coreAt fun k => { k with eng.cim.queue := [call0 none [31]], eng.tokens := k.eng.tokens.set 31 1 }).waits [31] := by
  unfold Core.waits Core.waitFailed; decide +kernel

/-! ### Witnesses: the clauses on rings, near commands and collectives -/

theorem wit_ring_faults :
    (let s : State := { queued with mem := { queued.mem with blocks := [(0x400, { written := true }), (0x800, { written := true }), (0xC002, { written := true, poison := true })] } }
     s.engineFree 64 = true ∧ s.nextQueue 64 = some 0 ∧ (s.ringSegs ⟨0x1000300000, 5, 64, 16⟩ 0x80 64).1 = some [⟨0, 0x300080, 1, 0, 64⟩] ∧
       (s.mem.readSegs [⟨0, 0x300080, 1, 0, 64⟩]).bad = true) ∧
    (let s := mapped 3 queued; (s.ringSegs ⟨0x1000300000, 5, 64, 16⟩ 0x80 64).1.isNone = true ∧ (0xFFFFFFFF + 1) % 2 ^ 32 = 0) := by decide +kernel

/-- A block of home 0 in three conditions, and a segment that crosses into the next one. -/
theorem wit_near_blocks :
    let g : Seg := ⟨0, 0x10003C, 3, 0, 4⟩
    let at_ := fun (b : Block) => ({ State.reset with mem := { State.reset.mem with blocks := [(0x4000, b)] } } : State)
    (at_ {}).oneBlock g ∧ (at_ { ce := true, written := true }).oneBlock g ∧ (at_ { poison := true, written := true }).oneBlock g ∧
      ((at_ { poison := true, written := true }).mem.block (g.pa / 64)).poison = true ∧ 64 < (Seg.mk 0 0x10003C 3 0 8).pa % 64 + 8 ∧
      g.len % nmElem (nearRow 0x0200000000000000 0x1000100000 0).data = 0 := by
  unfold State.oneBlock; decide +kernel

theorem wit_near_forms :
    (let r := (nearRow 0x0200000000000000 0x1000100000 0).data
     nmEf r ≤ 1 ∧ (List.replicate (64 * nmLen r * nmElem r) ((0 : Byte), false)).length = 64 * nmLen r * nmElem r) ∧
    (f32Finite 0x7F7FFFFF ∧ f32Finite 0x80000000 ∧ ¬ f32Finite 0x7F800000 ∧ ¬ f32Finite 0xFFC00000) ∧
    (let r := (nearRow 0x0200000000000000 0x1000100000 0).data
     let k := coreAt fun k => { k with eng.nrfCmds := [(1, 0, r, [⟨0, 0x10003C, 3, 0, 4⟩, ⟨0, 0x100040, 3, 0, 4⟩])], eng.nfences := [(some 31, [1], false)] }
     k.nearReady 1 [⟨0, 0x10003C, 3, 0, 4⟩, ⟨0, 0x100040, 3, 0, 4⟩] = true ∧ (k.eng.nfences.any fun f => f.2.1.contains 1) = true) := by
  unfold f32Finite; decide +kernel

/-- Collectives of the three kinds: a sum of one `f32` row by core 0 alone, and a gather of cores 0 and 1. -/
theorem wit_collective_kinds :
    (let r : CollReq := { bcast0 with kind := 0, a := 0x80000001000 }
     let s := collState r
     r.kind = 0 ∧ r.ty = 0x08 ∧ r.op = 0 ∧ r.mask.getLsbD r.core.val = true ∧ s.sched.firstColl 0 1 = some r ∧ r.waits = [] ∧ r.got = []) ∧
    (let r : CollReq := { bcast0 with kind := 2, mask := 3 }
     let q : CollReq := { r with core := 1 }
     let s : State := { State.reset with sched := { State.reset.sched with colls := [r, q] } }
     s.sched.firstColl 0 3 = some r ∧ s.sched.firstColl 1 3 = some q ∧ r.outRows = 2 ∧ r.dst + 512 * r.outRows ≤ 0x400000 ∧
       s.sourceBad r 0 = false ∧ ((List.finRange 64).filter fun p => r.mask.getLsbD p.val) = [0, 1]) ∧
    ((([0x3F800000, 0x80000000] : List (BitVec 32)).any fun x => laneNan .f32 x) = false ∧ laneNan .f32 (0x7FC00001 : BitVec 32) = true) := by decide +kernel

/-! ### Witnesses: the clauses on standbys, pairs, resets and windows -/

/-- A tile of the instance of core 0's own task that waits, and a core that holds the tile before it. -/
theorem wit_standby_prepare :
    let s : State := { (readyState 63) with cores := (readyState 63).cores.set 0 { Core.reset with task := some task0 } }
    (s.core 0).task = some task0 ∧ (s.chooseUnit).any (fun u => u.inst = 0 && u.tiles = [0] && decide (u.tiles.length ≤ s.freeCores.length + 1)) = true ∧
      (s.sched.insts.find? fun y => decide (y.slot = task0.inst)) = some (inst0 63 .queued) ∧ (inst0 63 .queued).domain = task0.domain ∧
      ((inst0 63 .queued).tile 0 0).st = .queued ∧ ((inst0 63 .queued).words 0).getD 13 0 = 0 ∧ (((inst0 63 .queued).words 0).getD 6 0).getLsbD 63 = false ∧
      (((inst0 63 .queued).words 0).getD 11 0).extractLsb' 48 11 = 0 ∧ (((inst0 63 .queued).words 0).getD 11 0).extractLsb' 24 8 = 0 := by decide +kernel

/-- A grove to be paired, and one to be unpaired whose odd core follows what the even one wrote. -/
theorem wit_pairs :
    (let s : State := { State.reset with hk := { State.reset.hk with protLock := 1 } }
     s.hk.protLock.getLsbD 0 = true ∧ s.hk.protLock.getLsbD 0 ≠ s.hk.protActive.getLsbD 0 ∧ (∀ d, (s.core d).task = none) ∧ groveOf 1 = 0) ∧
    (let s : State := { dev (fun k => { k with loc.paired := some ([(0x100, 8)], [3]) }) with hk := { State.reset.hk with protActive := 1 } }
     s.hk.protLock.getLsbD 0 = false ∧ s.hk.protLock.getLsbD 0 ≠ s.hk.protActive.getLsbD 0 ∧
       ((s.core 0).loc.paired.getD ([], [])).1.any (fun p => decide (p.1 ≤ 0x107) && decide (0x107 < p.1 + p.2)) = true ∧
       ((s.core 0).loc.paired.getD ([], [])).2.contains 3 = true) ∧
    (let s : State := { State.reset with hk := { State.reset.hk with protActive := 1, swapReq := [(1, 0)] }, cur := { core := 1 } }
     s.hk.swapReq.find? (fun r => decide (r.1 = 1)) = some (1, 0) ∧ s.occupied 1 = false ∧ (s.core 1).standby = none ∧ s.lockstep (groveOf 1) = true ∧
       s.pairCore 1 = 0 ∧ s.outOfService 1 = false) := by decide +kernel

/-- Slots as delivered verify whatever the signatures: the active one boots, or the other where it is bad. -/
theorem wit_boots :
    let f : Flash := State.reset.hk.flash.get 2
    f.activeSlot = none ∧ f.otherSlot = none ∧ f.Boots recordVerifies false { f with used := f.active, image := none } ∧
      f.Boots recordVerifies true { f with used := !f.active, image := none } :=
  ⟨rfl, rfl, .inl ⟨rfl, rfl, rfl⟩, .inr ⟨.inl rfl, rfl, rfl⟩⟩

/-- A pair whose active slot is bad and whose other one fails verification: which bytes fail is free, so that the failure is given. -/
theorem wit_dead (f : Flash) (ok : Option (List Byte) → Bool) (h : ok f.otherSlot = false) : f.Dead ok true := ⟨.inl rfl, h⟩

theorem wit_reset_ends :
    (∀ d : CoreId, (brokenOf ((List.range 8).map fun i => (d.val, i)) d).length ≤ 8) ∧ 8 < (brokenOf ((List.range 9).map fun i => (63, i)) 63).length ∧
    (brokenCores ((List.range 9).map fun i => (63, i)) 1).length = 1 ∧ (brokenCores [] 0).length = 0 ∧
    ((5 : W64).extractLsb' 0 3).toNat ≤ 5 ∧ 5 < ((6 : W64).extractLsb' 0 3).toNat := by decide +kernel

theorem wit_window_requests :
    reqMisaligned 0x1000100004 (.fetchAdd 8 1) = true ∧ reqMisaligned 0x1000100004 (.fetchAdd 4 1) = false ∧ reqMisaligned 3 (.read 8) = false ∧
    (0x1000100004 % 8 ≠ 0 ∧ 0x1000100008 % 8 = 0) ∧
    (let s := mapped 4 { State.reset with hk := { State.reset.hk with hxctx := 0x105, w2base := 1 } }
     s.hk.ready = true ∧ s.hk.hxctx.getLsbD 8 = true ∧ (s.transHost 5 (1 * 2 ^ 36 + 0x100000) (.read 8) true).1 = .ok [⟨0, 0x100000, 4, 0, 8⟩] ∧
       (match (s.transHost 5 (1 * 2 ^ 36 + 0x100000) (.read 8) false).1 with | .error e => decide (e = (0x12, 0x3B)) || decide (e.1 = 0x13) | .ok _ => false) = true) ∧
    (let s := mapped 1 { State.reset with mem := { State.reset.mem with linkUp := 1 }, hk := { State.reset.hk with pxctx := State.reset.hk.pxctx.set 0 0x105 } }
     s.mem.linkUp.getLsbD 0 = true ∧ (s.hk.pxctx.get 0).getLsbD 8 = true ∧ (State.reset.hk.pxctx.get 0).getLsbD 8 = false) := by decide +kernel

/-- Another core of the grove that waits for a walk of a page, and one of another grove. -/
theorem wit_other_cores :
    (1 : CoreId) ≠ State.reset.ctx.core ∧ groveOf 1 = groveOf State.reset.ctx.core ∧ groveOf 8 ≠ groveOf State.reset.ctx.core ∧
    ((State.reset.modCore 1 fun k => { k with ms.walks := [missOf 1 0] }).core 1).ms.walks = [missOf 1 0] := by decide +kernel

/-! ### Steps that the manual works out -/

/-- The values under way on core 0 after a trigger. -/
def underWay (o : Out) : List Val := match o with | .next t => (t.core 0).tr.inflight.map Inflight.val | _ => []

/-- The example of R250: -7 by 0, and the remainder of the same pair. -/
theorem test_divide_by_zero :
    underWay (exec (.div 0 mv) (trigAt [(0x200, 0xFFFFFFFFFFFFFFF9)] 0)) = [.w 0xFFFFFFFFFFFFFFFF] ∧
    underWay (exec (.rem 1 mv) (trigAt [(0x240, 0xFFFFFFFFFFFFFFF9)] 0)) = [.w 0xFFFFFFFFFFFFFFF9] := by decide +kernel

/-- The same example: -7 + 2. -/
theorem test_add_signed : underWay (exec (.add 0 mv) (trigAt [(0x200, 0xFFFFFFFFFFFFFFF9)] 2)) = [.w 0xFFFFFFFFFFFFFFFB] := by decide +kernel

/-- R394: `TVEC.ENTRY` is `0x7_FFFF_FFFF_F800` at reset, in bits [55:5]. -/
theorem test_tvec_at_reset : underWay (exec (.csrr mv) (trigAt [] 0x010)) = [.w (0x7FFFFFFFFF800 <<< 5)] := by decide +kernel

/-- The refined reciprocal of the special-function chapter. -/
theorem test_reciprocal : sfRcp 0x3F99999A = 0x3F5555E3 ∧ sfRcpStep 0x3F99999A 0x3F5555E3 = 0x3F555555 ∧ sfRcp 0x80000000 = 0xFF800000 ∧
    sfRcp 0x000116C2 = 0x7F800000 ∧ sfRcp 0x3F800000 = 0x3F800000 ∧ sfRcpStep 0x3F800000 0x3F800000 = 0x3F800000 := by decide +kernel

/-- The example of R275: a lane of `0x3F80_2000` converted to `bf16` to nearest. -/
theorem test_convert_to_bf16 : (underWay (exec (.vcvt 0 mr) (rowsAt [(0x303, .w 0x0A08)] ⟨0x3F802000, 0⟩))).map (fun v => v.row.data.extractLsb' 0 16) = [0x3F80] := by
  decide +kernel

/-- The gather of the example of R301. -/
theorem test_gather :
    (underWay (exec (.vldg 0 mr) (dev fun k => { k with
      tr.latches := [(0x440, .w 0x10000)]
      loc.acc := [(3, ⟨(BitVec.allOnes 4096 <<< 160) ||| 0x00000001_00000000_00000080_00000002_00000000, 0⟩)]
      loc.scratch := [(0x10000, 0x11), (0x10001, 0x11), (0x10002, 0x11), (0x10003, 0x11), (0x10004, 0x22), (0x10005, 0x22), (0x10006, 0x22), (0x10007, 0x22)] ++
        [(0x10008, 0x33), (0x10009, 0x33), (0x1000A, 0x33), (0x1000B, 0x33), (0x10200, 0x44), (0x10201, 0x44), (0x10202, 0x44), (0x10203, 0x44)] }))).map
        (fun v => v.row.data) = [0x22222222_11111111_44444444_33333333_11111111] := by decide +kernel

/-- The 64 MiB leaf of the example of R39: a load, a fetch, and a load of domain 6. -/
def leafState : State := { State.reset with
  sched := { State.reset.sched with mem := [(40, 1), (42, 0x40), (48, 1), (50, 0x40)] }
  mem := { State.reset.mem with
    hbm := [(0x400008, 1), (0x40000A, 0x41), (0x410010, 1), (0x410012, 0x42), (0x420018, 0x57), (0x42001B, 0x24), (0x42001C, 1)]
    blocks := [(0x10000, { written := true }), (0x10400, { written := true }), (0x10800, { written := true })] } }

theorem test_walk :
    (leafState.transCore 0 5 .load true 0x40200C123456 1).1 = .ok [⟨0, 0x124123456, 0, 0, 1⟩] ∧
    (leafState.transCore 0 5 .fetch true 0x40200C123456 1).1 = .fault 0x13 0x1E 0x40200C123456 ∧
    (leafState.transCore 0 6 .load true 0x40200C123456 1).1 = .fault 0x12 0x06 0x40200C123456 := by decide +kernel

/-- The refused allocation of the Canopy chapter: the sets of its four lines. -/
theorem test_canopy_sets : [0x2000, 0x2001, 0x2002, 0x2003].map Machine.setOf = [0x40100, 0x48100, 0x50100, 0x58100] := by decide

/-- The lent buffer of the ownership chapter: its handle. -/
theorem test_handle : handleOf 9 0x11 5 = 0x91105 := by decide

/-- The promotions of the number-format chapter: into an INT32 element, without and with saturation. -/
theorem test_promotion :
    promoteInt 32 0x64 ⟨0, 0, 0, 0, -24, {}, 0⟩ = (0x4C, 0) ∧ promoteInt 32 0x7FFFFFF0 ⟨0, 0, 0, 0, 40, {}, 0⟩ = (0x7FFFFFFF, 0x09) := by decide +kernel

/-- The denominator's maximum in the Percolator chapter: 3.0, 2.0 and 2.5. -/
theorem test_reduce_max : iredLane 1 (fmtF32.decode 0) [0x40400000, 0x40000000, 0x40200000] = (0x40400000, 0) := by decide +kernel

/-- A routine that has nothing to do ends: the step of R341 through the fetch interface. -/
theorem test_step_of_a_step : (match step (State.reset.withFetchWord 64 0) with | .next t => (t.core 0).eng.cim.run.isNone | _ => false) = true := by decide +kernel

/-- A slot word placed where the next step takes it runs: `x3 to sa0.a` has no trigger, `x4 to sa0.div` has. -/
theorem test_step_of_a_slot : (match step (State.reset.withFetchWord 24 0x107804) with | .next t => (t.core 0).tr.inflight.length | _ => 0) = 1 := by decide +kernel

end Sys2Proof.Tests
end

section
/-! The device at reset, snapshots and rollbacks, and the entry into a trap (O60, O13, O15, O12). -/

namespace Sys2Proof.Scope

open Sys2Proof Sys2Proof.Machine

/-! ### The device at reset (R419) -/

theorem reset_core (c : CoreId) : State.reset.core c = Core.reset := by
  simp [State.core, State.reset, Vector.get_eq_getElem]

theorem reset_modesLegal : ModesLegal State.reset :=
  ⟨by decide, by decide, by decide, by decide, by decide⟩

/-- In the envelope of reset nothing is parked, and no core is paired, quarantined or offline (R22, R401). -/
theorem reset_absent (c : CoreId) : State.reset.absent c = false := by
  have lockstep : ∀ g, State.reset.lockstep g = false := fun g => by simp [State.lockstep, State.reset, Hsk.reset]
  have mode : ∀ d, (State.reset.core d).mode = Mode.reset := fun d => by rw [reset_core]; rfl
  have envelope : State.reset.hk.envelope = 0 := rfl
  simp [State.absent, State.quarantined, lockstep, mode, envelope, Config.parkedIn, Mode.reset]

/-- Settles O60: every value is the one that the reset state lists, the cores all being `Core.reset`. -/
theorem resetLeavesTheDeviceReady : Obligations.ResetLeavesTheDeviceReady := by
  unfold Obligations.ResetLeavesTheDeviceReady
  refine ⟨reset_modesLegal, State.reset_mem_wf, rfl, rfl, rfl, rfl, rfl, rfl, rfl, rfl, rfl, rfl, rfl, ?ports, rfl, rfl, rfl, rfl, ?cores,
    fun _ => rfl, reset_absent 0⟩
  case ports =>
    intro n
    simp [State.reset, Hsk.reset, Vector.get_eq_getElem]
  case cores =>
    intro c
    rw [reset_core]
    exact ⟨rfl, rfl, rfl, rfl, rfl, rfl, rfl⟩

/-! ### Snapshots (R13, R60) -/

theorem vRow_ofNat (k : Core) (i : Nat) (h : i < 64) : k.vRow (BitVec.ofNat 6 i) = (k.ctrl.awb.toNat + i) % 8192 := by
  simp [Core.vRow, Nat.mod_eq_of_lt h]

/-- The window is 64 rows on end of 8192, so that no row occurs twice in it (R58). -/
theorem vRow_injective (k : Core) (i j : Nat) (hi : i < 64) (hj : j < 64) (h : k.vRow (BitVec.ofNat 6 i) = k.vRow (BitVec.ofNat 6 j)) : i = j := by
  rw [vRow_ofNat k i hi, vRow_ofNat k j hj] at h
  omega

theorem takeSnapshot_rows (k : Core) (resume : W64) :
    (k.takeSnapshot resume).snap.rows = (List.range 64).map fun i => (k.vRow (BitVec.ofNat 6 i), k.rowAt (k.vRow (BitVec.ofNat 6 i))) := rfl

theorem takeSnapshot_rows_nodup (k : Core) (resume : W64) : ((k.takeSnapshot resume).snap.rows.map Prod.fst).Nodup := by
  rw [takeSnapshot_rows, List.map_map]
  refine List.Nodup.map_on (fun i hi j hj h => ?_) List.nodup_range
  exact vRow_injective k i j (List.mem_range.1 hi) (List.mem_range.1 hj) h

theorem mem_takeSnapshot_rows (k : Core) (resume : W64) (i : BitVec 6) : (k.vRow i, k.rowAt (k.vRow i)) ∈ (k.takeSnapshot resume).snap.rows := by
  rw [takeSnapshot_rows]
  exact List.mem_map.2 ⟨i.toNat, List.mem_range.2 i.isLt, by simp⟩

/-! ### The rows of a rollback (R60, R393) -/

/-- One row of the snapshot put back where its written flag is set. -/
def putBack (k : Core) (rv : Nat × RowT) : Core := if k.loc.written.contains rv.1 then k.setRow rv.1 rv.2 else k

@[simp] theorem putBack_written (k : Core) (rv : Nat × RowT) : (putBack k rv).loc.written = k.loc.written := by
  unfold putBack; split <;> rfl

/-- Putting one row back changes that row, and only where it was written. -/
theorem mrd_putBack (k : Core) (rv : Nat × RowT) (r : Nat) :
    mrd RowT.zero (putBack k rv).loc.acc r = if r = rv.1 ∧ r ∈ k.loc.written then rv.2 else mrd RowT.zero k.loc.acc r := by
  obtain ⟨q, v⟩ := rv
  unfold putBack
  by_cases hq : q ∈ k.loc.written
  · by_cases hr : r = q
    · subst hr; simp [hq, Core.setRow]
    · simp [hq, hr, Core.setRow, mrd_mwr_other _ _ _ _ _ _ hr]
  · have : ¬ (r = q ∧ r ∈ k.loc.written) := fun ⟨e, h⟩ => hq (e ▸ h)
    simp [hq, this]

/-- A row that was not written, or that is in no pair of the list, keeps its value. -/
theorem mrd_foldl_putBack_other (l : List (Nat × RowT)) (k : Core) (r : Nat) (h : r ∉ k.loc.written ∨ r ∉ l.map Prod.fst) :
    mrd RowT.zero (l.foldl putBack k).loc.acc r = mrd RowT.zero k.loc.acc r := by
  induction l generalizing k with
  | nil => rfl
  | cons p l ih =>
    simp only [List.map_cons, List.mem_cons, not_or] at h
    rw [List.foldl_cons, ih _ (by rw [putBack_written]; exact h.imp_right And.right), mrd_putBack, if_neg]
    rintro ⟨rfl, hw⟩
    exact h.elim (fun h => h hw) fun h => h.1 rfl

/-- A written row that a list of distinct rows holds gets its value. -/
theorem mrd_foldl_putBack (l : List (Nat × RowT)) (k : Core) (r : Nat) (v : RowT) (hl : (l.map Prod.fst).Nodup) (hr : (r, v) ∈ l)
    (hw : r ∈ k.loc.written) : mrd RowT.zero (l.foldl putBack k).loc.acc r = v := by
  induction l generalizing k with
  | nil => simp at hr
  | cons p l ih =>
    rw [List.map_cons, List.nodup_cons] at hl
    rw [List.foldl_cons]
    rcases List.mem_cons.1 hr with rfl | hr
    · rw [mrd_foldl_putBack_other _ _ _ (.inr hl.1), mrd_putBack, if_pos ⟨rfl, hw⟩]
    · exact ih _ hl.2 hr (by rwa [putBack_written])

/-- Settles O13: the window has no row twice, and the fold over the rows of the snapshot gives each written row its value. -/
theorem snapshotsHoldTheWindowAndRollbackRestoresIt : Obligations.SnapshotsHoldTheWindowAndRollbackRestoresIt := by
  unfold Obligations.SnapshotsHoldTheWindowAndRollbackRestoresIt
  constructor
  · intro k resume
    exact ⟨rfl, rfl, takeSnapshot_rows_nodup k resume, rfl, mem_takeSnapshot_rows k resume, by simp [takeSnapshot_rows],
      rfl, rfl, rfl, rfl, rfl⟩
  · intro k ctr hn
    refine ⟨fun r v hr hw => ?_, fun r h => ?_, rfl, rfl, Core.rollback_regs k ctr, Core.rollback_pc k ctr⟩
    · exact mrd_foldl_putBack _ k r v hn hr hw
    · exact mrd_foldl_putBack_other _ k r h

/-! ### A raised trap cancels its bundle (R10) -/

/-- One result lands, or stays under way, in the walk over them (R213). -/
def landOne (t : Transport) (f : Inflight) : Transport :=
  if f.wait = 0 then
    let v := f.landed (mrd (.w 0) t.ports f.port)
    { t with
      ports := mwr (.w 0) t.ports f.port v
      portLog := (f.port, v) :: t.portLog
      inflight := t.inflight.filter fun g => g.port ≠ f.port }
  else { t with inflight := t.inflight ++ [f] }

theorem foldl_landOne_keeps (l : List Inflight) (t : Transport) :
    (l.foldl landOne t).latches = t.latches ∧ (l.foldl landOne t).tiles = t.tiles := by
  induction l generalizing t with
  | nil => exact ⟨rfl, rfl⟩
  | cons f l ih =>
    rw [List.foldl_cons, (ih _).1, (ih _).2]
    unfold landOne
    split <;> exact ⟨rfl, rfl⟩

/-- A port that no due result goes to keeps what it holds. -/
theorem foldl_landOne_port (l : List Inflight) (t : Transport) (p : Nat) (h : ∀ f ∈ l, f.port = p → f.wait ≠ 0) :
    mrd (.w 0) (l.foldl landOne t).ports p = mrd (.w 0) t.ports p := by
  induction l generalizing t with
  | nil => rfl
  | cons f l ih =>
    rw [List.foldl_cons, ih _ fun g hg => h g (List.mem_cons_of_mem _ hg)]
    unfold landOne
    split
    · next h0 =>
      exact mrd_mwr_other _ _ _ _ _ _ fun e => h f List.mem_cons_self e.symm h0
    · rfl

theorem tick_latches (k : Core) : k.tick.tr.latches = k.tr.latches := (foldl_landOne_keeps _ _).1

theorem tick_tiles (k : Core) : k.tick.tr.tiles = k.tr.tiles := (foldl_landOne_keeps _ _).2

/-- In a cycle a port changes only where a result with a bound of at most one goes to it. -/
theorem tick_port (k : Core) (p : Nat) (h : ∀ f ∈ k.tr.inflight, f.port = p → 1 < f.wait) :
    mrd (.w 0) k.tick.tr.ports p = mrd (.w 0) k.tr.ports p := by
  refine foldl_landOne_port _ _ p fun f hf hp => ?_
  obtain ⟨g, hg, rfl⟩ := List.mem_map.1 hf
  have := h g hg hp
  simp only
  omega

/-- The core as it stood before its bundle, but for what a cancelled bundle leaves: the repaired scratch words and the note of the
handler's first access to its stack (R55, R398). -/
def coreBeforeBundle (s : State) : Core :=
  { s.saved.getD s.me with mode.stackSeq := s.me.mode.stackSeq, loc.ceWords := s.me.loc.ceWords }

/-- The device with the bundle in progress cancelled, a cycle later. -/
def cancelled (s : State) : State :=
  { s.setCore s.ctx.core (coreBeforeBundle s).tick with todo := [], saved := none, ctx := {} }

theorem raise_eq (s : State) (code detail : Byte) (addr : W64) :
    s.raise code detail addr = (cancelled s).takeTrap s.ctx.core s.me.seq
      { code := code, detail := detail, addr := addr, pc := s.ctx.addr, slot := BitVec.ofNat 4 s.cur.slot } := rfl

theorem core_cancelled (s : State) : (cancelled s).core s.ctx.core = (coreBeforeBundle s).tick := State.core_setCore_self ..

theorem cancelled_others (s : State) : SameOthers s.ctx.core s (cancelled s) := fun d h => State.core_setCore_other s _ d _ h

/-- Settles O15: what is trapped is the device with the bundle cancelled, whose core is the saved one after a cycle. -/
theorem raisedTrapsCancelTheBundle : Obligations.RaisedTrapsCancelTheBundle := by
  unfold Obligations.RaisedTrapsCancelTheBundle
  intro s code detail addr
  refine ⟨cancelled s, raise_eq s code detail addr, rfl, rfl, rfl, ⟨rfl, rfl, rfl, rfl, rfl⟩, cancelled_others s, ?_⟩
  simp only [core_cancelled]
  exact ⟨rfl, rfl, rfl, rfl, rfl, rfl, rfl, rfl, rfl, tick_latches _, tick_tiles _, fun p => tick_port (coreBeforeBundle s) p, rfl⟩

/-! ### The entry of the handler (R394, R398) -/

theorem cause_eq (t : Trap) : t.cause = BitVec.ofNat 64
    ((if t.eng then 2 ^ 17 else 0) + (if t.isDef then 2 ^ 16 else 0) + t.detail.toNat * 256 + t.code.toNat) := rfl

/-- The fields of `TCAUSE`: CODE, DETAIL, DEF and ENG (R394). -/
theorem cause_fields (t : Trap) :
    t.cause.extractLsb' 0 8 = t.code ∧ t.cause.extractLsb' 8 8 = t.detail ∧ t.cause.getLsbD 16 = t.isDef ∧ t.cause.getLsbD 17 = t.eng ∧
      t.cause.extractLsb' 18 46 = 0 := by
  obtain ⟨code, detail, isDef, eng, -, -, -, -⟩ := t
  have hc := code.isLt
  have hd := detail.isLt
  simp only [cause_eq]
  generalize hn : (if eng then 2 ^ 17 else 0) + (if isDef then 2 ^ 16 else 0) + detail.toNat * 256 + code.toNat = n
  have hlt : n < 2 ^ 18 := by rw [← hn]; cases eng <;> cases isDef <;> simp <;> omega
  have field : ∀ lo w : Nat, ((BitVec.ofNat 64 n).extractLsb' lo w).toNat = n / 2 ^ lo % 2 ^ w := fun lo w => by
    simp [Nat.mod_eq_of_lt (show n < 18446744073709551616 by omega), Nat.shiftRight_eq_div_pow]
  have flag : ∀ i, i < 64 → (BitVec.ofNat 64 n).getLsbD i = decide (n / 2 ^ i % 2 = 1) := fun i hi => by
    rw [BitVec.getLsbD_ofNat, Nat.testBit_eq_decide_div_mod_eq, decide_eq_true hi, Bool.true_and]
  refine ⟨BitVec.eq_of_toNat_eq ?_, BitVec.eq_of_toNat_eq ?_, ?_, ?_, BitVec.eq_of_toNat_eq ?_⟩
  · rw [field, ← hn]; cases eng <;> cases isDef <;> simp <;> omega
  · rw [field, ← hn]; cases eng <;> cases isDef <;> simp <;> omega
  · rw [flag _ (by decide), ← hn]; cases eng <;> cases isDef <;> simp <;> omega
  · rw [flag _ (by decide), ← hn]; cases eng <;> cases isDef <;> simp <;> omega
  · rw [field]; simp; omega

/-- The core as a trap leaves it that enters the handler: rolled back, the trap registers written, at `TVEC` (R398). -/
def handlerEntry (k : Core) (ctr : Nat) (t : Trap) : Core :=
  { k.rollback ctr with
    traps := k.traps.record t
    pc := k.traps.tvec
    seq := k.seq + 1
    mode := { k.mode with handler := true, openSeq := k.seq + 1, entrySeq := k.seq + 1, stackSeq := none } }

theorem takeTrap_handlerEntry (s : State) (c : CoreId) (seq : Nat) (t : Trap) (hh : (s.core c).mode.handler = false) (hk : t.kills = false)
    (hd : t.debugs = false) :
    s.takeTrap c seq t = { s with freeCtr := s.freeCtr + 2 }.setCore c (handlerEntry (s.core c) s.freeCtr t) := by
  have h1 : (s.core c).doubles seq = false := by simp [Core.doubles, hh]
  simp only [State.takeTrap, h1, hk, hh, hd, Bool.or_self, Bool.false_eq_true, if_false, handlerEntry, Core.rollback_mode]

/-- What R393 leaves alone: engine state other than the pops, pours and owed results of the interval, the L1, committed effects and scratch. -/
theorem rollback_keeps (k : Core) (n : Nat) :
    (k.rollback n).eng.aq = k.eng.aq ∧ (k.rollback n).eng.yq = k.eng.yq ∧ (k.rollback n).eng.cim = k.eng.cim ∧
      (k.rollback n).ms.l1 = k.ms.l1 ∧ (k.rollback n).ms.comm = k.ms.comm ∧ (k.rollback n).loc.scratch = k.loc.scratch := by
  have scratch : ∀ (l : List (Nat × RowT)) (k : Core), (l.foldl putBack k).loc.scratch = k.loc.scratch := by
    intro l
    induction l with
    | nil => exact fun _ => rfl
    | cons p l ih => intro k; rw [List.foldl_cons, ih]; unfold putBack; split <;> rfl
  have hs : k.restoreRows.loc.scratch = k.loc.scratch := scratch k.snap.rows k
  unfold Core.rollback
  rw [Core.restoreRows_eq]
  exact ⟨rfl, rfl, rfl, rfl, rfl, hs⟩

/-- After a rollback no pop of a near-memory stream is open (R128). -/
theorem rollback_nm_spec (k : Core) (n : Nat) (u : Fin 4) : ((k.rollback n).eng.nm.get u).spec = 0 := by
  simp [Core.rollback, Vector.get_eq_getElem]

/-- Settles O12: outside the handler a cause with a handler leaves `handlerEntry`, whose parts are those of the rollback. -/
theorem trapEntryRollsBackAndEntersTheHandler : Obligations.TrapEntryRollsBackAndEntersTheHandler := by
  unfold Obligations.TrapEntryRollsBackAndEntersTheHandler
  intro s c seq x hh hx
  simp only [List.mem_cons, List.not_mem_nil, or_false, not_or] at hx
  obtain ⟨hx2, hx30, hx21, hx22⟩ := hx
  have hk : x.kills = false := by simp only [Trap.kills, hx2, hx30, decide_false, Bool.or_self]
  have hd : x.debugs = false := by simp only [Trap.debugs, hx21, hx22, decide_false, Bool.or_self]
  obtain ⟨haq, hyq, hcim, hl1, hcomm, hscratch⟩ := rollback_keeps (s.core c) s.freeCtr
  obtain ⟨hcode, hdetail, hdef, heng, hrest⟩ := cause_fields x
  rw [takeTrap_handlerEntry s c seq x hh hk hd]
  simp only [State.core_setCore_self]
  generalize s.core c = k, s.freeCtr = n at *
  refine ⟨⟨Core.rollback_regs k n, rfl, rfl, Core.rollback_ending k n⟩,
    ⟨rfl, rfl, rfl, rfl, rfl, hcode, hdetail, hdef, heng, hrest⟩,
    ⟨rfl, rfl, rfl, rollback_nm_spec k n, rfl, rfl⟩,
    ⟨Core.rollback_ctrl k n, Core.rollback_tokens k n, Core.rollback_flags k n, haq, hyq, hcim, Core.rollback_own k n, hl1, hcomm, hscratch,
      Core.rollback_task k n⟩, ⟨rfl, rfl, rfl, rfl, rfl⟩, fun d hd => State.core_setCore_other _ c d _ hd⟩

end Sys2Proof.Scope
end

section
/-! The windows of the host and the peers (O57). -/

namespace Sys2Proof.Scope

open Sys2Proof Sys2Proof.Machine

/-! ### Meanings of the instructions of the windows -/

theorem exec_schedulerMemoryWrite (o : Nat) (bs : List Byte) (s : State) : exec (.schedulerMemoryWrite o bs) s = .next (s.schedWrite o bs) := rfl
theorem exec_registerWrite (o : Nat) (v : W64) (s : State) : exec (.registerWrite o v) s = execRegisterWrite o v s := rfl
theorem exec_hostW1Access (a : HostAccess) (s : State) : exec (.hostW1Access a) s = execHostW1Access a s := rfl
theorem exec_hostW2Read (o n : Nat) (w : Bool) (s : State) : exec (.hostW2Read o n w) s = execHostW2Read o n w s := rfl
theorem exec_inboundPeerRequest (p : Fin 12) (a : PeerAccess) (s : State) : exec (.inboundPeerRequest p a) s = execInboundPeerRequest p a s := rfl

theorem complete_eq (s : State) (st : Nat) (b : List Byte) : s.complete st b = s.answers st b := rfl

@[simp] theorem answers_cores (s : State) (st : Nat) (b : List Byte) : (s.answers st b).cores = s.cores := rfl
@[simp] theorem answers_mem (s : State) (st : Nat) (b : List Byte) : (s.answers st b).mem = s.mem := rfl
@[simp] theorem answers_sched (s : State) (st : Nat) (b : List Byte) : (s.answers st b).sched = s.sched := rfl
@[simp] theorem answers_cur (s : State) (st : Nat) (b : List Byte) : (s.answers st b).cur = s.cur := rfl

/-! ### Scheduler memory (R370) -/

/-- A byte of a run of writes, and of what lies beside it. -/
theorem mrd_wrBytes (m : Memory) (o a : Nat) (bs : List Byte) :
    mrd 0 (wrBytes m o bs) a = if o ≤ a ∧ a < o + bs.length then bs.getD (a - o) 0 else mrd 0 m a := by
  split
  · next h =>
    obtain ⟨i, rfl⟩ := Nat.exists_eq_add_of_le h.1
    have hi : i < bs.length := by omega
    rw [mrd_wrBytes_self _ _ _ _ hi, Nat.add_sub_cancel_left, List.getD_eq_getElem _ _ hi]
  · next h => exact mrd_wrBytes_other _ _ _ _ (by omega)

/-- Sizes and alignment that scheduler memory takes (R370). -/
def schedForm (o n : Nat) : Prop := n ∈ [4, 8, 16, 32, 64] ∧ o % n = 0

theorem schedForm_iff (o n : Nat) : (!([4, 8, 16, 32, 64].contains n) || decide (o % n ≠ 0)) = true ↔ ¬ schedForm o n := by
  simp only [schedForm, ne_eq, decide_not, Bool.or_eq_true, Bool.not_eq_eq_eq_not, Bool.not_true, List.contains_eq_mem, decide_eq_false_iff_not]
  tauto

theorem schedWrite_bad (s : State) (o : Nat) (bs : List Byte) (h : ¬ schedForm o bs.length) : s.schedWrite o bs = s.answers 1 [] := by
  unfold State.schedWrite
  exact if_pos ((schedForm_iff _ _).2 h)

theorem schedWrite_good (s : State) (o : Nat) (bs : List Byte) (h : schedForm o bs.length) :
    s.schedWrite o bs =
      if o ≥ 0x700000 then s.answers 0 []
      else if s.sched.pinnedRange o bs.length then
        (s.modHk fun h => { h with hstat := (h.hstat &&& 0xFF000000FFFFFFFF) ||| BitVec.ofNat 64 (o * 2 ^ 32) }.hstatBit 2).answers 0 []
      else ({ s with sched := { s.sched with mem := wrBytes s.sched.mem o bs } }.queueEdges s.sched o bs.length).answers 0 [] := by
  unfold State.schedWrite
  simp only
  rw [if_neg (mt (schedForm_iff _ _).1 (not_not.2 h))]
  rfl

/-- A write outside the queue table turns no queue on or off (R138). -/
theorem queueEdges_outside (s : State) (old : Sched) (o n : Nat) (h : o + n ≤ 0x1000 ∨ 0x5000 ≤ o) : s.queueEdges old o n = s := by
  have none : ((List.range 1024).filter fun q => decide (o < queueTable + 16 * q + 16) && decide (queueTable + 16 * q < o + n)) = [] := by
    refine List.filter_eq_nil_iff.2 fun q hq => ?_
    have := List.mem_range.1 hq
    have table : queueTable = 0x1000 := rfl
    simp only [Bool.and_eq_true, decide_eq_true_eq]
    omega
  unfold State.queueEdges
  rw [none]
  rfl

/-- `HSTAT` after a dropped write: bit 2 set, the offset in bits 55:32, the low bits as they were (R370, R412). -/
theorem dropped_hstat (v : W64) (o : Nat) :
    let w := (v &&& 0xFF000000FFFFFFFF ||| BitVec.ofNat 64 (o * 2 ^ 32)) ||| BitVec.ofNat 64 (2 ^ 2)
    w.getLsbD 2 = true ∧ w.extractLsb' 32 24 = BitVec.ofNat 24 o ∧ w.extractLsb' 0 2 = v.extractLsb' 0 2 := by
  have ho : BitVec.ofNat 64 (o * 2 ^ 32) = BitVec.ofNat 64 o <<< 32 := by
    apply BitVec.eq_of_toNat_eq
    simp [Nat.shiftLeft_eq]
  have ho' : BitVec.ofNat 24 o = (BitVec.ofNat 64 o).extractLsb' 0 24 := by
    apply BitVec.eq_of_toNat_eq
    simp
  intro w
  simp only [w, ho, ho']
  generalize BitVec.ofNat 64 o = x
  refine ⟨?_, ?_, ?_⟩
  · simp
  · have masked : ∀ i < 24, (0xFF000000FFFFFFFF#64).getLsbD (32 + i) = false ∧ (4#64).getLsbD (32 + i) = false := by decide
    ext i hi
    obtain ⟨h1, h2⟩ := masked i hi
    have h3 : 32 + i < 64 := by omega
    rw [BitVec.getLsbD_eq_getElem h3] at h1 h2
    simp [h1, h2, h3, BitVec.getLsbD_eq_getElem (show i < 64 by omega)]
  · ext i hi
    interval_cases i <;> simp

theorem schedulerMemory_serves (s : State) (o : Nat) (bs : List Byte) :
    let n := bs.length
    let form := n ∈ [4, 8, 16, 32, 64] ∧ o % n = 0
    let out := exec (.schedulerMemoryWrite o bs) s
    (¬ form → out = .next (s.answers 1 [])) ∧
    (form → 0x700000 ≤ o → out = .next (s.answers 0 [])) ∧
    (form → o < 0x700000 → s.sched.pinnedRange o n = true → ∃ v, out = .next ({ s with hk := { s.hk with hstat := v } }.answers 0 []) ∧
      v.getLsbD 2 = true ∧ v.extractLsb' 32 24 = BitVec.ofNat 24 o ∧ v.extractLsb' 0 2 = s.hk.hstat.extractLsb' 0 2) ∧
    (form → o < 0x700000 → s.sched.pinnedRange o n = false → (o + n ≤ 0x1000 ∨ 0x5000 ≤ o) → ∃ m,
      out = .next ({ s with sched := { s.sched with mem := m } }.answers 0 []) ∧
      ∀ a, mrd 0 m a = if o ≤ a ∧ a < o + n then bs.getD (a - o) 0 else mrd 0 s.sched.mem a) := by
  simp only [exec_schedulerMemoryWrite]
  refine ⟨fun h => congrArg _ (schedWrite_bad s o bs h), fun h ho => ?_, fun h ho hp => ?_, fun h ho hp hq => ?_⟩
  · rw [schedWrite_good s o bs h, if_pos ho]
  · refine ⟨_, ?_, dropped_hstat s.hk.hstat o⟩
    rw [schedWrite_good s o bs h, if_neg (by omega), if_pos hp]
    rfl
  · refine ⟨wrBytes s.sched.mem o bs, ?_, fun a => mrd_wrBytes s.sched.mem o a bs⟩
    rw [schedWrite_good s o bs h, if_neg (by omega), if_neg (by simp [hp]), queueEdges_outside _ _ _ _ hq]

/-! ### Registers of W0 (R5, R411, R412) -/

/-- An offset of the register range whose register has no step of its own. -/
abbrev PlainOffset (o : Nat) : Prop :=
  o < 0x800000 ∧ o % 8 = 0 ∧ o ∉ [0x08, 0x10, 0x20, 0x28, 0x30, 0x40] ∧ ¬ (0x1000 ≤ o ∧ o < 0x1400 ∧ o % 32 = 0)

/-- The core of a step that a register has of its own: with the value written, and k for the bank it names. -/
def atRegister (s : State) (v : W64) (k : Nat) : State := { s.answers 0 [] with cur := { s.cur with k := k, v := v } }

theorem registerWrite_aligned (s : State) (o : Nat) (v : W64) (ho : o < 0x800000) (h8 : o % 8 = 0) (hf : s.cur.flag = false) :
    exec (.registerWrite o v) s =
      if o = 0x08 then exec .envelopeWrite (atRegister s v 0)
      else if o = 0x10 then exec .pcapWrite (atRegister s v 0)
      else if o = 0x20 then exec .protmodeWrite (atRegister s v 0)
      else if o = 0x28 then exec .pinlimWrite (atRegister s v 0)
      else if o = 0x30 then exec .ageWrite (atRegister s v 0)
      else if o = 0x40 then exec .launchWrite (atRegister s v 0)
      else if 0x1000 ≤ o && o < 0x1400 && o % 32 = 0 then exec .errorBankClear (atRegister s v ((o - 0x1000) / 32))
      else .next ((s.answers 0 []).modHk fun h => h.writeReg o v) := by
  rw [exec_registerWrite]
  unfold execRegisterWrite
  simp only [complete_eq, answers_cur]
  rw [if_neg (show ¬ o ≥ 0x800000 by omega)]
  exact if_neg (by simp [h8, hf])

theorem registerWrite_unsupported (s : State) (o : Nat) (v : W64) (ho : o < 0x800000) (h : o % 8 ≠ 0 ∨ s.cur.flag = true) :
    exec (.registerWrite o v) s = .next (s.answers 1 []) := by
  rw [exec_registerWrite]
  unfold execRegisterWrite
  simp only [complete_eq, answers_cur]
  rw [if_neg (show ¬ o ≥ 0x800000 by omega)]
  exact if_pos (by simpa using h)

/-- What the write of an offset does whose register has no step of its own. -/
theorem registerWrite_plain (s : State) (o : Nat) (v : W64) (g : Hsk) (hf : s.cur.flag = false) (ho : PlainOffset o)
    (hg : (s.answers 0 []).hk.writeReg o v = { g with lastStatus := 0, lastRead := [] }) :
    exec (.registerWrite o v) s = .next ({ s with hk := g }.answers 0 []) := by
  obtain ⟨range, aligned, single, bank⟩ := ho
  simp only [List.mem_cons, List.not_mem_nil, or_false, not_or] at single
  obtain ⟨h1, h2, h3, h4, h5, h6⟩ := single
  rw [registerWrite_aligned s o v range aligned hf, if_neg h1, if_neg h2, if_neg h3, if_neg h4, if_neg h5, if_neg h6,
    if_neg (by simpa [and_assoc] using bank), State.modHk, hg]
  rfl

/-- A bank is cleared through the first word of its four (R412). -/
theorem registerWrite_bank (s : State) (i : Fin 32) (v : W64) (hf : s.cur.flag = false) :
    exec (.registerWrite (0x1000 + 32 * i.val) v) s = exec .errorBankClear (atRegister s v i.val) := by
  have hi := i.isLt
  generalize ho : 0x1000 + 32 * i.val = o
  have index : (o - 0x1000) / 32 = i.val := by omega
  rw [registerWrite_aligned s o v (by omega) (by omega) hf, if_neg (show o ≠ 0x08 by omega), if_neg (show o ≠ 0x10 by omega),
    if_neg (show o ≠ 0x20 by omega), if_neg (show o ≠ 0x28 by omega), if_neg (show o ≠ 0x30 by omega), if_neg (show o ≠ 0x40 by omega),
    if_pos (by simp; omega), index]

theorem writeReg_pxctx (h : Hsk) (p : Fin 12) (v : W64) :
    h.writeReg (0x80 + 8 * p.val) v = { h with pxctx := h.pxctx.set p.val (v.setWidth 9) } := by
  have hp := p.isLt
  have index : (0x80 + 8 * p.val - 0x80) / 8 % 12 = p.val := by omega
  unfold Hsk.writeReg
  rw [if_neg (by omega), if_neg (by omega), if_neg (by omega), if_neg (by omega), if_neg (by omega), if_pos (by simp; omega)]
  simp only [index]

theorem writeReg_mbReq (h : Hsk) (i : Nat) (v : W64) (hi : i < 8) : h.writeReg (0x2040 + 8 * i) v = { h with mbReq := mwr 0 h.mbReq i v } := by
  have index : (0x2040 + 8 * i - 0x2040) / 8 = i := by omega
  unfold Hsk.writeReg
  rw [if_neg (by omega), if_neg (by omega), if_neg (by omega), if_neg (by omega), if_neg (by omega), if_neg (by simp; omega), if_neg (by omega),
    if_pos (by simp; omega), index]

theorem writeReg_mbData (h : Hsk) (i : Nat) (v : W64) (hi : i < 1024) :
    h.writeReg (0x3000 + 8 * i) v = if h.mbCmd.isSome then h else { h with mbData := wrBytes h.mbData (8 * i) (leBytes 8 v.toNat) } := by
  have index : 0x3000 + 8 * i - 0x3000 = 8 * i := by omega
  unfold Hsk.writeReg
  rw [if_neg (by omega), if_neg (by omega), if_neg (by omega), if_neg (by omega), if_neg (by omega), if_neg (by simp; omega), if_neg (by omega),
    if_neg (by simp; omega), if_pos (by simp; omega), index]

theorem writeReg_mbDb (h : Hsk) (v : W64) : h.writeReg 0x2000 v = if v.getLsbD 0 then h.mbGo else h := rfl

theorem registerWrite_serves (s : State) (v : W64) (hf : s.cur.flag = false) :
    let h := s.hk
    let sets := fun (o : Nat) (g : Hsk) => exec (.registerWrite o v) s = .next ({ s with hk := g }.answers 0 [])
    let viaStep := fun (o k : Nat) (i : Instr) => exec (.registerWrite o v) s = exec i { s.answers 0 [] with cur := { s.cur with k := k, v := v } }
    viaStep 0x08 0 .envelopeWrite ∧ viaStep 0x10 0 .pcapWrite ∧ viaStep 0x20 0 .protmodeWrite ∧ viaStep 0x28 0 .pinlimWrite ∧ viaStep 0x30 0 .ageWrite ∧
    viaStep 0x40 0 .launchWrite ∧ (∀ i : Fin 32, viaStep (0x1000 + 32 * i.val) i.val .errorBankClear) ∧
    sets 0x50 { h with hxctx := v.extractLsb' 0 9 } ∧ sets 0x58 { h with w1base := v.extractLsb' 36 20 } ∧ sets 0x60 { h with w2base := v.extractLsb' 36 20 } ∧
    sets 0x68 { h with hstat := h.hstat &&& ~~~(v &&& 0xE) } ∧ sets 0x70 { h with hint := h.hint &&& ~~~(v &&& 0x1F) } ∧
    (∀ p : Fin 12, sets (0x80 + 8 * p.val) { h with pxctx := h.pxctx.set p.val (v.extractLsb' 0 9) }) ∧
    (∀ i, i < 8 → sets (0x2040 + 8 * i) { h with mbReq := mwr 0 h.mbReq i v }) ∧
    (h.mbCmd = none → ∀ i, i < 1024 → sets (0x3000 + 8 * i) { h with mbData := wrBytes h.mbData (8 * i) (leBytes 8 v.toNat) }) ∧
    (∀ c, h.mbCmd = some c → (∀ i, i < 1024 → sets (0x3000 + 8 * i) h) ∧ (v.getLsbD 0 = true → sets 0x2000 { h with hstat := h.hstat ||| 2 })) ∧
    (h.mbCmd = none → v.getLsbD 0 = true →
      sets 0x2000 { h with mbCmd := some ⟨(List.range 8).map fun i => mrd 0 h.mbReq i⟩, mbstat := h.mbstat ||| 1 }) ∧
    (v.getLsbD 0 = false → sets 0x2000 h) ∧
    (∀ o ∈ [0x00, 0x18, 0x48, 0x78, 0x100, 0x200, 0x2008, 0x2080], sets o h) ∧
    ∀ o, o < 0x800000 → o % 8 ≠ 0 → exec (.registerWrite o v) s = .next (s.answers 1 []) := by
  have width : v.setWidth 9 = v.extractLsb' 0 9 := by ext i hi; simp
  have plain := fun o g => registerWrite_plain s o v g hf
  have step := fun o h1 h2 => registerWrite_aligned s o v h1 h2 hf
  refine ⟨step 0x08 (by decide) rfl, step 0x10 (by decide) rfl, step 0x20 (by decide) rfl, step 0x28 (by decide) rfl, step 0x30 (by decide) rfl,
    step 0x40 (by decide) rfl, fun i => registerWrite_bank s i v hf, ?_, plain 0x58 _ (by decide) rfl, plain 0x60 _ (by decide) rfl,
    plain 0x68 _ (by decide) rfl, plain 0x70 _ (by decide) rfl, fun p => ?pxctx, fun i hi => ?mbReq, fun hm i hi => ?mbData,
    fun c hm => ⟨fun i hi => ?mbBusy, fun hv => ?mbDbBusy⟩, fun hm hv => ?mbDb, fun hv => ?mbDbOff, ?inert,
    fun o h1 h2 => registerWrite_unsupported s o v h1 (.inl h2)⟩
  · exact plain 0x50 _ (by decide) (by rw [← width]; rfl)
  case pxctx =>
    have hp := p.isLt
    refine plain _ _ ⟨by omega, by omega, ?_, by omega⟩ (by rw [writeReg_pxctx, width]; rfl)
    simp; omega
  case mbReq =>
    refine plain _ _ ⟨by omega, by omega, ?_, by omega⟩ (by rw [writeReg_mbReq _ i v hi]; rfl)
    simp; omega
  case mbData =>
    refine plain _ _ ⟨by omega, by omega, ?_, by omega⟩ ?_
    · simp; omega
    · rw [writeReg_mbData _ i v hi, if_neg (by simpa [State.answers] using hm)]; rfl
  case mbBusy =>
    refine plain _ _ ⟨by omega, by omega, ?_, by omega⟩ ?_
    · simp; omega
    · rw [writeReg_mbData _ i v hi, if_pos (by simp [State.answers, hm])]; rfl
  case mbDbBusy =>
    refine plain 0x2000 _ (by decide) ?_
    rw [writeReg_mbDb, if_pos hv, Hsk.mbGo, if_pos (by simp [State.answers, hm])]; rfl
  case mbDb =>
    refine plain 0x2000 _ (by decide) ?_
    rw [writeReg_mbDb, if_pos hv, Hsk.mbGo, if_neg (by simp [State.answers, hm])]; rfl
  case mbDbOff =>
    refine plain 0x2000 _ (by decide) ?_
    rw [writeReg_mbDb, hv, if_neg Bool.false_ne_true]; rfl
  case inert =>
    simp only [List.forall_mem_cons, List.not_mem_nil, false_imp_iff, implies_true, and_true]
    exact ⟨plain _ _ (by decide) rfl, plain _ _ (by decide) rfl, plain _ _ (by decide) rfl, plain _ _ (by decide) rfl, plain _ _ (by decide) rfl,
      plain _ _ (by decide) rfl, plain _ _ (by decide) rfl, plain _ _ (by decide) rfl⟩

/-! ### Translated requests (R43) -/

/-- All that may differ is memory and the records on their way to a bank. -/
def MemRecs (s t : State) : Prop := ∃ m l, t = { s with mem := m, hk := { s.hk with recs := l } }

theorem MemRecs.refl (s : State) : MemRecs s s := ⟨s.mem, s.hk.recs, rfl⟩

theorem MemRecs.trans {s t u : State} (h : MemRecs s t) (h' : MemRecs t u) : MemRecs s u := by
  obtain ⟨m, l, rfl⟩ := h
  obtain ⟨m', l', rfl⟩ := h'
  exact ⟨m', l', rfl⟩

theorem MemRecs.putMem (s : State) (m : Mem) (l : List ErrRec) : MemRecs s ({ s with mem := m }.addRecs l) := ⟨_, _, rfl⟩

theorem MemRecs.cores {s t : State} (h : MemRecs s t) : t.cores = s.cores := by obtain ⟨m, l, rfl⟩ := h; rfl
theorem MemRecs.sched {s t : State} (h : MemRecs s t) : t.sched = s.sched := by obtain ⟨m, l, rfl⟩ := h; rfl
theorem MemRecs.cur {s t : State} (h : MemRecs s t) : t.cur = s.cur := by obtain ⟨m, l, rfl⟩ := h; rfl

theorem transPieceX_memRecs (s : State) (dom : Nat) (k : AccKind) (va l : Nat) : MemRecs s (s.transPieceX dom k va l).2 := by
  unfold State.transPieceX
  simp only
  split
  · exact MemRecs.refl s
  · split
    · exact MemRecs.refl s
    · split
      · exact MemRecs.putMem s _ _
      · split <;> exact MemRecs.putMem s _ _

/-- The pieces of a request in turn: each translated where those before it were. -/
theorem transHost_memRecs (s : State) (dom va : Nat) (k : AccessKind) (blocks : Bool) : MemRecs s (s.transHost dom va k blocks).2 := by
  unfold State.transHost
  refine List.foldlRecOn (motive := fun (acc : Except (Byte × Byte) (List Seg) × State) => MemRecs s acc.2) _ _ (MemRecs.refl s) fun acc h p _ => ?_
  have piece := h.trans (transPieceX_memRecs acc.2 dom (reqKind k) p.1 p.2)
  split
  · exact h
  · generalize acc.2.transPieceX dom (reqKind k) p.1 p.2 = q at piece ⊢
    obtain ⟨r, t⟩ := q
    cases r with
    | ok segs => dsimp only; split <;> exact piece
    | fault c d a => exact piece
    | miss => exact piece

theorem domain_of_context (v : BitVec 9) : bits (v.setWidth 64) 0 8 = (v.extractLsb' 0 8).toNat := by
  simp [bits]


theorem hostOff_iff (s : State) :
    (!s.hk.ready || !s.hk.hxctx.getLsbD 8) = true ↔ ¬ (s.hk.ready = true ∧ s.hk.hxctx.getLsbD 8 = true) := by
  simp only [Bool.or_eq_true, Bool.not_eq_true', not_and_or, Bool.not_eq_true]

theorem performHost_cores (s : State) (dom : Nat) (segs : List Seg) (k : AccessKind) : (s.performHost dom segs k).2.cores = s.cores := by
  cases k <;> rfl

theorem performHost_sched (s : State) (dom : Nat) (segs : List Seg) (k : AccessKind) : (s.performHost dom segs k).2.sched = s.sched := by
  cases k <;> rfl

/-- A fetch-add over bytes that are not bad writes their sum back (R139). -/
theorem fetchAdd_mem (s : State) (dom : Nat) (segs : List Seg) (n : Nat) (v : W64) (h : (s.mem.readSegs segs).bad = false) :
    (s.performHost dom segs (.fetchAdd n v)).2.mem =
      ((s.mem.readSegs segs).mem.writeSegs segs (leBytes n (leNat (s.mem.readSegs segs).bytes + v.toNat)) false).1 := by
  simp only [State.performHost, State.fetchAdd, h]
  rfl

/-- Whether the context of `W1` and `W2` is in force (R42, R410). -/
def hostOn (s : State) : Prop := s.hk.ready = true ∧ s.hk.hxctx.getLsbD 8 = true

/-- Domain and virtual address of an access through `W1`. -/
def hostDomain (s : State) : Nat := (s.hk.hxctx.extractLsb' 0 8).toNat
def w1Va (s : State) (o : Nat) : Nat := s.hk.w1base.toNat * 2 ^ 36 + o % 2 ^ 36
def w2Va (s : State) (o : Nat) : Nat := s.hk.w2base.toNat * 2 ^ 36 + o % 2 ^ 36

/-- How a translated request goes on: refused with a record, or performed (R43). -/
def hostServes (win off dom : Nat) (k : AccessKind) : Except (Byte × Byte) (List Seg) × State → Out
  | (.error (c, d), s) => .next ((s.answers 2 []).addRec (hostRec win off dom c d))
  | (.ok segs, s) => .next ((s.performHost dom segs k).2.answers 0 (s.performHost dom segs k).1)

theorem hostServes_refuses (win off dom : Nat) (k : AccessKind) (r : Except (Byte × Byte) (List Seg) × State) (c d : Byte) (h : r.1 = .error (c, d)) :
    hostServes win off dom k r = .next ((r.2.answers 2 []).addRec (hostRec win off dom c d)) := by
  obtain ⟨_, s⟩ := r
  cases h
  rfl

theorem hostServes_performs (win off dom : Nat) (k : AccessKind) (r : Except (Byte × Byte) (List Seg) × State) (segs : List Seg) (h : r.1 = .ok segs) :
    hostServes win off dom k r = .next ((r.2.performHost dom segs k).2.answers 0 (r.2.performHost dom segs k).1) := by
  obtain ⟨_, s⟩ := r
  cases h
  rfl

theorem w1_off (s : State) (a : HostAccess) (h : ¬ hostOn s) : exec (.hostW1Access a) s = .next (s.answers 1 []) :=
  if_pos ((hostOff_iff s).2 h)

theorem w1_misaligned (s : State) (a : HostAccess) (h : hostOn s) (hm : reqMisaligned (w1Va s a.off) a.kind = true) :
    exec (.hostW1Access a) s = .next ((s.answers 3 []).addRec (hostRec 1 a.off (hostDomain s) cGalign (preDetail .host))) := by
  rw [exec_hostW1Access, hostDomain, ← domain_of_context]
  exact (if_neg (mt (hostOff_iff s).1 (not_not.2 h))).trans (if_pos hm)

theorem w1_translates (s : State) (a : HostAccess) (h : hostOn s) (hm : reqMisaligned (w1Va s a.off) a.kind = false) :
    exec (.hostW1Access a) s = hostServes 1 a.off (hostDomain s) a.kind (s.transHost (hostDomain s) (w1Va s a.off) a.kind false) := by
  rw [exec_hostW1Access, hostDomain, ← domain_of_context]
  refine (if_neg (mt (hostOff_iff s).1 (not_not.2 h))).trans ((if_neg (by rw [← w1Va, hm]; exact Bool.false_ne_true)).trans ?_)
  rw [← w1Va]
  generalize s.transHost _ (w1Va s a.off) a.kind false = r
  obtain ⟨_ | _, t⟩ := r <;> rfl

theorem w1_serves (s : State) (a : HostAccess) :
    let dom := (s.hk.hxctx.extractLsb' 0 8).toNat
    let va := s.hk.w1base.toNat * 2 ^ 36 + a.off % 2 ^ 36
    let r := s.transHost dom va a.kind false
    let out := exec (.hostW1Access a) s
    let on := s.hk.ready = true ∧ s.hk.hxctx.getLsbD 8 = true
    (¬ on → out = .next (s.answers 1 [])) ∧
    (on → reqMisaligned va a.kind = true → ∃ e, out = .next { s.answers 3 [] with hk := { (s.answers 3 []).hk with recs := queueRec s.hk.recs e } } ∧
      e.event = 0x06 ∧ e.cause = 0x07 ∧ e.unit = 12 ∧ e.domain = dom) ∧
    (on → reqMisaligned va a.kind = false →
      (∀ c d, r.1 = .error (c, d) → ∃ e, out = .next { r.2.answers 2 [] with hk := { (r.2.answers 2 []).hk with recs := queueRec r.2.hk.recs e } } ∧
        e.event = 0x06 ∧ e.cause = c ∧ e.detail = d ∧ e.unit = 12 ∧ e.domain = dom) ∧
      ∀ segs, r.1 = .ok segs →
        (∀ n, a.kind = .read n → ∃ t, out = .next t ∧ t.cores = s.cores ∧ t.sched = s.sched ∧ t.hk.lastStatus = 0 ∧
          t.hk.lastRead = (r.2.mem.readSegs segs).bytes ∧ t.mem = (r.2.mem.readSegs segs).mem) ∧
        (∀ b, a.kind = .write b → ∃ t, out = .next t ∧ t.cores = s.cores ∧ t.sched = s.sched ∧ t.hk.lastStatus = 0 ∧
          t.mem = (r.2.mem.writeSegs segs b false).1) ∧
        ∀ n v, a.kind = .fetchAdd n v → (r.2.mem.readSegs segs).bad = false → ∃ t, out = .next t ∧ t.cores = s.cores ∧
          t.hk.lastRead = (r.2.mem.readSegs segs).bytes ∧
          t.mem = ((r.2.mem.readSegs segs).mem.writeSegs segs (leBytes n (leNat (r.2.mem.readSegs segs).bytes + v.toNat)) false).1) := by
  intro dom va r out on
  have frame : MemRecs s r.2 := transHost_memRecs s dom va a.kind false
  have cores : ∀ segs k, (r.2.performHost dom segs k).2.cores = s.cores := fun segs k => (performHost_cores ..).trans frame.cores
  have sched : ∀ segs k, (r.2.performHost dom segs k).2.sched = s.sched := fun segs k => (performHost_sched ..).trans frame.sched
  refine ⟨w1_off s a, fun h hm => ⟨_, w1_misaligned s a h hm, rfl, rfl, rfl, rfl⟩, fun h hm => ?_⟩
  have hout : out = hostServes 1 a.off dom a.kind r := w1_translates s a h hm
  refine ⟨fun c d hr => ?_, fun segs hr => ?_⟩
  · exact ⟨_, hout.trans (hostServes_refuses 1 a.off dom a.kind r c d hr), rfl, rfl, rfl, rfl, rfl⟩
  · have done := hout.trans (hostServes_performs 1 a.off dom a.kind r segs hr)
    refine ⟨fun n hk => ?_, fun b hk => ?_, fun n v hk hb => ?_⟩ <;> rw [hk] at done
    · exact ⟨_, done, cores segs _, sched segs _, rfl, rfl, rfl⟩
    · exact ⟨_, done, cores segs _, sched segs _, rfl, rfl⟩
    · exact ⟨_, done, cores segs _, rfl, fetchAdd_mem r.2 dom segs n v hb⟩

theorem w2_off (s : State) (o n : Nat) (write : Bool) (h : ¬ hostOn s) : exec (.hostW2Read o n write) s = .next (s.answers 1 []) :=
  if_pos ((hostOff_iff s).2 h)

theorem fetchAdd_misaligned_iff (va n : Nat) : reqMisaligned va (.fetchAdd n 0) = true ↔ n = 0 ∨ va % n ≠ 0 := by
  simp [reqMisaligned]

theorem w2_misaligned (s : State) (o n : Nat) (write : Bool) (h : hostOn s) (hf : s.cur.flag = true) (hm : n = 0 ∨ w2Va s o % n ≠ 0) :
    exec (.hostW2Read o n write) s = .next ((s.answers 3 []).addRec (hostRec 2 o (hostDomain s) cGalign (preDetail .host))) := by
  rw [exec_hostW2Read, hostDomain, ← domain_of_context]
  refine (if_neg (mt (hostOff_iff s).1 (not_not.2 h))).trans (if_pos ?_)
  rw [hf, Bool.true_and]
  exact (fetchAdd_misaligned_iff _ n).2 hm

theorem w2_readOnly (s : State) (o n : Nat) (write : Bool) (h : hostOn s)
    (hw : s.cur.flag = true ∧ ¬ (n = 0 ∨ w2Va s o % n ≠ 0) ∨ s.cur.flag = false ∧ write = true) :
    exec (.hostW2Read o n write) s = .next (s.answers 1 []) := by
  rw [exec_hostW2Read]
  refine (if_neg (mt (hostOff_iff s).1 (not_not.2 h))).trans ((if_neg ?_).trans (if_pos ?_))
  · rw [Bool.and_eq_true, fetchAdd_misaligned_iff, ← w2Va]
    rintro ⟨hf, hm⟩
    rcases hw with ⟨_, hm'⟩ | ⟨hf', _⟩
    · exact hm' hm
    · exact absurd (hf.symm.trans hf') (by decide)
  · rw [Bool.or_eq_true]
    exact hw.elim (fun h => .inr h.1) fun h => .inl h.2

theorem w2_translates (s : State) (o n : Nat) (h : hostOn s) (hf : s.cur.flag = false) :
    exec (.hostW2Read o n false) s = hostServes 2 o (hostDomain s) (.read n) (s.transHost (hostDomain s) (w2Va s o) (.read n) true) := by
  rw [exec_hostW2Read, hostDomain, ← domain_of_context]
  refine (if_neg (mt (hostOff_iff s).1 (not_not.2 h))).trans ((if_neg (by rw [hf]; exact Bool.false_ne_true)).trans
    ((if_neg (by rw [hf]; exact Bool.false_ne_true)).trans ?_))
  rw [← w2Va]
  generalize s.transHost _ (w2Va s o) (.read n) true = r
  obtain ⟨_ | _, t⟩ := r <;> rfl

theorem w2_serves (s : State) (o n : Nat) (write : Bool) :
    let dom := (s.hk.hxctx.extractLsb' 0 8).toNat
    let va := s.hk.w2base.toNat * 2 ^ 36 + o % 2 ^ 36
    let r := s.transHost dom va (.read n) true
    let out := exec (.hostW2Read o n write) s
    let on := s.hk.ready = true ∧ s.hk.hxctx.getLsbD 8 = true
    let misaligned := n = 0 ∨ va % n ≠ 0
    (¬ on → out = .next (s.answers 1 [])) ∧
    (on → s.cur.flag = true → misaligned → ∃ e, out = .next { s.answers 3 [] with hk := { (s.answers 3 []).hk with recs := queueRec s.hk.recs e } } ∧
      e.event = 0x06 ∧ e.cause = 0x07 ∧ e.unit = 12 ∧ e.domain = dom) ∧
    (on → (s.cur.flag = true ∧ ¬ misaligned ∨ s.cur.flag = false ∧ write = true) → out = .next (s.answers 1 [])) ∧
    (on → s.cur.flag = false → write = false →
      (∀ segs, r.1 = .ok segs → ∃ t, out = .next t ∧ t.cores = s.cores ∧ t.sched = s.sched ∧ t.hk.lastStatus = 0 ∧
        t.hk.lastRead = (r.2.mem.readSegs segs).bytes) ∧
      ∀ c d, r.1 = .error (c, d) → ∃ e, out = .next { r.2.answers 2 [] with hk := { (r.2.answers 2 []).hk with recs := queueRec r.2.hk.recs e } } ∧
        e.event = 0x06 ∧ e.cause = c) := by
  intro dom va r out on misaligned
  have frame : MemRecs s r.2 := transHost_memRecs s dom va (.read n) true
  refine ⟨w2_off s o n write, fun h hf hm => ⟨_, w2_misaligned s o n write h hf hm, rfl, rfl, rfl, rfl⟩, fun h hw => w2_readOnly s o n write h hw,
    fun h hf hw => ?_⟩
  have hout : out = hostServes 2 o dom (.read n) r := by subst hw; exact w2_translates s o n h hf
  refine ⟨fun segs hr => ?_, fun c d hr => ?_⟩
  · exact ⟨_, hout.trans (hostServes_performs 2 o dom (.read n) r segs hr), (performHost_cores ..).trans frame.cores,
      (performHost_sched ..).trans frame.sched, rfl, rfl⟩
  · exact ⟨_, hout.trans (hostServes_refuses 2 o dom (.read n) r c d hr), rfl, rfl⟩

/-! ### Inbound peer requests (R43, R423) -/

theorem extract_ofNat (n lo w : Nat) (h : n < 2 ^ 64) : ((BitVec.ofNat 64 n).extractLsb' lo w).toNat = n / 2 ^ lo % 2 ^ w := by
  rw [BitVec.extractLsb'_toNat, BitVec.toNat_ofNat, Nat.mod_eq_of_lt h, Nat.shiftRight_eq_div_pow]

/-- The fields of a header do not overlap (R423). -/
theorem flitHeader_fields (type cause tag ext : Nat) :
    ((flitHeader type cause tag ext).extractLsb' 0 8).toNat = type % 256 ∧ (flitHeader type cause tag ext).extractLsb' 8 8 = BitVec.ofNat 8 cause ∧
      ((flitHeader type cause tag ext).extractLsb' 16 16).toNat = tag % 65536 := by
  have h1 : type % 256 < 256 := Nat.mod_lt _ (by decide)
  have h2 : cause % 256 < 256 := Nat.mod_lt _ (by decide)
  have h3 : tag % 65536 < 65536 := Nat.mod_lt _ (by decide)
  have h4 : ext % 2 ^ 32 < 4294967296 := Nat.mod_lt _ (by decide)
  have h5 : (BitVec.ofNat 8 cause).toNat = cause % 256 := BitVec.toNat_ofNat ..
  unfold flitHeader
  generalize type % 256 = a, cause % 256 = b, tag % 65536 = c, ext % 2 ^ 32 = d at *
  have lt : a + b * 2 ^ 8 + c * 2 ^ 16 + d * 2 ^ 32 < 2 ^ 64 := by omega
  refine ⟨?_, BitVec.eq_of_toNat_eq ?_, ?_⟩ <;> rw [extract_ofNat _ _ _ lt]
  · omega
  · rw [h5]; omega
  · omega

/-- The refusal of a peer's request (R43, R423). -/
def peerRefuses (p : Fin 12) (a : PeerAccess) (dom : Nat) (s : State) (c d : Byte) : State :=
  (s.peerAnswers (256 + c.toNat) s.cur.k (reqLen a.kind) []).addRec (peerRec p a.addr dom c d)

theorem peerRefuses_frame (p : Fin 12) (a : PeerAccess) (dom : Nat) (s : State) (c d : Byte) :
    let t := peerRefuses p a dom s c d
    t.cores = s.cores ∧ t.mem = s.mem ∧ t.hk.lastStatus = 256 + c.toNat := ⟨rfl, rfl, rfl⟩

/-- A refused request leaves a record of its port, with the cause (R407). -/
theorem peerRefuses_record (p : Fin 12) (a : PeerAccess) (dom : Nat) (s : State) (c d : Byte) :
    ∃ e, (peerRefuses p a dom s c d).hk.recs = queueRec s.hk.recs e ∧ e.event = 0x06 ∧ e.unit = 11 ∧ e.port = p.val ∧ e.cause = c ∧ e.detail = d :=
  ⟨_, rfl, rfl, rfl, rfl, rfl, rfl⟩

theorem peerRefuses_flit (p : Fin 12) (a : PeerAccess) (dom : Nat) (s : State) (c d : Byte) :
    let f := (peerRefuses p a dom s c d).hk.lastFlit
    ((f.extractLsb' 0 8).toNat = 4 ∧ (f.extractLsb' 16 16).toNat = s.cur.k % 65536) ∧ f.extractLsb' 8 8 = c := by
  have hf : (peerRefuses p a dom s c d).hk.lastFlit = flitHeader 4 (256 + c.toNat - 256) s.cur.k (reqLen a.kind) := if_pos (Nat.le_add_right ..)
  rw [Nat.add_sub_cancel_left] at hf
  obtain ⟨type, cause, tag⟩ := flitHeader_fields 4 c.toNat s.cur.k (reqLen a.kind)
  intro f
  simp only [f, hf, type, cause, tag, BitVec.ofNat_toNat, BitVec.setWidth_eq, and_self]

theorem peerAnswers_flit (s : State) (tag len : Nat) (b : List Byte) :
    let f := (s.peerAnswers 0 tag len b).hk.lastFlit
    (f.extractLsb' 0 8).toNat = (if b = [] then 3 else 2) ∧ (f.extractLsb' 16 16).toNat = tag % 65536 := by
  have hf : (s.peerAnswers 0 tag len b).hk.lastFlit = flitHeader (if b.isEmpty then 3 else 2) 0 tag len := rfl
  obtain ⟨type, -, tag⟩ := flitHeader_fields (if b.isEmpty then 3 else 2) 0 tag len
  intro f
  rw [show f = _ from hf]
  cases b with
  | nil => exact ⟨type, tag⟩
  | cons x b => exact ⟨type, tag⟩

/-- How a translated request of a peer goes on: refused with a record, or performed. -/
def peerServes (p : Fin 12) (a : PeerAccess) (dom : Nat) : Except (Byte × Byte) (List Seg) × State → Out
  | (.error (c, d), s) => .next (peerRefuses p a dom s c d)
  | (.ok segs, s) => .next ((s.performHost dom segs a.kind).2.peerAnswers 0 (s.performHost dom segs a.kind).2.cur.k (reqLen a.kind)
      (s.performHost dom segs a.kind).1)

theorem peer_eq (s : State) (p : Fin 12) (a : PeerAccess) (hf : s.cur.flag = false) :
    exec (.inboundPeerRequest p a) s =
      let dom := ((s.hk.pxctx.get p).extractLsb' 0 8).toNat
      if !s.mem.linkUp.getLsbD p.val then .next s
      else if !(s.hk.pxctx.get p).getLsbD 8 then .next (peerRefuses p a dom s 0 0)
      else if reqMisaligned a.addr.toNat a.kind then .next (peerRefuses p a dom s cGalign (preDetail .host))
      else peerServes p a dom (s.transHost dom a.addr.toNat a.kind false) := by
  rw [exec_inboundPeerRequest, ← domain_of_context]
  unfold execInboundPeerRequest
  simp only [hf, Bool.false_and, Bool.false_eq_true, if_false]
  refine if_congr Iff.rfl rfl (if_congr Iff.rfl rfl (if_congr Iff.rfl rfl ?_))
  generalize s.transHost _ a.addr.toNat a.kind false = r
  obtain ⟨_ | _, t⟩ := r <;> rfl

theorem peer_down (s : State) (p : Fin 12) (a : PeerAccess) (hf : s.cur.flag = false) (hl : s.mem.linkUp.getLsbD p.val = false) :
    exec (.inboundPeerRequest p a) s = .next s := by
  simp only [peer_eq s p a hf, hl, Bool.not_false, if_true]

theorem peer_noContext (s : State) (p : Fin 12) (a : PeerAccess) (hf : s.cur.flag = false) (hl : s.mem.linkUp.getLsbD p.val = true)
    (hc : (s.hk.pxctx.get p).getLsbD 8 = false) :
    exec (.inboundPeerRequest p a) s = .next (peerRefuses p a ((s.hk.pxctx.get p).extractLsb' 0 8).toNat s 0 0) := by
  simp only [peer_eq s p a hf, hl, hc, Bool.not_true, Bool.not_false, Bool.false_eq_true, if_true, if_false]

theorem peer_misaligned (s : State) (p : Fin 12) (a : PeerAccess) (hf : s.cur.flag = false) (hl : s.mem.linkUp.getLsbD p.val = true)
    (hc : (s.hk.pxctx.get p).getLsbD 8 = true) (hm : reqMisaligned a.addr.toNat a.kind = true) :
    exec (.inboundPeerRequest p a) s = .next (peerRefuses p a ((s.hk.pxctx.get p).extractLsb' 0 8).toNat s cGalign (preDetail .host)) := by
  simp only [peer_eq s p a hf, hl, hc, hm, Bool.not_true, Bool.false_eq_true, if_true, if_false]

theorem peer_translates (s : State) (p : Fin 12) (a : PeerAccess) (hf : s.cur.flag = false) (hl : s.mem.linkUp.getLsbD p.val = true)
    (hc : (s.hk.pxctx.get p).getLsbD 8 = true) (hm : reqMisaligned a.addr.toNat a.kind = false) :
    let dom := ((s.hk.pxctx.get p).extractLsb' 0 8).toNat
    exec (.inboundPeerRequest p a) s = peerServes p a dom (s.transHost dom a.addr.toNat a.kind false) := by
  simp only [peer_eq s p a hf, hl, hc, hm, Bool.not_true, Bool.false_eq_true, if_false]

theorem peerServes_refuses (p : Fin 12) (a : PeerAccess) (dom : Nat) (r : Except (Byte × Byte) (List Seg) × State) (c d : Byte)
    (h : r.1 = .error (c, d)) : peerServes p a dom r = .next (peerRefuses p a dom r.2 c d) := by
  obtain ⟨_, s⟩ := r
  cases h
  rfl

/-- The answer to a request that is performed. -/
def peerDone (a : PeerAccess) (r : List Byte × State) : State := r.2.peerAnswers 0 r.2.cur.k (reqLen a.kind) r.1

theorem peerServes_performs (p : Fin 12) (a : PeerAccess) (dom : Nat) (r : Except (Byte × Byte) (List Seg) × State) (segs : List Seg)
    (h : r.1 = .ok segs) : peerServes p a dom r = .next (peerDone a (r.2.performHost dom segs a.kind)) := by
  obtain ⟨_, s⟩ := r
  cases h
  rfl

theorem performHost_cur (s : State) (dom : Nat) (segs : List Seg) (k : AccessKind) : (s.performHost dom segs k).2.cur = s.cur := by
  cases k <;> rfl

theorem peer_serves (s : State) (p : Fin 12) (a : PeerAccess) (hf : s.cur.flag = false) :
    let ctx := s.hk.pxctx.get p
    let dom := (ctx.extractLsb' 0 8).toNat
    let r := s.transHost dom a.addr.toNat a.kind false
    let out := exec (.inboundPeerRequest p a) s
    let flit := fun (t : State) (type : Nat) => (t.hk.lastFlit.extractLsb' 0 8).toNat = type ∧ (t.hk.lastFlit.extractLsb' 16 16).toNat = s.cur.k % 65536
    (s.mem.linkUp.getLsbD p.val = false → out = .next s) ∧
    (s.mem.linkUp.getLsbD p.val = true → ctx.getLsbD 8 = false → ∃ t, out = .next t ∧ t.cores = s.cores ∧ t.mem = s.mem ∧ t.hk.lastStatus = 256 ∧
      flit t 4 ∧ t.hk.lastFlit.extractLsb' 8 8 = 0) ∧
    (s.mem.linkUp.getLsbD p.val = true → ctx.getLsbD 8 = true → reqMisaligned a.addr.toNat a.kind = true → ∃ t e, out = .next t ∧ t.cores = s.cores ∧
      t.mem = s.mem ∧ t.hk.lastStatus = 256 + 0x07 ∧ flit t 4 ∧ t.hk.lastFlit.extractLsb' 8 8 = 0x07 ∧ t.hk.recs = queueRec s.hk.recs e ∧
      e.event = 0x06 ∧ e.unit = 11 ∧ e.port = p.val ∧ e.cause = 0x07) ∧
    (s.mem.linkUp.getLsbD p.val = true → ctx.getLsbD 8 = true → reqMisaligned a.addr.toNat a.kind = false →
      (∀ c d, r.1 = .error (c, d) → ∃ t e, out = .next t ∧ t.cores = s.cores ∧ t.hk.lastStatus = 256 + c.toNat ∧ t.hk.recs = queueRec r.2.hk.recs e ∧
        e.event = 0x06 ∧ e.unit = 11 ∧ e.port = p.val ∧ e.cause = c ∧ e.detail = d ∧ flit t 4 ∧ t.hk.lastFlit.extractLsb' 8 8 = c) ∧
      ∀ segs, r.1 = .ok segs →
        (∀ n, a.kind = .read n → ∃ t, out = .next t ∧ t.cores = s.cores ∧ t.hk.lastStatus = 0 ∧ t.hk.lastRead = (r.2.mem.readSegs segs).bytes ∧
          flit t (if (r.2.mem.readSegs segs).bytes = [] then 3 else 2)) ∧
        ∀ b, a.kind = .write b → ∃ t, out = .next t ∧ t.cores = s.cores ∧ t.hk.lastStatus = 0 ∧ t.mem = (r.2.mem.writeSegs segs b false).1 ∧ flit t 3) := by
  intro ctx dom r out flit
  have frame : MemRecs s r.2 := transHost_memRecs s dom a.addr.toNat a.kind false
  refine ⟨peer_down s p a hf, fun hl hc => ?_, fun hl hc hm => ?_, fun hl hc hm => ?_⟩
  · obtain ⟨header, cause⟩ := peerRefuses_flit p a dom s 0 0
    obtain ⟨cores, mem, status⟩ := peerRefuses_frame p a dom s 0 0
    exact ⟨_, peer_noContext s p a hf hl hc, cores, mem, status, header, cause⟩
  · obtain ⟨header, cause⟩ := peerRefuses_flit p a dom s cGalign (preDetail .host)
    obtain ⟨cores, mem, status⟩ := peerRefuses_frame p a dom s cGalign (preDetail .host)
    obtain ⟨e, recs, event, unit, port, code, -⟩ := peerRefuses_record p a dom s cGalign (preDetail .host)
    exact ⟨_, e, peer_misaligned s p a hf hl hc hm, cores, mem, status, header, cause, recs, event, unit, port, code⟩
  · have hout : out = peerServes p a dom r := peer_translates s p a hf hl hc hm
    refine ⟨fun c d hr => ?_, fun segs hr => ?_⟩
    · obtain ⟨⟨type, tag⟩, cause⟩ := peerRefuses_flit p a dom r.2 c d
      obtain ⟨cores, mem, status⟩ := peerRefuses_frame p a dom r.2 c d
      obtain ⟨e, recs, event, unit, port, code, detail⟩ := peerRefuses_record p a dom r.2 c d
      rw [frame.cur] at tag
      exact ⟨_, e, hout.trans (peerServes_refuses p a dom r c d hr), cores.trans frame.cores, status, recs, event, unit, port, code, detail,
        ⟨type, tag⟩, cause⟩
    · have cores : ∀ k, (peerDone a (r.2.performHost dom segs k)).cores = s.cores := fun k => (performHost_cores ..).trans frame.cores
      have header : ∀ k, flit (peerDone a (r.2.performHost dom segs k)) (if (r.2.performHost dom segs k).1 = [] then 3 else 2) := fun k => by
        obtain ⟨type, tag⟩ := peerAnswers_flit (r.2.performHost dom segs k).2 (r.2.performHost dom segs k).2.cur.k (reqLen a.kind)
          (r.2.performHost dom segs k).1
        exact ⟨type, tag.trans (by rw [performHost_cur, frame.cur])⟩
      have done := hout.trans (peerServes_performs p a dom r segs hr)
      refine ⟨fun n hk => ?_, fun b hk => ?_⟩ <;> rw [hk] at done
      · exact ⟨_, done, cores _, rfl, rfl, header _⟩
      · exact ⟨_, done, cores _, rfl, rfl, header _⟩

/-- Settles O57: the parts above, one for each window. -/
theorem windowsServeTheHostAndPeers : Obligations.WindowsServeTheHostAndPeers := by
  unfold Obligations.WindowsServeTheHostAndPeers
  exact ⟨schedulerMemory_serves, fun s v o hf ho => registerWrite_unsupported s o v ho (.inr hf), registerWrite_serves, w1_serves, w2_serves, peer_serves⟩

end Sys2Proof.Scope
end

section
/-! What the L1 and the loads of a core change (R63, R117 to R119): a frame for the other cores and one for the core itself. -/

namespace Sys2Proof.Scope

open Sys2Proof Sys2Proof.Machine

/-! ### The frame of one core -/

/-- Every other core, the scheduler, the queues, the system copy engines and the bundle in progress are unchanged. -/
structure CoreOnly (c : CoreId) (s t : State) : Prop where
  others : SameOthers c s t
  sched : t.sched = s.sched
  sysCopies : t.sysCopies = s.sysCopies
  queues : t.queues = s.queues
  ctx : t.ctx = s.ctx

theorem CoreOnly.refl (c : CoreId) (s : State) : CoreOnly c s s := ⟨fun _ _ => rfl, rfl, rfl, rfl, rfl⟩

theorem CoreOnly.trans {c : CoreId} {s t u : State} (h : CoreOnly c s t) (h' : CoreOnly c t u) : CoreOnly c s u :=
  ⟨fun d hd => (h'.others d hd).trans (h.others d hd), h'.sched.trans h.sched, h'.sysCopies.trans h.sysCopies, h'.queues.trans h.queues,
    h'.ctx.trans h.ctx⟩

theorem CoreOnly.setCore (c : CoreId) (s : State) (k : Core) : CoreOnly c s (s.setCore c k) :=
  ⟨fun d hd => State.core_setCore_other s c d k hd, rfl, rfl, rfl, rfl⟩

theorem CoreOnly.modCore (c : CoreId) (s : State) (f : Core → Core) : CoreOnly c s (s.modCore c f) := CoreOnly.setCore c s _

/-- Memory, records and the counter of free values are no part of a core. -/
theorem CoreOnly.putMem (c : CoreId) (s : State) (m : Mem) (l : List ErrRec) : CoreOnly c s ({ s with mem := m }.addRecs l) :=
  ⟨fun _ _ => rfl, rfl, rfl, rfl, rfl⟩

theorem CoreOnly.addRecs (c : CoreId) (s : State) (l : List ErrRec) : CoreOnly c s (s.addRecs l) := CoreOnly.putMem c s s.mem l

/-! ### The frame of the L1 -/

/-- Of core c the lines of the L1 and the dirty-line FIFO may change, and nothing else. -/
structure CacheFrame (c : CoreId) (s t : State) : Prop where
  device : CoreOnly c s t
  core : ∃ l1 fifo, t.core c = { s.core c with ms := { (s.core c).ms with l1 := l1, fifo := fifo } }

theorem CacheFrame.refl (c : CoreId) (s : State) : CacheFrame c s s := ⟨CoreOnly.refl c s, _, _, rfl⟩

theorem CacheFrame.trans {c : CoreId} {s t u : State} (h : CacheFrame c s t) (h' : CacheFrame c t u) : CacheFrame c s u := by
  obtain ⟨d, l1, fifo, hc⟩ := h
  obtain ⟨d', l1', fifo', hc'⟩ := h'
  exact ⟨d.trans d', l1', fifo', by rw [hc', hc]⟩

theorem CacheFrame.foldl {α : Type} {c : CoreId} (f : State → α → State) (hf : ∀ s x, CacheFrame c s (f s x)) (l : List α) (s : State) :
    CacheFrame c s (l.foldl f s) :=
  List.foldlRecOn l f (CacheFrame.refl c s) fun _ h x _ => h.trans (hf _ x)

theorem CacheFrame.putMem (c : CoreId) (s : State) (m : Mem) (l : List ErrRec) : CacheFrame c s ({ s with mem := m }.addRecs l) :=
  ⟨CoreOnly.putMem c s m l, _, _, rfl⟩

theorem CacheFrame.addRecs (c : CoreId) (s : State) (l : List ErrRec) : CacheFrame c s (s.addRecs l) := CacheFrame.putMem c s s.mem l

theorem CacheFrame.bump (c : CoreId) (s : State) : CacheFrame c s s.bump := ⟨⟨fun _ _ => rfl, rfl, rfl, rfl, rfl⟩, _, _, rfl⟩

/-- New lines and a new FIFO in the core. -/
theorem CacheFrame.setLines (c : CoreId) (s : State) (l1 : Core → List L1Line) (fifo : Core → List FifoEnt) :
    CacheFrame c s (s.modCore c fun k => { k with ms.l1 := l1 k, ms.fifo := fifo k }) :=
  ⟨CoreOnly.modCore c s _, _, _, State.core_modCore_self ..⟩

theorem CacheFrame.setL1 (c : CoreId) (s : State) (l1 : Core → List L1Line) : CacheFrame c s (s.modCore c fun k => { k with ms.l1 := l1 k }) :=
  CacheFrame.setLines c s l1 fun k => k.ms.fifo

theorem CacheFrame.setFifo (c : CoreId) (s : State) (fifo : Core → List FifoEnt) : CacheFrame c s (s.modCore c fun k => { k with ms.fifo := fifo k }) :=
  CacheFrame.setLines c s (fun k => k.ms.l1) fifo

theorem writeBackLine_cache (s : State) (c : CoreId) (l : L1Line) : CacheFrame c s (s.writeBackLine c l) := by
  unfold State.writeBackLine
  split
  · exact CacheFrame.refl c s
  · split
    · exact CacheFrame.addRecs c s _
    · exact (CacheFrame.addRecs c s _).trans (CacheFrame.foldl _ (fun s r => CacheFrame.foldl _ (fun s p => CacheFrame.putMem c s _ _) _ s) _ _)

theorem l1Clean_cache (s : State) (c : CoreId) (home a : Nat) (drop : Bool) : CacheFrame c s (s.l1Clean c home a drop) := by
  unfold State.l1Clean
  split
  · exact CacheFrame.refl c s
  · exact (writeBackLine_cache s c _).trans (CacheFrame.setLines c _ _ _)

theorem l1Room_cache (s : State) (c : CoreId) (a : Nat) : CacheFrame c s (s.l1Room c a) := by
  unfold State.l1Room
  simp only
  split
  · exact CacheFrame.refl c s
  · split
    · exact (CacheFrame.bump c s).trans (l1Clean_cache ..)
    · exact CacheFrame.refl c s

theorem fifoAdd_cache (s : State) (c : CoreId) (id home a : Nat) : CacheFrame c s (s.fifoAdd c id home a) := by
  have room : CacheFrame c s (if (s.core c).fifoLines.length ≥ 512 then
      match (s.core c).fifoLines.head? with | some (h, x) => s.l1Clean c h x false | none => s
    else s) := by
    split
    · split
      · exact l1Clean_cache ..
      · exact CacheFrame.refl c s
    · exact CacheFrame.refl c s
  exact room.trans (CacheFrame.setFifo c _ fun k => fifoInsert id home a k.ms.fifo)

theorem l1Store_cache (s : State) (c : CoreId) (id : Nat) (g : Seg) (a : Nat) (bs : List Byte) (p : Bool) :
    CacheFrame c s (s.l1Store c id g a bs p) := by
  unfold State.l1Store
  simp only
  split
  · refine CacheFrame.trans ?_ (CacheFrame.setL1 c _ _)
    split
    · exact fifoAdd_cache ..
    · exact CacheFrame.refl c s
  · exact ((l1Room_cache ..).trans (fifoAdd_cache ..)).trans (CacheFrame.setL1 c _ _)

theorem l1Load_cache (s : State) (c : CoreId) (install row : Bool) (g : Seg) (a l : Nat) : CacheFrame c s (s.l1Load c install row g a l).2.2 := by
  have met : ∀ (b : Bool) (t : State) (r : ErrRec), CacheFrame c s t → CacheFrame c s (if b then t.addRec r else t) := fun b t r h => by
    cases b
    · exact h
    · exact h.trans (CacheFrame.addRecs c t _)
  unfold State.l1Load
  simp only
  split
  · exact met _ _ _ ((CacheFrame.setL1 c s _).trans (CacheFrame.addRecs c _ _))
  · have fill := fun m l => CacheFrame.putMem c s m l
    split
    · refine met _ _ _ ?_
      split
      · exact ((fill _ _).trans (CacheFrame.setL1 c _ _)).trans (CacheFrame.addRecs c _ _)
      · exact fill _ _
    · dsimp only
      split
      · exact ((fill _ _).trans (l1Room_cache ..)).trans (CacheFrame.setL1 c _ _)
      · exact fill _ _

end Sys2Proof.Scope
end

section
/-! What a walk of a grove gives its cores (R44, R45), and that a trigger changes nothing else of another core (O59). -/

namespace Sys2Proof.Scope

open Sys2Proof Sys2Proof.Machine

/-! ### Walks of a grove (R45) -/

/-- What a walk gives a core: entries of its TLB, reports for a later boundary, and the end of some of its own walks. -/
def WalkGiven (k l : Core) : Prop :=
  ∃ new walks tlb, l = { k with reports := k.reports ++ new, ms := { k.ms with walks := walks, tlb := tlb } } ∧ ∀ w ∈ walks, w ∈ k.ms.walks

theorem WalkGiven.refl (k : Core) : WalkGiven k k := ⟨[], k.ms.walks, k.ms.tlb, by rw [List.append_nil], fun _ h => h⟩

theorem WalkGiven.trans {k l m : Core} (h : WalkGiven k l) (h' : WalkGiven l m) : WalkGiven k m := by
  obtain ⟨new, walks, tlb, rfl, hw⟩ := h
  obtain ⟨new', walks', tlb', rfl, hw'⟩ := h'
  exact ⟨new ++ new', walks', tlb', by rw [← List.append_assoc], fun w hm => hw w (hw' w hm)⟩

/-- The device outside its cores, but for memory and records, and the bundle in progress. -/
structure SameQueues (s t : State) : Prop where
  sched : t.sched = s.sched
  sysCopies : t.sysCopies = s.sysCopies
  queues : t.queues = s.queues

theorem SameQueues.trans {s t u : State} (h : SameQueues s t) (h' : SameQueues t u) : SameQueues s u :=
  ⟨h'.sched.trans h.sched, h'.sysCopies.trans h.sysCopies, h'.queues.trans h.queues⟩

/-- What walks of grove g do: its cores take what a walk gives them, and no other core changes. -/
structure WalkFrame (g : Fin 8) (s t : State) : Prop where
  queues : SameQueues s t
  ctx : t.ctx = s.ctx
  outside : ∀ d, groveOf d ≠ g → t.core d = s.core d
  inside : ∀ d, WalkGiven (s.core d) (t.core d)

theorem WalkFrame.refl (g : Fin 8) (s : State) : WalkFrame g s s := ⟨⟨rfl, rfl, rfl⟩, rfl, fun _ _ => rfl, fun _ => WalkGiven.refl _⟩

theorem WalkFrame.trans {g : Fin 8} {s t u : State} (h : WalkFrame g s t) (h' : WalkFrame g t u) : WalkFrame g s u :=
  ⟨h.queues.trans h'.queues, h'.ctx.trans h.ctx, fun d hd => (h'.outside d hd).trans (h.outside d hd), fun d => (h.inside d).trans (h'.inside d)⟩

theorem WalkFrame.putMem (g : Fin 8) (s : State) (m : Mem) (l : List ErrRec) : WalkFrame g s ({ s with mem := m }.addRecs l) :=
  ⟨⟨rfl, rfl, rfl⟩, rfl, fun _ _ => rfl, fun _ => WalkGiven.refl _⟩

/-- A core of the grove takes what a walk gives it. -/
theorem WalkFrame.modCore (g : Fin 8) (s : State) (c : CoreId) (f : Core → Core) (hc : groveOf c = g) (hf : ∀ k, WalkGiven k (f k)) :
    WalkFrame g s (s.modCore c f) := by
  refine ⟨⟨rfl, rfl, rfl⟩, rfl, fun d hd => ?_, fun d => ?_⟩
  · exact State.core_modCore_other s c d f fun e => hd (e ▸ hc)
  · by_cases h : d = c
    · subst h
      rw [State.core_modCore_self]
      exact hf _
    · rw [State.core_modCore_other s c d f h]
      exact WalkGiven.refl _

theorem WalkFrame.foldl {α : Type} {g : Fin 8} (f : State → α → State) (l : List α) (s : State)
    (hf : ∀ s, ∀ x ∈ l, WalkFrame g s (f s x)) : WalkFrame g s (l.foldl f s) :=
  List.foldlRecOn l f (WalkFrame.refl g s) fun _ h x hx => h.trans (hf _ x hx)

theorem tlbFill_walk (s : State) (c : CoreId) (t : TlbEnt) (grove : Bool) : WalkFrame (groveOf c) s (s.tlbFill c t grove) := by
  have fill : WalkFrame (groveOf c) s (s.modCore c fun k => { k with ms.tlb := tlbAdd 2048 t k.ms.tlb }) :=
    WalkFrame.modCore _ s c _ rfl fun k => ⟨[], k.ms.walks, _, by rw [List.append_nil], fun _ h => h⟩
  unfold State.tlbFill
  cases grove
  · exact fill
  · exact fill.trans ⟨⟨rfl, rfl, rfl⟩, rfl, fun _ _ => rfl, fun _ => WalkGiven.refl _⟩

theorem transHit_walk (s : State) (c : CoreId) (dom : Nat) (k : AccKind) (ea : W64) (l : Nat) : WalkFrame (groveOf c) s (s.transHit c dom k ea l).2 := by
  unfold State.transHit
  simp only
  split
  · exact WalkFrame.refl _ s
  · split
    · split
      · exact WalkFrame.refl _ s
      · split <;> exact WalkFrame.refl _ s
    · split
      · exact WalkFrame.refl _ s
      · split
        · split <;> exact WalkFrame.refl _ s
        · split
          · split <;> exact tlbFill_walk s c _ false
          · exact WalkFrame.refl _ s

/-- An access page by page changes what its pages change. -/
theorem transBy_walk (g : Fin 8) (f : State → W64 → Nat → TransRes × State) (hf : ∀ s a l, WalkFrame g s (f s a l).2) (s : State) (ea : W64) (n : Nat) :
    WalkFrame g s (s.transBy f ea n).2 := by
  unfold State.transBy
  refine List.foldlRecOn (motive := fun (acc : TransRes × State) => WalkFrame g s acc.2) _ _ (WalkFrame.refl g s) fun acc h p _ => ?_
  have piece := h.trans (hf acc.2 (BitVec.ofNat 64 p.1) p.2)
  split
  · generalize f acc.2 (BitVec.ofNat 64 p.1) p.2 = q at piece ⊢
    obtain ⟨r, t⟩ := q
    cases r <;> exact piece
  · exact h

theorem failWalks_walk (s : State) (g : Fin 8) (dom page : Nat) (cc : Byte) (lv : Nat) : WalkFrame g s (s.failWalks g dom page cc lv) := by
  unfold State.failWalks
  refine WalkFrame.foldl _ _ s fun s c _ => ?_
  split
  · exact WalkFrame.refl g s
  · next hg =>
    obtain rfl : groveOf c = g := not_not.1 hg
    refine WalkFrame.foldl _ _ s fun s w _ => ?_
    refine (transBy_walk _ _ (fun s a l => transHit_walk s c dom w.kind a l) s w.ea w.n).trans (WalkFrame.modCore _ _ c _ rfl fun k => ?_)
    exact ⟨_, k.ms.walks.filter _, k.ms.tlb, rfl, fun _ h => (List.mem_filter.1 h).1⟩

theorem walkGrove_walk (s : State) (c : CoreId) (dom va : Nat) : WalkFrame (groveOf c) s (s.walkGrove c dom va).2 := by
  unfold State.walkGrove
  generalize walkVa s dom va = r
  obtain ⟨w, m, rs⟩ := r
  have walked := WalkFrame.putMem (groveOf c) s m (inDomain dom rs)
  cases w with
  | leaf e lv pa => exact walked.trans (tlbFill_walk _ c _ true)
  | fault cc lv => exact walked.trans (failWalks_walk _ _ dom (va / 65536) cc lv)

/-- The misses of a grove are misses of its cores. -/
theorem groveOf_of_mem_misses (s : State) (g : Fin 8) (m : Nat × CoreId × Nat × Nat × Walk) (h : m ∈ s.misses g) : groveOf m.2.1 = g := by
  obtain ⟨c, -, hc⟩ := List.mem_flatMap.1 h
  split at hc
  · simp at hc
  · next hg =>
    obtain ⟨w, -, hw⟩ := List.mem_filterMap.1 hc
    obtain ⟨a, -, rfl⟩ := Option.map_eq_some_iff.1 hw
    exact not_not.1 hg

theorem drainWalks_walk (g : Fin 8) (n : Nat) (s : State) : WalkFrame g s (s.drainWalks g n) := by
  induction n generalizing s with
  | zero => exact WalkFrame.refl g s
  | succ n ih =>
    unfold State.drainWalks
    simp only
    split
    · exact WalkFrame.refl g s
    · split
      · next m hm =>
        have hg : groveOf m.2.1 = g := groveOf_of_mem_misses s g m (List.mem_of_find?_eq_some hm)
        refine WalkFrame.trans ?_ (ih _)
        rw [← hg]
        exact walkGrove_walk ..
      · exact WalkFrame.refl g s

theorem transPiece_walk (s : State) (c : CoreId) (dom : Nat) (k : AccKind) (walk : Bool) (ea : W64) (l : Nat) :
    WalkFrame (groveOf c) s (s.transPiece c dom k walk ea l).2 := by
  have first := transHit_walk s c dom k ea l
  unfold State.transPiece
  generalize s.transHit c dom k ea l = q at first ⊢
  obtain ⟨r, s1⟩ := q
  cases r with
  | ok segs => exact first
  | fault cc d a => exact first
  | miss =>
    cases walk
    · exact first
    · have drained := first.trans (drainWalks_walk (groveOf c) (2 * (s1.misses (groveOf c)).length) s1)
      simp only [Bool.not_true, Bool.false_eq_true, if_false]
      generalize s1.drainWalks (groveOf c) (2 * (s1.misses (groveOf c)).length) = s2 at drained ⊢
      have second := drained.trans (transHit_walk s2 c dom k ea l)
      generalize s2.transHit c dom k ea l = q at second ⊢
      obtain ⟨r, s3⟩ := q
      cases r with
      | ok segs => exact second
      | fault cc d a => exact second
      | miss =>
        have third := second.trans (walkGrove_walk s3 c dom ea.toNat)
        dsimp only
        generalize s3.walkGrove c dom ea.toNat = q at third ⊢
        obtain ⟨r, s4⟩ := q
        cases r with
        | fault cc lv => exact third
        | leaf e lv pa => dsimp only; split <;> exact third

theorem transCore_walk (s : State) (c : CoreId) (dom : Nat) (k : AccKind) (walk : Bool) (ea : W64) (n : Nat) :
    WalkFrame (groveOf c) s (s.transCore c dom k walk ea n).2 :=
  transBy_walk _ _ (fun s a l => transPiece_walk s c dom k walk a l) s ea n

/-! ### What a trigger changes beside its own core -/

/-- What O59 grants a trigger of core c: other cores take what a walk of its grove gives them, and nothing else. -/
structure Apart (c : CoreId) (s t : State) : Prop where
  queues : SameQueues s t
  outside : ∀ d, d ≠ c → groveOf d ≠ groveOf c → t.core d = s.core d
  inside : ∀ d, d ≠ c → WalkGiven (s.core d) (t.core d)

theorem Apart.trans {c : CoreId} {s t u : State} (h : Apart c s t) (h' : Apart c t u) : Apart c s u :=
  ⟨h.queues.trans h'.queues, fun d hd hg => (h'.outside d hd hg).trans (h.outside d hd hg), fun d hd => (h.inside d hd).trans (h'.inside d hd)⟩

/-- The same, with the core of the bundle in progress kept: a step inside a trigger. -/
structure Within (s t : State) : Prop where
  core : t.ctx.core = s.ctx.core
  apart : Apart s.ctx.core s t

/-- A trigger as a whole, which may have cancelled its bundle. -/
def Quiet (s t : State) : Prop := Apart s.ctx.core s t

theorem Within.quiet {s t : State} (h : Within s t) : Quiet s t := h.apart

theorem Within.then {s t u : State} (h : Within s t) (h' : Quiet t u) : Quiet s u := by
  unfold Quiet at *
  rw [h.core] at h'
  exact h.apart.trans h'

theorem Within.trans {s t u : State} (h : Within s t) (h' : Within t u) : Within s u := ⟨h'.core.trans h.core, h.then h'.quiet⟩

theorem Within.of_walk {s t : State} (h : WalkFrame (groveOf s.ctx.core) s t) : Within s t :=
  ⟨by rw [h.ctx], h.queues, fun d _ hg => h.outside d hg, fun d _ => h.inside d⟩

theorem Within.of_coreOnly {s t : State} (h : CoreOnly s.ctx.core s t) : Within s t :=
  ⟨by rw [h.ctx], ⟨h.sched, h.sysCopies, h.queues⟩, fun d hd _ => h.others d hd, fun d hd => by rw [h.others d hd]; exact WalkGiven.refl _⟩

theorem Within.refl (s : State) : Within s s := Within.of_coreOnly (CoreOnly.refl _ s)

theorem Within.modMe (s : State) (f : Core → Core) : Within s (s.modMe f) := Within.of_coreOnly (CoreOnly.modCore _ s f)

theorem Within.putMem (s : State) (m : Mem) (l : List ErrRec) : Within s ({ s with mem := m }.addRecs l) := Within.of_coreOnly (CoreOnly.putMem _ s m l)

theorem Within.addRecs (s : State) (l : List ErrRec) : Within s (s.addRecs l) := Within.of_coreOnly (CoreOnly.addRecs _ s l)

/-- What the bundle collects for its end is no part of a core. -/
theorem Within.setCtx (s : State) (x : Ctx) (h : x.core = s.ctx.core) : Within s { s with ctx := x } :=
  ⟨h, ⟨rfl, rfl, rfl⟩, fun _ _ _ => rfl, fun _ _ => WalkGiven.refl _⟩

theorem Within.foldl {α : Type} (f : State → α → State) (hf : ∀ s x, Within s (f s x)) (l : List α) (s : State) : Within s (l.foldl f s) :=
  List.foldlRecOn l f (Within.refl s) fun _ h x _ => h.trans (hf _ x)

theorem takeTrap_queues (s : State) (c : CoreId) (n : Nat) (t : Trap) : SameQueues s (s.takeTrap c n t) := by
  unfold State.takeTrap
  simp only
  (repeat' split) <;> exact ⟨rfl, rfl, rfl⟩

/-- A cancelled bundle leaves the other cores alone (R10). -/
theorem raise_quiet (s : State) (code detail : Byte) (addr : W64) : Quiet s (s.raise code detail addr) := by
  have others : SameOthers s.ctx.core s (s.raise code detail addr) := fun d hd => by
    rw [raise_eq, State.takeTrap_others _ _ _ _ d hd, cancelled_others s d hd]
  refine ⟨?_, fun d hd _ => others d hd, fun d hd => by rw [others d hd]; exact WalkGiven.refl _⟩
  have queues : SameQueues s (cancelled s) := ⟨rfl, rfl, rfl⟩
  rw [raise_eq]
  exact queues.trans (takeTrap_queues (cancelled s) _ _ _)

theorem illegal_quiet (s : State) (d : Byte) : Quiet s (s.illegal d) := raise_quiet ..

theorem raiseAt_quiet (s : State) (t : Byte × Byte × W64) : Quiet s (s.raiseAt t) := raise_quiet ..

/-! ### The parts that triggers are made of -/

theorem eff_within (s : State) (p : Place) (ea : W64) (e : CEffKind) : Within s (s.eff p ea e) :=
  (Within.modMe s _).trans (Within.setCtx _ _ rfl)

theorem signal_within (s : State) (tok : Option Nat) (g : Signal) : Within s (s.signal tok g) :=
  (eff_within s _ _ _).trans (Within.setCtx _ _ rfl)

theorem withhold_within (s : State) (p : Place) (ea : W64) (e : WhKind) : Within s (s.withhold p ea e) :=
  (Within.modMe s _).trans (Within.modMe _ _)

theorem promise_within (s : State) (p : Pend) : Within s (s.promise p) := Within.modMe s _

theorem bumpId_within (s : State) : Within s s.bumpId := Within.modMe s _

theorem settleWalk_within (s : State) (walk : Bool) (w : Walk) : Within s (s.settleWalk s.ctx.core walk w) := by
  have walked := Within.of_walk (transCore_walk s s.ctx.core (s.core s.ctx.core).domain w.kind walk w.ea w.n)
  unfold State.settleWalk
  generalize s.transCore s.ctx.core (s.core s.ctx.core).domain w.kind walk w.ea w.n = q at walked ⊢
  obtain ⟨r, t⟩ := q
  have own : ∀ f, Within t (t.modCore s.ctx.core f) := fun f => by rw [← walked.core]; exact Within.modMe t f
  cases r with
  | miss => exact walked
  | fault cc d a => exact walked.trans (own _)
  | ok segs =>
    dsimp only
    split
    · exact walked.trans ((own _).trans (Within.setCtx _ _ rfl))
    · exact walked.trans (own _)

/-- The walks of a list that the core in progress lets end. -/
theorem settleWalks_within (l : List Walk) (s : State) : Within s (l.foldl (fun s w => s.settleWalk s.ctx.core true w) s) :=
  Within.foldl _ (fun s w => settleWalk_within s true w) l s

theorem overfull_within (s : State) : Within s s.overfull.2 := by
  unfold State.overfull
  split
  · exact Within.refl s
  · exact settleWalks_within _ s

theorem withholdStore_quiet (s : State) (p : Place) (ea : W64) (bs : List Byte) (poison : Bool) : Quiet s (s.withholdStore p ea bs poison) := by
  have stored := (withhold_within s p ea (.store bs poison)).trans (overfull_within _)
  unfold State.withholdStore
  generalize (s.withhold p ea (.store bs poison)).overfull = q at stored ⊢
  obtain ⟨full, t⟩ := q
  cases full
  · exact stored.quiet
  · exact stored.then (raise_quiet ..)

end Sys2Proof.Scope
end

section
/-! The triggers one by one (O59): each is built of the parts of the file before, or cancels its bundle. -/

namespace Sys2Proof.Scope

open Sys2Proof Sys2Proof.Machine

/-- A meaning that changes nothing of another core but what a walk gives it. -/
def Keeps (f : State → Out) : Prop := ∀ s t, f s = .next t → Quiet s t

/-- A trigger with a 64-bit port does nothing, cancels its bundle, or does its operation. -/
theorem keeps_trig (m : Mv) (f : State → W64 → State) (hf : ∀ s b, Quiet s (f s b)) : Keeps fun s => s.trig m (f s) := by
  intro s t h
  dsimp only at h
  by_cases live : s.live m = true
  · cases hp : (s.srcVal m).poisoned
    · rw [State.trig_live s m _ live hp] at h
      cases h
      exact hf s _
    · rw [State.trig_poisoned s m _ live hp] at h
      cases h
      exact raise_quiet s 0x03 0 0
  · rw [State.trig_dead s m _ (by simpa using live)] at h
    cases h
    exact (Within.refl s).quiet

theorem keeps_trigR (m : Mv) (f : State → RowT → State) (hf : ∀ s b, Quiet s (f s b)) : Keeps fun s => s.trigR m (f s) := by
  intro s t h
  dsimp only at h
  by_cases live : s.live m = true
  · rw [State.trigR_live s m _ live] at h
    cases h
    exact hf s _
  · rw [State.trigR_dead s m _ (by simpa using live)] at h
    cases h
    exact (Within.refl s).quiet

theorem keeps_trigRS (src : Byte) (m : Mv) (f : State → RowT → State) (hf : ∀ s b, Quiet s (f s b)) : Keeps fun s => s.trigRS src m (f s) := by
  refine keeps_trigR m (fun s r => if r.tag.getLsbD 0 then s.raise 0x03 src else f s r) fun s b => ?_
  by_cases bad : b.tag.getLsbD 0 = true
  · rw [if_pos bad]
    exact raise_quiet s _ _ _
  · rw [if_neg bad]
    exact hf s b

theorem modMe_quiet (s : State) (f : Core → Core) : Quiet s (s.modMe f) := (Within.modMe s f).quiet
theorem fly_quiet (s : State) (p b : Nat) (v : Val) : Quiet s (s.fly p b v) := modMe_quiet s _
theorem setCtx_quiet (s : State) (x : Ctx) (h : x.core = s.ctx.core) : Quiet s { s with ctx := x } := (Within.setCtx s x h).quiet
theorem refl_quiet (s : State) : Quiet s s := (Within.refl s).quiet
theorem eff_quiet (s : State) (p : Place) (ea : W64) (e : CEffKind) : Quiet s (s.eff p ea e) := (eff_within s p ea e).quiet
theorem signal_quiet (s : State) (tok : Option Nat) (g : Signal) : Quiet s (s.signal tok g) := (signal_within s tok g).quiet
theorem withhold_quiet (s : State) (p : Place) (ea : W64) (e : WhKind) : Quiet s (s.withhold p ea e) := (withhold_within s p ea e).quiet

/-! ### `sa`, `pr` and `ctl` -/

theorem keeps_saOp (u : Fin 2) (m : Mv) (bound : Nat) (f : W64 → W64 → W64 → W64 → W64) : Keeps (saOp u m bound f) :=
  keeps_trig m _ fun s _ => fly_quiet s _ _ _

theorem keeps_prOp (m : Mv) (f : W64 → W64 → Bool) : Keeps (prOp m f) := keeps_trig m _ fun s _ => fly_quiet s _ _ _

theorem keeps_prRange (m : Mv) (all : Bool) : Keeps (prRange m all) := keeps_trig m _ fun s b => by
  dsimp only
  split
  · exact illegal_quiet s _
  · exact fly_quiet s _ _ _

theorem keeps_jump (m : Mv) : Keeps (execJump m) := keeps_trig m _ fun s b => by
  dsimp only
  split
  · exact setCtx_quiet s _ rfl
  · exact illegal_quiet s _

theorem keeps_jlink (m : Mv) : Keeps (execJlink m) := keeps_trig m _ fun s b => by
  dsimp only
  split
  · exact (Within.setCtx s { s.ctx with next := some b } rfl).then (fly_quiet _ _ _ _)
  · exact illegal_quiet s _

theorem keeps_loopset (m : Mv) : Keeps (execLoopset m) := keeps_trig m _ fun s b => by
  dsimp only
  split
  · exact setCtx_quiet s _ rfl
  · exact illegal_quiet s _

theorem keeps_loopend (m : Mv) : Keeps (execLoopend m) := keeps_trig m _ fun s b => by
  dsimp only
  split <;> exact setCtx_quiet s _ rfl

theorem keeps_endTask (m : Mv) : Keeps (execEndTask m) := keeps_trig m _ fun s _ => eff_quiet s _ _ _

theorem keeps_kwait (m : Mv) : Keeps (execKwait m) := keeps_trig m _ fun s b => by
  split
  · exact illegal_quiet s _
  · split
    · exact raise_quiet s _ _ _
    · exact refl_quiet s

theorem keeps_kpoll (m : Mv) : Keeps (execKpoll m) := keeps_trig m _ fun s _ => fly_quiet s _ _ _

theorem keeps_kfree (m : Mv) : Keeps (execKfree m) := keeps_trig m _ fun s b => by
  split
  · exact illegal_quiet s _
  · exact eff_quiet s _ _ _

theorem keeps_rdcyc (m : Mv) : Keeps (execRdcyc m) := keeps_trig m _ fun s _ => fly_quiet s _ _ _

theorem keeps_swtrap (m : Mv) : Keeps (execSwtrap m) := keeps_trig m _ fun s _ => raise_quiet s _ _ _

/-! ### `sys` -/

theorem keeps_csrr (m : Mv) : Keeps (execCsrr m) := keeps_trig m _ fun s b => by
  generalize (if b.toNat < 4096 then csrRead s s.ctx.core b.toNat else none) = r
  cases r with
  | none => exact illegal_quiet s _
  | some v => exact fly_quiet s _ _ _

theorem keeps_csrw (m : Mv) : Keeps (execCsrw m) := keeps_trig m _ fun s b => by
  dsimp only
  split
  · exact illegal_quiet s _
  · split
    · exact setCtx_quiet s _ rfl
    · split
      · exact illegal_quiet s _
      · exact eff_quiet s _ _ _

theorem keeps_launch (m : Mv) : Keeps (execLaunch m) := keeps_trig m _ fun s b => by
  split
  · exact illegal_quiet s _
  · exact ((signal_within s _ _).trans (promise_within _ _)).quiet

theorem keeps_eret (m : Mv) : Keeps (execEret m) := keeps_trig m _ fun s b => by
  dsimp only
  split
  · exact setCtx_quiet s _ rfl
  · exact illegal_quiet s _

theorem keeps_bkpt (m : Mv) : Keeps (execBkpt m) := keeps_trig m _ fun s b => by
  split
  · exact raise_quiet s _ _ _
  · exact refl_quiet s

theorem keeps_idle (m : Mv) : Keeps (execIdle m) := keeps_trig m _ fun s _ => refl_quiet s

theorem keeps_tlbinv (m : Mv) : Keeps (execTlbinv m) := keeps_trig m _ fun s b => by
  dsimp only
  split
  · exact illegal_quiet s _
  · exact eff_quiet s _ _ _

theorem keeps_l1inv (m : Mv) : Keeps (execL1inv m) := keeps_trig m _ fun s _ => eff_quiet s _ _ _

theorem keeps_mpload (m : Mv) : Keeps (execMpload m) := keeps_trig m _ fun s b => by
  dsimp only
  split
  · exact illegal_quiet s _
  · split
    · exact raise_quiet s _ _ _
    · exact signal_quiet s _ _

/-! ### `va`, `sf` and `tt` -/

theorem keeps_vaOp (u : Fin 3) (m : Mv) (cls : VClass) (masked : Bool) (f : VCtx → Option VRes) : Keeps (vaOp u m cls masked f) :=
  keeps_trigR m _ fun s b => by
    dsimp only
    split
    · exact illegal_quiet s _
    · split
      · exact illegal_quiet s _
      · split
        · exact illegal_quiet s _
        · exact modMe_quiet s _

theorem keeps_vaRaw (u : Fin 3) (m : Mv) (f : RowT → RowT → RowT → Row) (readC : Bool) : Keeps (vaRaw u m f readC) :=
  keeps_trigR m _ fun s b => by
    dsimp only
    split
    · exact illegal_quiet s _
    · exact modMe_quiet s _

theorem keeps_vaPoison (u : Fin 3) (m : Mv) (f : RowT → W64 → RowT) : Keeps (vaPoison u m f) := keeps_trigR m _ fun s _ => modMe_quiet s _

theorem keeps_sfOp (m : Mv) (useA : Bool) (f : Nat → Nat → Nat) : Keeps (sfOp m useA f) := keeps_trigR m _ fun s b => by
  dsimp only
  split
  · exact illegal_quiet s _
  · exact modMe_quiet s _

theorem keeps_ttw (m : Mv) : Keeps (execTtw m) := keeps_trigR m _ fun s b => by
  dsimp only
  split
  · exact illegal_quiet s _
  · exact modMe_quiet s _

theorem keeps_ttr (m : Mv) : Keeps (execTtr m) := keeps_trig m _ fun s b => by
  dsimp only
  split
  · exact illegal_quiet s _
  · exact fly_quiet s _ _ _

theorem keeps_ttclr (m : Mv) : Keeps (execTtclr m) := keeps_trig m _ fun s b => by
  split
  · exact illegal_quiet s _
  · exact modMe_quiet s _

theorem keeps_ttcvt (m : Mv) : Keeps (execTtcvt m) := keeps_trig m _ fun s b => by
  dsimp only
  split
  · exact illegal_quiet s _
  · split
    · exact illegal_quiet s _
    · split
      · split
        · exact illegal_quiet s _
        · exact fly_quiet s _ _ _
      · exact illegal_quiet s _

/-! ### `ls`: local accesses -/

theorem localBytesFor_within (s : State) (off n : Nat) : Within s (s.localBytesFor off n).2.2 := by
  unfold State.localBytesFor
  dsimp only
  split
  · exact (Within.modMe s _).trans (Within.addRecs _ _)
  · exact Within.refl s

theorem keeps_ldScalar (u : Fin 2) (m : Mv) (n : Nat) (signed : Bool) : Keeps (ldScalar u m n signed) := keeps_trig m _ fun s b => by
  dsimp only
  split
  · exact raiseAt_quiet s _
  · have read := localBytesFor_within s (s.me.lsA u + b).toNat n
    generalize s.localBytesFor (s.me.lsA u + b).toNat n = q at read ⊢
    obtain ⟨bs, bad, t⟩ := q
    dsimp only at read ⊢
    split
    · exact (read.trans ((Within.modMe t _).trans (Within.addRecs _ _))).then (modMe_quiet _ _)
    · exact read.then (modMe_quiet t _)

theorem keeps_stScalar (u : Fin 2) (m : Mv) (n : Nat) : Keeps (stScalar u m n) := keeps_trig m _ fun s b => by
  dsimp only
  split
  · exact raiseAt_quiet s _
  · exact withholdStore_quiet s _ _ _ _

theorem keeps_vld (u : Fin 2) (m : Mv) : Keeps (execVld u m) := keeps_trig m _ fun s b => by
  dsimp only
  split
  · exact raiseAt_quiet s _
  · have read := localBytesFor_within s (s.me.lsA u + b).toNat 512
    generalize s.localBytesFor (s.me.lsA u + b).toNat 512 = q at read ⊢
    obtain ⟨bs, bad, t⟩ := q
    dsimp only at read ⊢
    split
    · exact (read.trans (Within.addRecs t _)).then (modMe_quiet _ _)
    · exact read.then (modMe_quiet t _)

theorem keeps_vst (u : Fin 2) (m : Mv) : Keeps (execVst u m) := keeps_trigR m _ fun s b => by
  dsimp only
  split
  · exact raiseAt_quiet s _
  · exact withholdStore_quiet s _ _ _ _

/-- A read that mends words, records errors and stalls the bundle. -/
theorem stalledRead_within (s : State) (f : Core → Core) (l : List ErrRec) (n : Nat) :
    Within s { (s.modMe f).addRecs l with ctx := { s.ctx with stall := max s.ctx.stall n } } :=
  (Within.modMe s f).trans ((Within.addRecs _ l).trans (Within.setCtx _ _ rfl))

theorem keeps_vldg (u : Fin 2) (m : Mv) : Keeps (execVldg u m) := keeps_trigRS 1 m _ fun s b => by
  dsimp only
  split
  · exact illegal_quiet s _
  · split
    · exact raiseAt_quiet s _
    · exact (stalledRead_within s _ _ _).then (modMe_quiet _ _)

theorem keeps_vsts (u : Fin 2) (m : Mv) : Keeps (execVsts u m) := keeps_trigR m _ fun s b => by
  dsimp only
  split
  · exact raise_quiet s _ _ _
  · split
    · exact illegal_quiet s _
    · split
      · exact raiseAt_quiet s _
      · have stored := fun l : List (Nat × List Byte) => Within.foldl
          (fun s p => s.withhold (.loc p.1) (BitVec.ofNat 64 p.1) (.store p.2 (b.tag.getLsbD 0))) (fun s p => withhold_within s _ _ _) l s
        split
        · exact ((stored _).trans (overfull_within _)).then (raise_quiet _ _ _ _)
        · exact ((stored _).trans (overfull_within _)).quiet

/-! ### `ls`: global and remote accesses -/

theorem touchStack_within (s : State) (ea : W64) (n : Nat) : Within s (s.touchStack ea n) := Within.modMe s _

/-- Of several faults of a bundle the lowest slot's is reported: the walks of lower slots end first (R49). -/
theorem raiseXl_quiet (s : State) (c d : Byte) (a : W64) : Quiet s (s.raiseXl c d a) := by
  have settled := settleWalks_within (s.me.ms.walks.filter fun w => w.org.seq = s.me.seq) s
  unfold State.raiseXl
  generalize (s.me.ms.walks.filter fun w => w.org.seq = s.me.seq).foldl (fun s w => s.settleWalk s.ctx.core true w) s = t at settled ⊢
  dsimp only
  split
  · next r _ =>
    have turn : Within t { t with cur := { t.cur with slot := r.trap.slot.toNat } } :=
      ⟨rfl, ⟨rfl, rfl, rfl⟩, fun _ _ _ => rfl, fun _ _ => WalkGiven.refl _⟩
    exact (settled.trans turn).then (raise_quiet _ _ _ _)
  · exact settled.then (raise_quiet _ _ _ _)

/-- Where a global access goes, or the state in which its bundle is cancelled. -/
theorem globalPlace_within (s : State) (kind : AccKind) (ea : W64) (n : Nat) :
    match s.globalPlace kind ea n with
    | .error t => Quiet s t
    | .ok (_, t) => Within s t := by
  have touched := touchStack_within s ea n
  unfold State.globalPlace
  dsimp only
  generalize s.touchStack ea n = s1 at touched ⊢
  have walked := touched.trans (Within.of_walk (transCore_walk s1 s1.ctx.core s1.me.domain kind false ea n))
  generalize s1.transCore s1.ctx.core s1.me.domain kind false ea n = q at walked ⊢
  obtain ⟨r, t⟩ := q
  cases r with
  | fault c d a => exact walked.then (raiseXl_quiet t c d a)
  | ok segs => exact walked
  | miss => exact walked.trans (Within.modMe t _)

theorem globalLoad_quiet (port : Nat) (kind : AccKind) (align n : Nat) (signed row : Bool) (ea : W64) (s : State) :
    Quiet s (globalLoad port kind align n signed row ea s) := by
  unfold globalLoad
  split
  · exact (touchStack_within s ea n).then (raise_quiet _ _ _ _)
  · have placed := globalPlace_within s kind ea n
    generalize s.globalPlace kind ea n = q at placed ⊢
    cases q with
    | error t => exact placed
    | ok q => exact (Within.trans placed ((promise_within _ _).trans (bumpId_within _))).quiet

theorem globalStore_quiet (align : Nat) (bs : List Byte) (poison : Bool) (ea : W64) (s : State) : Quiet s (globalStore align bs poison ea s) := by
  unfold globalStore
  split
  · exact (touchStack_within s ea _).then (raise_quiet _ _ _ _)
  · have placed := globalPlace_within s .store ea bs.length
    generalize s.globalPlace .store ea bs.length = q at placed ⊢
    cases q with
    | error t => exact placed
    | ok q => exact Within.then placed (withholdStore_quiet _ _ _ _ _)

theorem keeps_gld (u : Fin 2) (m : Mv) : Keeps (execGld u m) := keeps_trig m _ fun s _ => globalLoad_quiet _ _ _ _ _ _ _ s
theorem keeps_gst (u : Fin 2) (m : Mv) : Keeps (execGst u m) := keeps_trig m _ fun s _ => globalStore_quiet _ _ _ _ s
theorem keeps_gvld (u : Fin 2) (m : Mv) : Keeps (execGvld u m) := keeps_trig m _ fun s _ => globalLoad_quiet _ _ _ _ _ _ _ s
theorem keeps_gvst (u : Fin 2) (m : Mv) : Keeps (execGvst u m) := keeps_trigR m _ fun s _ => globalStore_quiet _ _ _ _ s

theorem remoteLoad_quiet (port n align : Nat) (row : Bool) (ea : W64) (s : State) : Quiet s (remoteLoad port n align row ea s) := by
  unfold remoteLoad
  split
  · exact raiseAt_quiet s _
  · dsimp only
    split
    · split
      · exact raiseAt_quiet s _
      · have read := localBytesFor_within s (ea.toNat % 2 ^ 23) n
        generalize s.localBytesFor (ea.toNat % 2 ^ 23) n = q at read ⊢
        obtain ⟨bs, bad, t⟩ := q
        dsimp only at read ⊢
        refine (Within.trans ?_ ((promise_within _ _).trans (bumpId_within _))).quiet
        split
        · exact read.trans ((Within.modMe t _).trans (Within.addRecs _ _))
        · split
          · exact read.trans (Within.addRecs t _)
          · exact read
    · exact ((promise_within s _).trans (bumpId_within _)).quiet

theorem keeps_xld (u : Fin 2) (m : Mv) : Keeps (execXld u m) := keeps_trig m _ fun s _ => remoteLoad_quiet _ _ _ _ _ s
theorem keeps_xvld (u : Fin 2) (m : Mv) : Keeps (execXvld u m) := keeps_trig m _ fun s _ => remoteLoad_quiet _ _ _ _ _ s

theorem keeps_xst (u : Fin 2) (m : Mv) : Keeps (execXst u m) := keeps_trig m _ fun s b => by
  dsimp only
  split
  · exact raiseAt_quiet s _
  · split
    · split
      · exact raiseAt_quiet s _
      · exact withholdStore_quiet s _ _ _ _
    · exact withholdStore_quiet s _ _ _ _

theorem keeps_pref (u : Fin 2) (m : Mv) : Keeps (execPref u m) := keeps_trig m _ fun s b => by
  have walked := Within.of_walk (transCore_walk s s.ctx.core s.me.domain .load true (s.me.lsA u + b) 1)
  dsimp only
  generalize s.transCore s.ctx.core s.me.domain .load true (s.me.lsA u + b) 1 = q at walked ⊢
  obtain ⟨r, t⟩ := q
  dsimp only at walked
  split
  · next g s' e =>
    cases e
    split
    · split
      · exact walked.quiet
      · exact (walked.trans (Within.of_coreOnly (l1Load_cache t t.ctx.core true false g g.pa 1).device)).quiet
    · split
      · exact (walked.trans (Within.putMem t _ _)).quiet
      · exact walked.quiet
  · next s' e =>
    cases e
    exact walked.quiet

end Sys2Proof.Scope
end

section
/-! The triggers one by one, continued (O59): atomics, synchronization, engines and near-memory streams. -/

namespace Sys2Proof.Scope

open Sys2Proof Sys2Proof.Machine

/-! ### `ls`: atomics -/

theorem soonG_quiet (s : State) (port : Nat) (v : W64) : Quiet s (s.soonG port v) := (Within.modMe s _).then (fly_quiet _ _ _ _)

theorem signalAmo_quiet (port : Nat) (place : Place) (ea : W64) (op : AmoOp) (b c : W64) (s : State) : Quiet s (signalAmo port place ea op b c s) :=
  ((eff_within s _ _ _).trans (promise_within _ _)).quiet

theorem localAmo_quiet (fadd : FAdd) (ret : Option Nat) (ea : W64) (off : Nat) (op : AmoOp) (b c : W64) (s : State) :
    Quiet s (localAmo fadd ret ea off op b c s) := by
  have read := localBytesFor_within s off op.width
  unfold localAmo
  generalize s.localBytesFor off op.width = q at read ⊢
  obtain ⟨bs, bad, t⟩ := q
  dsimp only at read ⊢
  split
  · cases ret with
    | none => exact (read.trans (Within.addRecs t [_])).quiet
    | some port =>
      exact (read.trans ((Within.modMe t _).trans ((Within.addRecs _ [_]).trans ((promise_within _ _).trans (bumpId_within _))))).quiet
  · have stored := read.trans ((withhold_within t (.loc off) (BitVec.ofNat 64 off)
      (.store (leBytes op.width (op.apply fadd (BitVec.ofNat 64 (leNat bs)) b c).toNat) false)).trans (overfull_within _))
    generalize (t.withhold (.loc off) (BitVec.ofNat 64 off)
      (.store (leBytes op.width (op.apply fadd (BitVec.ofNat 64 (leNat bs)) b c).toNat) false)).overfull = q at stored ⊢
    obtain ⟨full, u⟩ := q
    cases full
    · cases ret with
      | none => exact stored.quiet
      | some port => exact stored.then (soonG_quiet u port _)
    · exact stored.then (raise_quiet u _ _ _)

theorem keeps_scratchAmo (fadd : FAdd) (u : Fin 2) (m : Mv) (op : AmoOp) (ret : Bool) : Keeps (scratchAmo fadd u m op ret) :=
  keeps_trig m _ fun s b => by
    dsimp only
    split
    · exact raiseAt_quiet s _
    · split
      · exact raiseAt_quiet s _
      · split
        · exact localAmo_quiet _ _ _ _ _ _ _ s
        · split
          · exact withhold_quiet s _ _ _
          · split
            · exact illegal_quiet s _
            · exact signalAmo_quiet _ _ _ _ _ _ s

theorem keeps_globalAmo (u : Fin 2) (m : Mv) (op : AmoOp) (ret : Bool) : Keeps (globalAmo u m op ret) :=
  keeps_trig m _ fun s b => by
    dsimp only
    split
    · exact (touchStack_within s _ _).then (raise_quiet _ _ _ _)
    · have placed := globalPlace_within s .atomic (s.me.lsA u) op.width
      generalize s.globalPlace .atomic (s.me.lsA u) op.width = q at placed ⊢
      cases q with
      | error t => exact placed
      | ok q =>
        dsimp only
        split
        · exact Within.then placed (signalAmo_quiet _ _ _ _ _ _ _)
        · exact Within.then placed (withhold_quiet _ _ _ _)

/-! ### `sy` -/

theorem keeps_drain (m : Mv) : Keeps (execDrain m) := keeps_trig m _ fun s _ => withhold_quiet s _ _ _
theorem keeps_rel (m : Mv) : Keeps (execRel m) := keeps_trig m _ fun s _ => withhold_quiet s _ _ _
theorem keeps_acq (m : Mv) : Keeps (execAcq m) := keeps_trig m _ fun s _ => setCtx_quiet s _ rfl

theorem keeps_fadd (m : Mv) : Keeps (execFadd m) := keeps_trig m _ fun s b => by
  dsimp only
  split
  · exact illegal_quiet s _
  · split
    · exact illegal_quiet s _
    · split
      · exact raiseAt_quiet s _
      · exact signal_quiet s _ _

theorem keeps_fset (m : Mv) : Keeps (execFset m) := keeps_trig m _ fun s b => by
  dsimp only
  split
  · exact illegal_quiet s _
  · split
    · exact raiseAt_quiet s _
    · exact signal_quiet s _ _

theorem keeps_fwait (m : Mv) : Keeps (execFwait m) := keeps_trig m _ fun s b => by
  split
  · exact illegal_quiet s _
  · exact refl_quiet s

theorem keeps_join (m : Mv) : Keeps (execJoin m) := keeps_trig m _ fun s b => by
  split
  · exact illegal_quiet s _
  · exact signal_quiet s _ _

theorem keeps_leave (m : Mv) : Keeps (execLeave m) := keeps_trig m _ fun s b => by
  split
  · exact illegal_quiet s _
  · exact signal_quiet s _ _

theorem keeps_gmask (m : Mv) : Keeps (execGmask m) := keeps_trig m _ fun s b => by
  split
  · exact illegal_quiet s _
  · exact ((promise_within s _).trans (bumpId_within _)).quiet

theorem keeps_hmake (m : Mv) : Keeps (execHmake m) := keeps_trig m _ fun s b => by
  dsimp only
  split
  · exact illegal_quiet s _
  · exact ((signal_within s _ _).trans (promise_within _ _)).quiet

theorem keeps_hgive (m : Mv) : Keeps (execHgive m) := keeps_trig m _ fun s b => by
  split
  · exact illegal_quiet s _
  · split
    · exact raise_quiet s _ _ _
    · exact signal_quiet s _ _

theorem keeps_hlend (m : Mv) : Keeps (execHlend m) := keeps_trig m _ fun s _ => signal_quiet s _ _
theorem keeps_hpool (m : Mv) : Keeps (execHpool m) := keeps_trig m _ fun s _ => signal_quiet s _ _
theorem keeps_hreclaim (m : Mv) : Keeps (execHreclaim m) := keeps_trig m _ fun s _ => signal_quiet s _ _
theorem keeps_hfree (m : Mv) : Keeps (execHfree m) := keeps_trig m _ fun s _ => signal_quiet s _ _

/-! ### `ce`, `cf`, `co`, `aq` and `cim` -/

theorem keeps_ceCpy (m : Mv) : Keeps (execCeCpy m) := keeps_trigRS 3 m _ fun s b => by
  dsimp only
  split
  · exact signal_quiet s _ _
  · exact illegal_quiet s _

theorem keeps_ceCinit (m : Mv) : Keeps (execCeCinit m) := keeps_trig m _ fun s b => by
  dsimp only
  split
  · exact illegal_quiet s _
  · split
    · exact raise_quiet s _ _ _
    · exact eff_quiet s _ _ _

theorem keeps_cfAwait (m : Mv) : Keeps (execCfAwait m) := keeps_trig m _ fun s b => by
  dsimp only
  split
  · exact illegal_quiet s _
  · split
    · exact raise_quiet s _ _ _
    · exact (Within.modMe s _).then (fly_quiet _ _ _ _)

theorem keeps_cfRelease (m : Mv) : Keeps (execCfRelease m) := keeps_trig m _ fun s b => by
  dsimp only
  split
  · exact illegal_quiet s _
  · split
    · exact raise_quiet s _ _ _
    · exact withhold_quiet s _ _ _

theorem keeps_cfStat (m : Mv) : Keeps (execCfStat m) := keeps_trig m _ fun s b => by
  split
  · exact illegal_quiet s _
  · exact fly_quiet s _ _ _

theorem keeps_aqPush (m : Mv) : Keeps (execAqPush m) := keeps_trigR m _ fun s _ => withhold_quiet s _ _ _

theorem keeps_coll (kind : Nat) (m : Mv) : Keeps (collTrigger kind m) := keeps_trig m _ fun s b => by
  dsimp only
  split
  · exact illegal_quiet s _
  · split
    · exact raiseAt_quiet s _
    · exact signal_quiet s _ _

theorem keeps_cimCall (m : Mv) : Keeps (execCimCall m) := keeps_trig m _ fun s b => by
  dsimp only
  split
  · exact illegal_quiet s _
  · exact (signal_within s _ _).then (setCtx_quiet _ _ rfl)

theorem keeps_cimStep (m : Mv) : Keeps (execCimStep m) := keeps_trig m _ fun s b => by
  dsimp only
  split
  · exact signal_quiet s _ _
  · exact illegal_quiet s _

theorem keeps_cimStat (m : Mv) : Keeps (execCimStat m) := keeps_trig m _ fun s _ => fly_quiet s _ _ _

theorem keeps_cimMpsw (m : Mv) : Keeps (execCimMpsw m) := keeps_trig m _ fun s b => by
  dsimp only
  split
  · exact illegal_quiet s _
  · split
    · exact raise_quiet s _ _ _
    · exact eff_quiet s _ _ _

/-! ### `nm` -/

/-- The translation of a command walks for its own core, range by range (R163, R44). -/
theorem nmTranslate_walk (s : State) (r : Row) : WalkFrame (groveOf s.ctx.core) s (nmTranslate s r).2 := by
  unfold nmTranslate
  refine List.foldlRecOn (motive := fun (acc : Except (Byte × Byte × W64) (List Seg) × State) => WalkFrame (groveOf s.ctx.core) s acc.2)
    _ _ (WalkFrame.refl _ s) fun acc h p _ => ?_
  obtain ⟨e, t⟩ := acc
  cases e with
  | error e => exact h
  | ok l =>
    have walked := h.trans (transCore_walk t s.ctx.core s.me.domain (nmKind r) true (BitVec.ofNat 64 p.1) p.2)
    dsimp only
    split
    · exact h
    · generalize t.transCore s.ctx.core s.me.domain (nmKind r) true (BitVec.ofNat 64 p.1) p.2 = q at walked ⊢
      obtain ⟨x, u⟩ := q
      cases x <;> exact walked

theorem Quiet.ite {p : Prop} [Decidable p] {s t u : State} (ht : Quiet s t) (hu : Quiet s u) : Quiet s (if p then t else u) := by
  split
  · exact ht
  · exact hu

theorem keeps_nmCommand (u : Fin 4) (m : Mv) : Keeps (nmCommand u m) := keeps_trigR m _ fun s b => by
  refine .ite (raise_quiet ..) (.ite (raise_quiet ..) (.ite (raise_quiet ..) (.ite (raise_quiet ..) (.ite (raise_quiet ..) ?_))))
  have walked := Within.of_walk (nmTranslate_walk s b.data)
  generalize nmTranslate s b.data = q at walked ⊢
  obtain ⟨x, t⟩ := q
  cases x with
  | error e => exact walked.then (raiseXl_quiet t _ _ _)
  | ok segs =>
    dsimp only
    split
    · exact walked.then (raise_quiet t _ _ _)
    · exact walked.then (signal_quiet t _ _)

theorem keeps_nfence (m : Mv) : Keeps (execNfence m) := keeps_trig m _ fun s _ => by
  dsimp only
  split
  · exact signal_quiet s _ _
  · exact illegal_quiet s _

end Sys2Proof.Scope
end

section
/-! A trigger changes nothing of other cores but what a walk of their grove gives them: the table of triggers (O59). -/

namespace Sys2Proof.Scope

open Sys2Proof Sys2Proof.Machine

/-! ### The trigger table (R236 to R243) -/

theorem keeps_saOps (u : Fin 2) (m : Mv) : ∀ f ∈ saOps, Keeps (exec (f u m)) := by
  simp only [saOps, List.forall_mem_cons, List.not_mem_nil, false_implies, implies_true, and_true]
  unfold Keeps exec
  dsimp only
  and_intros <;> exact keeps_saOp u m _ _

theorem keeps_prOps (m : Mv) : ∀ f ∈ prOps, Keeps (exec (f m)) := by
  simp only [prOps, List.forall_mem_cons]
  unfold Keeps exec
  dsimp only
  exact ⟨keeps_prOp m _, keeps_prOp m _, keeps_prOp m _, keeps_prOp m _, keeps_prRange m _, keeps_prRange m _, nofun⟩

theorem keeps_ctlOps (m : Mv) : ∀ f ∈ ctlOps, Keeps (exec (f m)) := by
  simp only [ctlOps, List.forall_mem_cons]
  exact ⟨keeps_jump m, keeps_jlink m, keeps_loopset m, keeps_loopend m, keeps_endTask m, keeps_kwait m, keeps_kpoll m, keeps_kfree m,
    keeps_rdcyc m, keeps_swtrap m, nofun⟩

theorem keeps_sysOps (m : Mv) : ∀ f ∈ sysOps, Keeps (exec (f m)) := by
  simp only [sysOps, List.forall_mem_cons]
  exact ⟨keeps_csrr m, keeps_csrw m, keeps_launch m, keeps_eret m, keeps_bkpt m, keeps_idle m, keeps_tlbinv m, keeps_l1inv m, keeps_mpload m, nofun⟩

theorem keeps_vaOps (u : Fin 3) (m : Mv) : ∀ f ∈ vaOps, Keeps (exec (f u m)) := by
  have op {cls masked f} : Keeps (vaOp u m cls masked f) := keeps_vaOp u m cls masked f
  have raw {f readC} : Keeps (vaRaw u m f readC) := keeps_vaRaw u m f readC
  have poison {f} : Keeps (vaPoison u m f) := keeps_vaPoison u m f
  simp only [vaOps, List.forall_mem_cons]
  unfold Keeps exec
  dsimp only
  exact ⟨op, op, op, op, op, op, op, op, op, op, op, op, op, op, op, op, op, op, op, op, op, op, op, op, op, op, op, op, op, op, op, op, op,
    op, op, op, op, op, op, raw, raw, op, op, op, op, op, op, poison, poison, poison, nofun⟩

theorem keeps_sfOps (m : Mv) : ∀ f ∈ sfOps, Keeps (exec (f m)) := by
  simp only [sfOps, List.forall_mem_cons, List.not_mem_nil, false_implies, implies_true, and_true]
  unfold Keeps exec
  dsimp only
  and_intros <;> exact keeps_sfOp m _ _

theorem keeps_ttOps (m : Mv) : ∀ f ∈ ttOps, Keeps (exec (f m)) := by
  simp only [ttOps, List.forall_mem_cons]
  exact ⟨keeps_ttw m, keeps_ttr m, keeps_ttclr m, keeps_ttcvt m, nofun⟩

theorem keeps_lsOps (u : Fin 2) (m : Mv) : ∀ f ∈ lsOps, Keeps (exec (f u m)) := by
  have load {n signed} : Keeps (ldScalar u m n signed) := keeps_ldScalar u m n signed
  have store {n} : Keeps (stScalar u m n) := keeps_stScalar u m n
  have sa {fadd op ret} : Keeps (scratchAmo fadd u m op ret) := keeps_scratchAmo fadd u m op ret
  have ga {op ret} : Keeps (globalAmo u m op ret) := keeps_globalAmo u m op ret
  simp only [lsOps, List.forall_mem_cons]
  unfold Keeps exec
  dsimp only
  exact ⟨load, load, load, load, load, load, load, store, store, store, store, keeps_vld u m, keeps_vst u m, keeps_vldg u m, keeps_vsts u m,
    keeps_gld u m, keeps_gst u m, keeps_gvld u m, keeps_gvst u m, keeps_xld u m, keeps_xst u m, keeps_xvld u m, keeps_pref u m, sa, sa, sa,
    sa, sa, sa, sa, sa, sa, ga, ga, ga, ga, ga, ga, sa, sa, sa, sa, sa, sa, sa, sa, sa, ga, ga, ga, ga, ga, ga, nofun⟩

theorem keeps_syOps (m : Mv) : ∀ f ∈ syOps, Keeps (exec (f m)) := by
  simp only [syOps, List.forall_mem_cons]
  exact ⟨keeps_drain m, keeps_rel m, keeps_acq m, keeps_fadd m, keeps_fset m, keeps_fwait m, keeps_join m, keeps_leave m, keeps_gmask m, keeps_hmake m,
    keeps_hgive m, keeps_hlend m, keeps_hpool m, keeps_hreclaim m, keeps_hfree m, nofun⟩

theorem keeps_nmOp (op : Nat) (u : Fin 4) (m : Mv) : Keeps (exec (nmOp op u m)) := by
  unfold nmOp
  split
  · exact keeps_nmCommand u m
  · split <;> exact keeps_nmCommand u m

/-- A place of the trigger table, if it names an operation, names one that keeps the other cores. -/
def OptKeeps (o : Option Instr) : Prop := ∀ i, o = some i → Keeps (exec i)

theorem OptKeeps.none : OptKeeps none := nofun

theorem OptKeeps.some {i : Instr} (h : Keeps (exec i)) : OptKeeps (some i) := fun _ e => Option.some.inj e ▸ h

theorem OptKeeps.ite {p : Prop} [Decidable p] {a b : Option Instr} (ha : OptKeeps a) (hb : OptKeeps b) : OptKeeps (if p then a else b) := by
  split
  · exact ha
  · exact hb

/-- A row of the table: the operations of a unit, from offset 8. -/
theorem OptKeeps.row {α : Type} {l : List α} {n : Nat} {p : Prop} [Decidable p] {f : α → Instr} (h : ∀ x ∈ l, Keeps (exec (f x))) :
    OptKeeps ((l[n]?).bind fun x => if p then Option.none else Option.some (f x)) := by
  intro i e
  obtain ⟨x, hx, e⟩ := Option.bind_eq_some_iff.1 e
  exact OptKeeps.ite OptKeeps.none (OptKeeps.some (h x (List.mem_of_getElem? hx))) i e

theorem keeps_trigOf (op d : Nat) (m : Mv) : OptKeeps (trigOf op d m) := by
  unfold trigOf
  refine .ite .none (.ite (.row (keeps_saOps _ m)) (.ite (.row (keeps_ctlOps m)) (.ite (.row (keeps_prOps m)) (.ite (.row (keeps_vaOps _ m)) ?_))))
  refine .ite (.row (keeps_sfOps m)) (.ite (.row (keeps_ttOps m)) (.ite (.row (keeps_lsOps _ m)) (.ite (.row (keeps_syOps m)) ?_)))
  refine .ite (.some (keeps_ceCpy m)) (.ite (.some (keeps_ceCinit m)) ?_)
  refine .ite (.some (keeps_cfAwait m)) (.ite (.some (keeps_cfRelease m)) (.ite (.some (keeps_cfStat m)) ?_))
  refine .ite (.some (keeps_cimCall m)) (.ite (.some (keeps_cimStep m)) (.ite (.some (keeps_cimStat m)) (.ite (.some (keeps_cimMpsw m)) ?_)))
  refine .ite (.some (keeps_aqPush m)) (.ite (.some (keeps_coll 0 m)) (.ite (.some (keeps_coll 1 m)) (.ite (.some (keeps_coll 2 m)) ?_)))
  refine .ite (.some (keeps_nmOp op 0 m)) (.ite (.some (keeps_nmOp op 1 m)) (.ite (.some (keeps_nmOp op 2 m)) (.ite (.some (keeps_nmOp op 3 m)) ?_)))
  exact .ite (.some (keeps_nfence m)) (.ite .none (.ite (.row (keeps_sysOps m)) .none))

/-- Settles O59: every operation of the trigger table is built of parts that touch only the core of the bundle, or walk for it. -/
theorem triggersLeaveOtherCoresAlone : Obligations.TriggersLeaveOtherCoresAlone := by
  intro op d m i s t ht hs
  obtain ⟨⟨sched, sysCopies, queues⟩, outside, inside⟩ := keeps_trigOf op d m i ht s t hs
  refine ⟨sched, sysCopies, queues, fun c hc => ⟨outside c hc, ?_⟩⟩
  obtain ⟨new, walks, tlb, e, sub⟩ := inside c hc
  rw [e]
  exact ⟨rfl, ⟨new, rfl⟩, sub⟩

end Sys2Proof.Scope
end

section
/-! Stores into local space and the rows of an interval, as a release commits them (R55, R104, R200). -/

namespace Sys2Proof.Scope

open Sys2Proof Sys2Proof.Machine

/-! ### The pieces of an access -/

/-- An access within one unit is one piece. -/
theorem pieces_one (size fuel a n : Nat) (hn : 0 < n) (h : a % size + n ≤ size) : pieces size (fuel + 1) a n = [(a, n)] := by
  have rest : ∀ fuel, pieces size fuel (a + n) 0 = [] := fun fuel => by cases fuel <;> rfl
  have hm : min n (size - a % size) = n := by omega
  unfold pieces
  rw [if_neg (by omega)]
  simp only [hm, Nat.sub_self, rest]

/-- The bank words that n bytes at a cover whole. -/
def fullWords (a n : Nat) : List Nat := ((pieces 8 (n + 1) a n).filter fun p => decide (p.2 = 8)).map fun p => p.1 / 8

theorem mem_fullPieces (fuel a n q : Nat) (h : n < fuel) :
    q ∈ ((pieces 8 fuel a n).filter fun p => decide (p.2 = 8)).map (fun p => p.1 / 8) ↔ a ≤ 8 * q ∧ 8 * q + 8 ≤ a + n := by
  induction fuel generalizing a n with
  | zero => omega
  | succ fuel ih =>
    unfold pieces
    split
    · next h0 =>
      subst h0
      simp only [List.filter_nil, List.map_nil, List.not_mem_nil, false_iff]
      omega
    · next h0 =>
      have tail := ih (a + min n (8 - a % 8)) (n - min n (8 - a % 8)) (by omega)
      simp only [List.filter_cons]
      split
      · next h8 =>
        rw [decide_eq_true_eq] at h8
        rw [List.map_cons, List.mem_cons, tail]
        omega
      · next h8 =>
        rw [decide_eq_true_eq] at h8
        rw [tail]
        omega

theorem mem_fullWords (a n q : Nat) : q ∈ fullWords a n ↔ a ≤ 8 * q ∧ 8 * q + 8 ≤ a + n := mem_fullPieces _ _ _ _ (Nat.lt_succ_self n)

theorem fullWords_subset (a n q : Nat) (h : q ∈ fullWords a n) : q ∈ bankWords a n := by
  obtain ⟨p, hp, rfl⟩ := List.mem_map.1 h
  exact List.mem_map.2 ⟨p, (List.mem_filter.1 hp).1, rfl⟩

/-! ### A store into local space (R55, R200) -/

theorem storeLocal_inScratch (k : Core) (off : Nat) (bs : List Byte) (poison : Bool) (h : off < 0x400000) :
    k.storeLocal off bs poison =
      let bad := k.loc.badWords.filter fun w => !(fullWords off bs.length).contains w
      { k with
        loc.scratch := wrBytes k.loc.scratch off bs
        loc.ceWords := k.loc.ceWords.filter fun w => !(fullWords off bs.length).contains w
        loc.badWords := if poison then bad.filter (fun w => !(bankWords off bs.length).contains w) ++ bankWords off bs.length else bad
        loc.paired := k.loc.paired.map fun p => ((off, bs.length) :: p.1, p.2) } := if_pos h

theorem storeLocal_nil (k : Core) (off : Nat) (poison : Bool) (h : ¬ off < 0x400000) : k.storeLocal off [] poison = k := if_neg h

/-- What a store into local space leaves: everything but scratch with its marks and the cells behind the windows. -/
structure KeepsProgram (k l : Core) : Prop where
  regs : l.regs = k.regs
  pc : l.pc = k.pc
  ctrl : l.ctrl = k.ctrl
  traps : l.traps = k.traps
  mode : l.mode = k.mode
  snap : l.snap = k.snap
  ms : l.ms = k.ms
  own : l.own = k.own
  seq : l.seq = k.seq
  acc : l.loc.acc = k.loc.acc
  badRows : l.loc.badRows = k.loc.badRows
  yqSpec : l.eng.yqSpec = k.eng.yqSpec
  nm : l.eng.nm = k.eng.nm

theorem storeLocal_keeps (k : Core) (off : Nat) (bs : List Byte) (poison : Bool) : KeepsProgram k (k.storeLocal off bs poison) := by
  by_cases h : off < 0x400000
  · rw [storeLocal_inScratch k off bs poison h]
    exact ⟨rfl, rfl, rfl, rfl, rfl, rfl, rfl, rfl, rfl, rfl, rfl, rfl, rfl⟩
  · unfold Core.storeLocal
    rw [if_neg h]
    refine List.foldlRecOn (motive := KeepsProgram k) _ _ ⟨rfl, rfl, rfl, rfl, rfl, rfl, rfl, rfl, rfl, rfl, rfl, rfl, rfl⟩ fun l kl p _ => ?_
    obtain ⟨regs, pc, ctrl, traps, mode, snap, ms, own, seq, acc, badRows, yqSpec, nm⟩ := kl
    exact ⟨regs, pc, ctrl, traps, mode, snap, ms, own, seq, acc, badRows, yqSpec, nm⟩

/-- A byte of scratch after a store that ends within it. -/
theorem storeLocal_scratchByte (k : Core) (off : Nat) (bs : List Byte) (poison : Bool) (h : off + bs.length ≤ 0x400000) (a : Nat) :
    (k.storeLocal off bs poison).scratchByte a = if off ≤ a ∧ a < off + bs.length then bs.getD (a - off) 0 else k.scratchByte a := by
  by_cases h0 : off < 0x400000
  · rw [storeLocal_inScratch k off bs poison h0]
    exact mrd_wrBytes _ _ _ _
  · obtain rfl : bs = [] := List.eq_nil_of_length_eq_zero (by omega)
    rw [storeLocal_nil k off poison h0, if_neg (by simp only [List.length_nil]; omega)]

/-- The marked bank words after a store that ends within scratch. -/
theorem mem_storeLocal_badWords (k : Core) (off : Nat) (bs : List Byte) (poison : Bool) (h : off + bs.length ≤ 0x400000) (q : Nat) :
    q ∈ (k.storeLocal off bs poison).loc.badWords ↔
      (poison = true ∧ q ∈ bankWords off bs.length) ∨ (q ∈ k.loc.badWords ∧ ¬ (off ≤ 8 * q ∧ 8 * q + 8 ≤ off + bs.length)) := by
  by_cases h0 : off < 0x400000
  · rw [storeLocal_inScratch k off bs poison h0, ← mem_fullWords]
    have sub := fullWords_subset off bs.length q
    cases poison
    · simp [List.mem_filter]
    · simp only [if_true, List.mem_append, List.mem_filter, Bool.not_eq_true', List.contains_eq_mem, decide_eq_false_iff_not, true_and]
      tauto
  · obtain rfl : bs = [] := List.eq_nil_of_length_eq_zero (by omega)
    have none : ∀ q, q ∉ bankWords off 0 := fun _ => List.not_mem_nil
    rw [storeLocal_nil k off poison h0]
    simp only [List.length_nil, none, and_false, false_or]
    exact ⟨fun h => ⟨h, by omega⟩, And.left⟩

/-! ### The local stores of an interval -/

/-- The core with one withheld effect applied, where it is a local store. -/
def applyLocal (k : Core) (w : Withheld) : Core :=
  match w.place, w.what with
  | .loc off, .store bs p => k.storeLocal off bs p
  | _, _ => k

theorem withLocal_eq (k : Core) (l : List Withheld) : k.withLocal l = l.foldl applyLocal k := rfl

theorem withLocal_keeps (k : Core) (l : List Withheld) (hl : ∀ w ∈ l, w.inScratch) : KeepsProgram k (k.withLocal l) := by
  rw [withLocal_eq]
  refine List.foldlRecOn (motive := KeepsProgram k) _ _ ⟨rfl, rfl, rfl, rfl, rfl, rfl, rfl, rfl, rfl, rfl, rfl, rfl, rfl⟩ fun m km w hw => ?_
  obtain ⟨off, bs, p, hp, hs, -⟩ := hl w hw
  obtain ⟨regs, pc, ctrl, traps, mode, snap, ms, own, seq, acc, badRows, yqSpec, nm⟩ := storeLocal_keeps m off bs p
  rw [applyLocal, hp, hs]
  exact ⟨regs.trans km.regs, pc.trans km.pc, ctrl.trans km.ctrl, traps.trans km.traps, mode.trans km.mode, snap.trans km.snap, ms.trans km.ms,
    own.trans km.own, seq.trans km.seq, acc.trans km.acc, badRows.trans km.badRows, yqSpec.trans km.yqSpec, nm.trans km.nm⟩

/-- The last store that covers a byte gives it. -/
theorem withLocal_scratchByte (l : List Withheld) (k : Core) (a : Nat) (hl : ∀ w ∈ l, w.inScratch) :
    (k.withLocal l).scratchByte a = (storedAt l a).getD (k.scratchByte a) := by
  induction l generalizing k with
  | nil => rfl
  | cons w l ih =>
    obtain ⟨off, bs, p, hp, hs, hb⟩ := hl w List.mem_cons_self
    have head : (applyLocal k w).scratchByte a = (storedAt [w] a).getD (k.scratchByte a) := by
      simp only [applyLocal, storedAt, hp, hs, storeLocal_scratchByte k off bs p hb, List.reverse_singleton, List.findSome?_cons, List.findSome?_nil]
      by_cases h : off ≤ a ∧ a < off + bs.length
      · rw [if_pos h, if_pos h.1, List.getD_eq_getElem?_getD, List.getElem?_eq_getElem (by omega)]
        rfl
      · have past : (if off ≤ a then bs[a - off]? else none) = none := by
          split
          · exact List.getElem?_eq_none (by omega)
          · rfl
        rw [if_neg h, past]
        rfl
    have split : storedAt (w :: l) a = (storedAt l a).or (storedAt [w] a) := by
      simp only [storedAt, List.reverse_cons, List.findSome?_append, List.reverse_nil, List.nil_append]
    have tail := ih (applyLocal k w) fun x hx => hl x (List.mem_cons_of_mem _ hx)
    rw [withLocal_eq, List.foldl_cons, ← withLocal_eq, tail, head, split]
    cases storedAt l a <;> rfl

/-! ### The rows written through `v` registers (R104) -/

/-- One row of the open interval taken into the accumulator store. -/
def commitRow (k : Core) (e : Nat × Option RowT) : Core :=
  match e.2 with
  | some v => { k.setRow e.1 v with loc.fresh := k.loc.fresh ++ [(e.1, k.rowAt e.1)] }
  | none => k

theorem commitV_eq (k : Core) : k.commitV = { k.loc.vw.foldl commitRow k with loc.vw := [] } := rfl

/-- What taking the rows leaves: all but local space. -/
structure KeepsOutside (k l : Core) : Prop where
  whole : l = { k with loc := l.loc }
  scratch : l.loc.scratch = k.loc.scratch

theorem foldl_commitRow_keeps (l : List (Nat × Option RowT)) (k : Core) : KeepsOutside k (l.foldl commitRow k) := by
  refine List.foldlRecOn (motive := KeepsOutside k) _ _ ⟨rfl, rfl⟩ fun m km e _ => ?_
  obtain ⟨whole, scratch⟩ := km
  obtain ⟨r, v⟩ := e
  cases v with
  | none => exact ⟨whole, scratch⟩
  | some v => exact ⟨by rw [whole]; rfl, scratch⟩

theorem commitV_keeps (k : Core) : KeepsOutside k k.commitV := by
  obtain ⟨whole, scratch⟩ := foldl_commitRow_keeps k.loc.vw k
  rw [commitV_eq]
  exact ⟨by rw [whole], scratch⟩

theorem rowAt_commitRow (k : Core) (e : Nat × Option RowT) (r : Nat) : (commitRow k e).rowAt r = if r = e.1 then e.2.getD (k.rowAt r) else k.rowAt r := by
  obtain ⟨q, v⟩ := e
  cases v with
  | none => simp [commitRow]
  | some v =>
    by_cases h : r = q
    · subst h
      simp [commitRow, Core.rowAt, Core.setRow]
    · simp [commitRow, Core.rowAt, Core.setRow, h, mrd_mwr_other _ _ _ _ _ _ h]

theorem rowAt_foldl_commitRow (l : SMap (Option RowT)) (k : Core) (r : Nat) (h : (l.map Prod.fst).Nodup) :
    (l.foldl commitRow k).rowAt r = (mrd none l r).getD (k.rowAt r) := by
  induction l generalizing k with
  | nil => rfl
  | cons e l ih =>
    obtain ⟨q, v⟩ := e
    rw [List.map_cons, List.nodup_cons] at h
    rw [List.foldl_cons, ih _ h.2, rowAt_commitRow]
    by_cases hr : r = q
    · subst hr
      have absent : l.lookup r = none := by
        rw [List.lookup_eq_none_iff]
        intro p hp
        exact bne_iff_ne.2 fun (e : r = p.1) => h.1 (List.mem_map.2 ⟨p, hp, e.symm⟩)
      simp [mrd, absent]
    · have : (r == q) = false := by simpa using hr
      simp [mrd, List.lookup_cons, hr, this]

/-- After a release a row of the accumulator store is what its core read before. -/
theorem rowAt_commitV (k : Core) (hk : k.wf = true) (r : Nat) : k.commitV.rowAt r = k.vAt r := by
  have keys : (k.loc.vw.map Prod.fst).Nodup := by
    simp only [Core.wf, Bool.and_eq_true] at hk
    exact ((mwf_iff _ _).1 hk.1.1.2).1.imp Nat.ne_of_lt
  rw [Core.vAt, ← rowAt_foldl_commitRow _ _ _ keys, commitV_eq]
  rfl

end Sys2Proof.Scope
end

section
/-! What one withheld effect commits (R84, R102, R112, R117). -/

namespace Sys2Proof.Scope

open Sys2Proof Sys2Proof.Machine

/-- The committed access that a withheld effect becomes. -/
def sentAs (w : Withheld) (batch : Nat) (place : Place) (what : CommKind) : Comm :=
  { id := w.id, org := w.org, place := place, ea := w.ea, batch := batch, what := what }

theorem setCore_setCore (s : State) (c : CoreId) (k l : Core) : (s.setCore c k).setCore c l = s.setCore c l := by
  simp [State.setCore, Vector.set_set]

theorem modCore_setCore (s : State) (c : CoreId) (k : Core) (f : Core → Core) : (s.setCore c k).modCore c f = s.setCore c (f k) := by
  rw [State.modCore, State.core_setCore_self, setCore_setCore]

theorem modCore_modCore (s : State) (c : CoreId) (f g : Core → Core) : (s.modCore c f).modCore c g = s.modCore c fun k => g (f k) :=
  modCore_setCore s c _ g

/-! ### Stores -/

theorem commitWithheld_local (s : State) (c : CoreId) (batch : Nat) (w : Withheld) (o : Nat) (bs : List Byte) (p : Bool)
    (hp : w.place = .loc o) (hw : w.what = .store bs p) : s.commitWithheld c batch w = s.setCore c ((s.core c).storeLocal o bs p) := by
  simp only [State.commitWithheld, hw, hp]
  rfl

theorem commitWithheld_remote (s : State) (c : CoreId) (batch : Nat) (w : Withheld) (h : CoreId) (o : Nat) (bs : List Byte) (p : Bool)
    (hp : w.place = .rem h o) (hw : w.what = .store bs p) : s.commitWithheld c batch w = s.push c (sentAs w batch w.place (.store bs p)) := by
  simp only [State.commitWithheld, hw, hp]
  rfl

theorem commitWithheld_global (s : State) (c : CoreId) (batch : Nat) (w : Withheld) (segs : List Seg) (bs : List Byte) (p : Bool)
    (hp : w.place = .glob segs) (hw : w.what = .store bs p) : s.commitWithheld c batch w = s.commitStore c batch w segs bs p := by
  simp only [State.commitWithheld, hw, hp]

theorem commitWithheld_amo (s : State) (c : CoreId) (batch : Nat) (w : Withheld) (op : AmoOp) (b d : W64) (hw : w.what = .amo op b d) :
    s.commitWithheld c batch w = s.sendAmo c (sentAs w batch w.place (.amo op b d)) := by
  simp only [State.commitWithheld, hw, sentAs]

theorem commitWithheld_drain (s : State) (c : CoreId) (batch : Nat) (w : Withheld) (m : BitVec 4) (sc : BitVec 2) (hw : w.what = .drain m sc) :
    s.commitWithheld c batch w = if m = 0 then s else s.push c (sentAs w batch w.place (.drain m sc)) := by
  simp only [State.commitWithheld, hw, sentAs]

theorem commitWithheld_rel (s : State) (c : CoreId) (batch : Nat) (w : Withheld) (sc : BitVec 2) (hw : w.what = .rel sc) :
    s.commitWithheld c batch w = s.modCore c fun k =>
      { k with ms.comm := k.ms.comm ++ [sentAs w batch w.place (.rel sc)], ms.fifo := k.ms.fifo ++ [.marker w.id] } := by
  simp only [State.commitWithheld, hw, State.push, modCore_modCore, sentAs]

theorem commitWithheld_cfRelease (s : State) (c : CoreId) (batch : Nat) (w : Withheld) (f : Fin 16) (hw : w.what = .cfRelease f) :
    s.commitWithheld c batch w = s.modCore c fun k =>
      let x := k.eng.carafes.get f
      { k with eng.carafes := k.eng.carafes.set f { x with nheld := x.nheld - 1, q := (x.q + 1) % (if x.n = 0 then 1 else x.n) } } := by
  simp only [State.commitWithheld, hw]

theorem commitWithheld_aqPush (s : State) (c : CoreId) (batch : Nat) (w : Withheld) (v : RowT) (hw : w.what = .aqPush v) :
    s.commitWithheld c batch w = s.modCore c fun k => { k with eng.aq := k.eng.aq ++ [v] } := by
  simp only [State.commitWithheld, hw]

/-- A store over one unit of its class is one piece, with all its bytes. -/
theorem commitStore_one (s : State) (c : CoreId) (batch : Nat) (w : Withheld) (g : Seg) (bs : List Byte) (p : Bool) (hl : bs.length = g.len)
    (hn : 0 < g.len) :
    (g.cls = 0 ∨ g.cls = 5 → g.pa % 128 + g.len ≤ 128 → s.commitStore c batch w [g] bs p = s.commitL1 c (sentAs w batch w.place (.store bs p)) g bs p) ∧
    (g.cls = 1 ∨ g.cls = 3 → g.pa % 64 + g.len ≤ 64 → s.commitStore c batch w [g] bs p = s.push c (sentAs w batch (.glob [g]) (.store bs p))) ∧
    (g.cls = 2 → g.pa % 64 + g.len ≤ 64 → s.commitStore c batch w [g] bs p =
      ((mergeStore g batch bs p (s.core c).ms.comm).map fun l => s.modCore c fun k => { k with ms.comm := l }).getD
        (s.push c (sentAs w batch (.glob [g]) (.store bs p)))) ∧
    (g.cls = 4 → g.pa % 256 + g.len ≤ 256 → s.commitStore c batch w [g] bs p =
      (s.modCore c fun k => k.dropExpanded [g]).push c (sentAs w batch (.glob [g]) (.store bs p))) := by
  obtain ⟨home, pa, cls, key, len⟩ := g
  dsimp only at hl hn ⊢
  have mine : bs.take len = bs := by rw [← hl, List.take_length]
  have one := fun size h => pieces_one size len pa len hn h
  refine ⟨?l1, ?plain, ?slice, ?block⟩
  case l1 =>
    rintro (rfl | rfl) h <;>
      simp only [State.commitStore, segOffsets, List.foldl_cons, List.foldl_nil, one _ h, Nat.sub_self, Nat.add_zero, List.drop_zero, mine] <;> rfl
  case plain =>
    rintro (rfl | rfl) h <;>
      simp only [State.commitStore, segOffsets, List.foldl_cons, List.foldl_nil, one _ h, Nat.sub_self, Nat.add_zero, List.drop_zero, mine] <;> rfl
  case slice =>
    rintro rfl h
    simp only [State.commitStore, segOffsets, List.foldl_cons, List.foldl_nil, one _ h, Nat.sub_self, Nat.add_zero, List.drop_zero, mine]
    cases mergeStore ⟨home, pa, 2, key, len⟩ batch bs p (s.core c).ms.comm <;> rfl
  case block =>
    rintro rfl h
    simp only [State.commitStore, segOffsets, List.foldl_cons, List.foldl_nil, one _ h, Nat.sub_self, Nat.add_zero, List.drop_zero, mine]
    rfl

/-- What a class 2 store of the same release and block may join (R84). -/
def joins (g : Seg) (batch : Nat) (x : Comm) : Prop :=
  ∃ h hs old q, x.place = .glob (h :: hs) ∧ x.what = .store old q ∧ x.batch = batch ∧ h.cls = 2 ∧ h.home = g.home ∧ h.key = g.key ∧ h.pa / 64 = g.pa / 64

theorem mergeStore_none (g : Seg) (batch : Nat) (bs : List Byte) (p : Bool) (l : List Comm) (h : ∀ x ∈ l, ¬ joins g batch x) :
    mergeStore g batch bs p l = none := by
  induction l with
  | nil => rfl
  | cons x l ih =>
    have alone := h x List.mem_cons_self
    unfold mergeStore
    rw [ih fun y hy => h y (List.mem_cons_of_mem _ hy)]
    dsimp only
    split
    · next hd tl old q hp hw =>
      rw [if_neg]
      intro hc
      simp only [Bool.and_eq_true, decide_eq_true_eq] at hc
      obtain ⟨⟨⟨⟨⟨cls, b⟩, home⟩, key⟩, blk⟩, -⟩ := hc
      exact alone ⟨hd, tl, old, q, hp, hw, b, cls, home, key, blk⟩
    · rfl

theorem mergeStore_last (g : Seg) (batch : Nat) (bs : List Byte) (p : Bool) (front : List Comm) (x : Comm) (h : Seg) (hs : List Seg) (old : List Byte)
    (q : Bool) (hp : x.place = .glob (h :: hs)) (hw : x.what = .store old q) (hj : joins g batch x) :
    mergeStore g batch bs p (front ++ [x]) = some (front ++ [if g.len = 64 then { x with place := .glob [g], what := .store bs p }
      else { x with place := .glob (h :: hs ++ [g]), what := .store (old ++ bs) (q || p) }]) := by
  induction front with
  | nil =>
    obtain ⟨h', hs', old', q', hp', hw', batch', cls, home, key, blk⟩ := hj
    obtain ⟨rfl, rfl⟩ := List.cons.inj (Place.glob.inj (hp.symm.trans hp'))
    simp only [List.nil_append, mergeStore, hp, hw, cls, home, key, blk, batch', List.all_nil, decide_true, Bool.and_self, if_true]
  | cons y front ih => rw [List.cons_append, mergeStore, ih]; rfl

/-! ### Atomics and signals on translated memory -/

/-- Where no line of an access is in the L1 and no store waits for it, nothing keeps the access back and nothing is written back (R121). -/
theorem amoLeaves_clear (s : State) (c : CoreId) (before : List Comm) (segs : List Seg)
    (absent : ∀ x ∈ segLines segs, (s.core c).ms.l1.find? (lineIs x.1 x.2) = none) (early : ∀ d ∈ before, d.isL1 = false) :
    s.amoLeaves c before segs = (true, s) := by
  have waits : (before.any fun w => w.isL1 && match w.place with | .glob l => (segLines l).any fun x => (segLines segs).contains x | _ => false) = false := by
    rw [List.any_eq_false]
    intro d hd
    simp [early d hd]
  have stays : ((segLines segs).any fun x => match (s.core c).ms.l1.find? (lineIs x.1 x.2) with
      | some l => l.dirty ≠ 0 && (behindMarker l.home l.line (s.core c).ms.fifo || amoOn before true l.home l.line)
      | none => false) = false := by
    rw [List.any_eq_false]
    intro x hx
    simp [absent x hx]
  have cleaned : (segLines segs).foldl (fun s x => s.l1Clean c x.1 x.2 true) s = s := by
    refine List.foldlRecOn (motive := fun t => t = s) _ _ rfl fun t ht x hx => ?_
    subst ht
    rw [State.l1Clean, absent x hx]
  unfold State.amoLeaves
  simp only [cleaned]
  rw [if_neg]
  simp only [Bool.or_eq_true, not_or, Bool.not_eq_true]
  exact ⟨waits, stays⟩

theorem sendAmo_plain (s : State) (c : CoreId) (x : Comm) (h : ∀ segs, x.place ≠ .glob segs) : s.sendAmo c x = s.push c x := by
  unfold State.sendAmo
  split
  · next segs e => exact absurd e (h segs)
  · rfl

theorem sendAmo_clear (s : State) (c : CoreId) (x : Comm) (segs : List Seg) (hp : x.place = .glob segs) (hx : x.left = true)
    (absent : ∀ y ∈ segLines segs, (s.core c).ms.l1.find? (lineIs y.1 y.2) = none) (early : ∀ d ∈ (s.core c).ms.comm, d.isL1 = false) :
    s.sendAmo c x = s.push c x := by
  obtain ⟨id, org, place, ea, batch, left, waits, what⟩ := x
  subst hp hx
  simp only [State.sendAmo, amoLeaves_clear s c _ segs absent early]

end Sys2Proof.Scope
end

section
/-! What one effect of a release commits: tokens and waits, and TLB entries (R122, R257, R266). -/

namespace Sys2Proof.Scope

open Sys2Proof Sys2Proof.Machine

/-! ### Tokens (R257) -/

theorem token_setToken (k : Core) (t u : Nat) (v : BitVec 2) (ht : t < 32) (hu : u < 32) : (k.setToken t v).token u = if u = t then v else k.token u := by
  simp only [Core.token, Core.setToken, Vector.get_eq_getElem, Nat.mod_eq_of_lt ht, Nat.mod_eq_of_lt hu, Vector.getElem_set]
  simp only [eq_comm (a := t)]

theorem token_foldl_setToken (l : List Nat) (k : Core) (v : BitVec 2) (u : Nat) (hl : ∀ t ∈ l, t < 32) (hu : u < 32) :
    (l.foldl (fun k t => k.setToken t v) k).token u = if u ∈ l then v else k.token u := by
  induction l generalizing k with
  | nil => rfl
  | cons t l ih =>
    rw [List.foldl_cons, ih _ fun x hx => hl x (List.mem_cons_of_mem _ hx), token_setToken _ _ _ _ (hl t List.mem_cons_self) hu]
    by_cases h : u ∈ l <;> by_cases e : u = t <;> simp [h, e]

/-- Tokens set change the tokens and nothing else. -/
theorem foldl_setToken_eq (l : List Nat) (k : Core) (v : BitVec 2) : ∃ ts, l.foldl (fun k t => k.setToken t v) k = { k with eng.tokens := ts } := by
  refine List.foldlRecOn (motive := fun (m : Core) => ∃ ts, m = { k with eng.tokens := ts }) l _ ⟨k.eng.tokens, rfl⟩ fun m h t _ => ?_
  obtain ⟨ts, rfl⟩ := h
  exact ⟨_, rfl⟩

theorem mem_maskTokens (m : W32) (t : Nat) : t ∈ maskTokens m ↔ t < 32 ∧ m.getLsbD t = true := by simp [maskTokens]

/-- The progress tokens of an engine trigger are tokens. -/
theorem progress_lt (g : Signal) (w p : W64) (prog : List Nat) (h : g.tokens = some (w, p, prog)) : ∀ t ∈ prog, t < 32 := by
  cases g <;> simp only [Signal.tokens, Option.some.injEq, Prod.mk.injEq, reduceCtorEq] at h <;> obtain ⟨-, -, rfl⟩ := h <;> intro t ht <;>
    simp only [List.not_mem_nil, mem_maskTokens] at ht
  exact ht.1

theorem produceToken_lt (p : W64) (t : Nat) (h : produceToken p = some t) : t < 32 := by
  unfold produceToken at h
  split at h
  · next hp => exact Option.some.inj h ▸ hp
  · cases h

/-! ### Waits (R122) -/

/-- What is left of a wait list where the tokens of a list start new lives: a failure counts as entry 32. -/
def settled (k : Core) (ts l : List Nat) : List Nat :=
  l.filterMap fun t => if ts.contains t && t < 32 then (if k.token t = 3 then some 32 else if k.token t = 1 then some t else none) else some t

theorem mem_settled (k : Core) (ts l : List Nat) (u : Nat) (hu : u < 32) : u ∈ settled k ts l ↔ u ∈ l ∧ (u ∈ ts → k.token u = 1) := by
  simp only [settled, List.mem_filterMap]
  constructor
  · rintro ⟨t, ht, e⟩
    split at e
    · split at e
      · cases e
        omega
      · split at e
        · next h1 =>
          cases e
          exact ⟨ht, fun _ => h1⟩
        · cases e
    · next h =>
      cases e
      simp only [List.contains_eq_mem, Bool.and_eq_true, decide_eq_true_eq, not_and] at h
      exact ⟨ht, fun hm => absurd hu (h hm)⟩
  · rintro ⟨hl, ho⟩
    refine ⟨u, hl, ?_⟩
    by_cases hm : u ∈ ts
    · simp [hm, hu, ho hm]
    · simp [hm]

theorem failed_mem_settled (k : Core) (ts l : List Nat) : 32 ∈ settled k ts l ↔ 32 ∈ l ∨ ∃ u ∈ l, u ∈ ts ∧ u < 32 ∧ k.token u = 3 := by
  simp only [settled, List.mem_filterMap]
  constructor
  · rintro ⟨t, ht, e⟩
    split at e
    · next h =>
      simp only [List.contains_eq_mem, Bool.and_eq_true, decide_eq_true_eq] at h
      split at e
      · next h3 => exact .inr ⟨t, ht, h.1, h.2, h3⟩
      · split at e
        · cases e
          omega
        · cases e
    · cases e
      exact .inl ht
  · rintro (hl | ⟨u, hl, hm, hu, h3⟩)
    · exact ⟨32, hl, by simp⟩
    · exact ⟨u, hl, by simp [hm, hu, h3]⟩

/-- The core with the waits of its operations settled and the tokens of a list set. -/
def restarted (k : Core) (ts : List Nat) (toks : Vector (BitVec 2) 32) (copies : List CopyEnt) (cim : Cim) : Core :=
  { k with ms.comm := k.ms.comm.map fun (w : Comm) => { w with waits := settled k ts w.waits }, eng.tokens := toks, eng.copies := copies, eng.cim := cim }

theorem settleWaits_eq (s : State) (c : CoreId) (ts : List Nat) :
    ∃ copies cim sched, s.settleWaits c ts = { s.setCore c (restarted (s.core c) ts (s.core c).eng.tokens copies cim) with sched := sched } ∧
      (s.settleWaits c ts).core c = restarted (s.core c) ts (s.core c).eng.tokens copies cim :=
  ⟨_, _, _, rfl, State.core_setCore_self s c _⟩

theorem settleWaits_token (s : State) (c : CoreId) (ts : List Nat) (t : Nat) : ((s.settleWaits c ts).core c).token t = (s.core c).token t := by
  obtain ⟨copies, cim, sched, -, core⟩ := settleWaits_eq s c ts
  rw [core]
  rfl

/-- Tokens start new lives: of their core the waits and the tokens change, of the device the waits of collectives. -/
theorem restart_eq (s : State) (c : CoreId) (ts : List Nat) (v : BitVec 2) (hts : ∀ t ∈ ts, t < 32) :
    ∃ toks copies cim sched,
      (s.settleWaits c ts).modCore c (fun k => ts.foldl (fun k t => k.setToken t v) k) =
        { s.setCore c (restarted (s.core c) ts toks copies cim) with sched := sched } ∧
      ∀ u, u < 32 → (restarted (s.core c) ts toks copies cim).token u = if u ∈ ts then v else (s.core c).token u := by
  obtain ⟨copies, cim, sched, whole, core⟩ := settleWaits_eq s c ts
  obtain ⟨toks, e⟩ := foldl_setToken_eq ts ((s.settleWaits c ts).core c) v
  have tokens := fun u hu => token_foldl_setToken ts ((s.settleWaits c ts).core c) v u hts hu
  rw [e, core] at tokens
  refine ⟨toks, copies, cim, sched, ?_, tokens⟩
  rw [State.modCore, e, core, whole]
  simp only [State.setCore, Vector.set_set]
  rfl

/-- R257: done and failed tokens of a mask become idle. -/
theorem freeTokens_frees (s : State) (c : CoreId) (m : W32) :
    (s.freeTokens c m).mem = s.mem ∧ (s.freeTokens c m).hk = s.hk ∧ SameOthers c s (s.freeTokens c m) ∧
      ((s.freeTokens c m).core c).regs = (s.core c).regs ∧ ((s.freeTokens c m).core c).loc = (s.core c).loc ∧
      ∀ u, u < 32 → ((s.freeTokens c m).core c).token u = if m.getLsbD u = true ∧ (s.core c).token u ≠ 1 then 0 else (s.core c).token u := by
  obtain ⟨toks, copies, cim, sched, e, tokens⟩ := restart_eq s c ((maskTokens m).filter fun t => (s.core c).token t ≠ 1) 0
    fun t ht => ((mem_maskTokens m t).1 (List.mem_filter.1 ht).1).1
  have core := State.core_setCore_self s c (restarted (s.core c) ((maskTokens m).filter fun t => (s.core c).token t ≠ 1) toks copies cim)
  unfold State.freeTokens
  dsimp only
  rw [e]
  have regs := congrArg Core.regs core
  have loc := congrArg Core.loc core
  refine ⟨rfl, rfl, fun d hd => State.core_setCore_other s c d _ hd, regs, loc, fun u hu => ?_⟩
  refine (congrArg (fun k : Core => k.token u) core).trans ((tokens u hu).trans ?_)
  simp [List.mem_filter, mem_maskTokens, hu]

/-- An access sent on right after the waits were settled. -/
theorem push_setCore (s : State) (c : CoreId) (k : Core) (sched : Sched) (x : Comm) :
    ({ s.setCore c k with sched := sched } : State).push c x = { s.setCore c { k with ms.comm := k.ms.comm ++ [x] } with sched := sched } := by
  have core : ({ s.setCore c k with sched := sched } : State).core c = k := State.core_setCore_self s c k
  rw [State.push, State.modCore, core]
  simp only [State.setCore, Vector.set_set]

/-- R122, R257: an engine trigger sent on. Its tokens become pending, the operations before it keep of them only failures, and its own waits are
evaluated with the tokens as they were. -/
theorem sendSignal_restarts (s : State) (c : CoreId) (batch : Nat) (e : CEff) (g : Signal) (w p : W64) (prog : List Nat)
    (hg : g.tokens = some (w, p, prog)) :
    ∃ toks copies cim sched,
      let k := restarted (s.core c) ((produceToken p).toList ++ prog) toks copies cim
      s.sendSignal c batch e g = { s.setCore c { k with ms.comm := k.ms.comm ++
        [{ id := e.id, org := e.org, place := e.place, ea := e.ea, batch := batch, what := .signal g
           waits := ((waitTokens w).getD []).filter fun t => (s.core c).token t = 1 || (s.core c).token t = 3 }] } with sched := sched } ∧
      ∀ u, u < 32 → k.token u = if u ∈ (produceToken p).toList ++ prog then 1 else (s.core c).token u := by
  have low : ∀ t ∈ (produceToken p).toList ++ prog, t < 32 := fun t ht =>
    (List.mem_append.1 ht).elim (fun h => produceToken_lt p t (Option.mem_toList.1 h)) (progress_lt g w p prog hg t)
  obtain ⟨toks, copies, cim, sched, restarts, tokens⟩ := restart_eq s c ((produceToken p).toList ++ prog) 1 low
  refine ⟨toks, copies, cim, sched, ?_, tokens⟩
  rw [← push_setCore, ← restarts]
  simp only [State.sendSignal, hg, settleWaits_token]

/-! ### TLB entries (R266) -/

/-- Whether an invalidation names an entry (R266). -/
def tlbHit (a b w : W64) (y : TlbEnt) : Prop :=
  (w.getLsbD 10 = true ∨ y.domain = (w.extractLsb' 0 8).toNat) ∧
    (w.getLsbD 11 = true ∨ (b ≠ 0 ∧ y.va < (a.extractLsb' 16 40).toNat * 65536 + b.toNat ∧ (a.extractLsb' 16 40).toNat * 65536 < y.va + leafSpan y.level))

theorem bits_one_iff (w : W64) (i : Nat) : bits w i 1 = 1 ↔ w.getLsbD i = true := by
  simp [bits, BitVec.getLsbD, Nat.testBit, Nat.shiftRight_eq_div_pow, Nat.one_and_eq_mod_two]

theorem tlbKeeps_iff (a b w : W64) (y : TlbEnt) : tlbKeeps a b w y = true ↔ ¬ tlbHit a b w y := by
  have lo : bits a 16 40 = (a.extractLsb' 16 40).toNat := rfl
  have dom : bits w 0 8 = (w.extractLsb' 0 8).toNat := rfl
  simp only [tlbKeeps, tlbHit, ← bits_one_iff, ← lo, ← dom, Bool.not_eq_true', Bool.and_eq_false_iff, Bool.or_eq_false_iff, decide_eq_false_iff_not]
  tauto

/-- A vector of which the places that a test names are changed. -/
theorem get_zipIdx_map {α : Type} {n : Nat} (v : Vector α n) (f : α × Nat → α) (i : Fin n) : (v.zipIdx.map f).get i = f (v.get i, i.val) := by
  simp [Vector.get_eq_getElem]

theorem tlbInvalidate_core (s : State) (c d : CoreId) (scope : Nat) (a b w : W64) :
    (s.tlbInvalidate c scope a b w).core d =
      if scope ≥ 2 ∨ (scope = 1 ∧ d.val / 8 = c.val / 8) ∨ d = c then
        { s.core d with ms.tlb := (s.core d).ms.tlb.filter (tlbKeeps a b w) } else s.core d := by
  have h := get_zipIdx_map s.cores (fun p => if scope ≥ 2 || (scope = 1 && p.2 / 8 = c.val / 8) || p.2 = c.val then
    { p.1 with ms.tlb := p.1.ms.tlb.filter (tlbKeeps a b w) } else p.1) d
  refine h.trans ?_
  simp only [Bool.or_eq_true, Bool.and_eq_true, decide_eq_true_eq, or_assoc, ← Fin.ext_iff]
  rfl

theorem tlbInvalidate_grove (s : State) (c : CoreId) (g : Fin 8) (scope : Nat) (a b w : W64) :
    (s.tlbInvalidate c scope a b w).mem.groveTlb.get g =
      if scope ≥ 2 ∨ (scope = 1 ∧ g.val = c.val / 8) then (s.mem.groveTlb.get g).filter (tlbKeeps a b w) else s.mem.groveTlb.get g := by
  have h := get_zipIdx_map s.mem.groveTlb (fun p => if scope ≥ 2 || (scope = 1 && p.2 = c.val / 8) then p.1.filter (tlbKeeps a b w) else p.1) g
  refine h.trans ?_
  simp only [Bool.or_eq_true, Bool.and_eq_true, decide_eq_true_eq]

theorem mem_filter_if {P : Prop} [Decidable P] (l : List TlbEnt) (a b w : W64) (y : TlbEnt) :
    (y ∈ if P then l.filter (tlbKeeps a b w) else l) ↔ y ∈ l ∧ ¬ (P ∧ tlbHit a b w y) := by
  split <;> simp_all [List.mem_filter, tlbKeeps_iff]

end Sys2Proof.Scope
end

section
/-! What each withheld effect and each effect of a release commits, case by case (O41). -/

namespace Sys2Proof.Scope

open Sys2Proof Sys2Proof.Machine

/-! ### Withheld effects -/

/-- A store into scratch memory performs at the release, with its marks (R55, R200). -/
theorem localStore_commits (s : State) (c : CoreId) (batch : Nat) (w : Withheld) (o : Nat) (bs : List Byte) (p : Bool) (hp : w.place = .loc o)
    (hw : w.what = .store bs p) (ho : o + bs.length ≤ 0x400000) :
    let k := s.core c
    let t := s.commitWithheld c batch w
    let l := t.core c
    t = s.setCore c l ∧ l.ms = k.ms ∧ l.regs = k.regs ∧
      (∀ a, l.scratchByte a = if o ≤ a ∧ a < o + bs.length then bs.getD (a - o) 0 else k.scratchByte a) ∧
      ∀ q, q ∈ l.loc.badWords ↔ (p = true ∧ q ∈ bankWords o bs.length) ∨ (q ∈ k.loc.badWords ∧ ¬ (o ≤ 8 * q ∧ 8 * q + 8 ≤ o + bs.length)) := by
  intro k t l
  have ht : t = s.setCore c (k.storeLocal o bs p) := commitWithheld_local s c batch w o bs p hp hw
  have hl : l = k.storeLocal o bs p := by rw [show l = t.core c from rfl, ht, State.core_setCore_self]
  have keeps := storeLocal_keeps k o bs p
  rw [hl]
  exact ⟨ht, keeps.ms, keeps.regs, storeLocal_scratchByte k o bs p ho, mem_storeLocal_badWords k o bs p ho⟩

/-- A class 4 store drops the expanded lines of its block, which a store within one block has one of (R102). -/
theorem dropExpanded_one (k : Core) (g : Seg) (hc : g.cls = 4) (hn : 0 < g.len) (h : g.pa % 256 + g.len ≤ 256) :
    k.dropExpanded [g] = { k with ms.l1 := k.ms.l1.filter fun y => !(y.dirty = 0 && y.home = g.home && y.line / 2 = g.pa / 256) } := by
  simp only [Core.dropExpanded, List.flatMap_cons, List.flatMap_nil, List.append_nil, hc, if_true, pieces_one 256 g.len g.pa g.len hn h, List.map_cons,
    List.map_nil, List.contains_eq_mem, List.mem_singleton, Prod.mk.injEq, Bool.decide_and, Bool.and_assoc]

/-- A class 2 store leaves for its slice, joined to what its release holds last of its block (R84). -/
theorem sliceStore_commits (s : State) (c : CoreId) (batch : Nat) (w : Withheld) (g : Seg) (bs : List Byte) (p : Bool) (hl : bs.length = g.len)
    (hn : 0 < g.len) (hc : g.cls = 2) (h : g.pa % 64 + g.len ≤ 64) :
    ((∀ x ∈ (s.core c).ms.comm, ¬ joins g batch x) → s.commitStore c batch w [g] bs p = s.push c (sentAs w batch (.glob [g]) (.store bs p))) ∧
    ∀ front x f fs old q, (s.core c).ms.comm = front ++ [x] → x.place = .glob (f :: fs) → x.what = .store old q → joins g batch x →
      s.commitStore c batch w [g] bs p = s.setCore c { s.core c with ms.comm := front ++ [if g.len = 64 then { x with place := .glob [g], what := .store bs p }
        else { x with place := .glob (f :: fs ++ [g]), what := .store (old ++ bs) (q || p) }] } := by
  have one := (commitStore_one s c batch w g bs p hl hn).2.2.1 hc h
  constructor
  · intro apart
    rw [one, mergeStore_none g batch bs p _ apart]
    rfl
  · intro front x f fs old q hcomm hp hw hj
    rw [one, hcomm, mergeStore_last g batch bs p front x f fs old q hp hw hj]
    rfl

/-! ### Effects -/

theorem commitEff_csrw (s : State) (c : CoreId) (batch : Nat) (e : CEff) (n : Nat) (v : W64) (he : e.what = .csrw n v) :
    s.commitEff c batch e = s.modCore c fun k => k.csrWrite n v := by simp only [State.commitEff, he]

theorem commitEff_endTask (s : State) (c : CoreId) (batch : Nat) (e : CEff) (x : W32) (he : e.what = .endTask x) :
    s.commitEff c batch e = s.modCore c fun k => { k with ending := some (if k.task.any (fun y => y.tookBudget) then .killed else .done x) } := by
  simp only [State.commitEff, he]

theorem commitEff_kfree (s : State) (c : CoreId) (batch : Nat) (e : CEff) (m : W32) (he : e.what = .kfree m) :
    s.commitEff c batch e = s.freeTokens c m := by simp only [State.commitEff, he]

theorem commitEff_tlbinv (s : State) (c : CoreId) (batch : Nat) (e : CEff) (a b w : W64) (he : e.what = .tlbinv a b w) :
    s.commitEff c batch e = s.tlbInvalidate c (w.extractLsb' 8 2).toNat a b w := by
  simp only [State.commitEff, he]
  rfl

theorem commitEff_l1inv (s : State) (c : CoreId) (batch : Nat) (e : CEff) (he : e.what = .l1inv) : s.commitEff c batch e = s := by
  simp only [State.commitEff, he]

theorem commitEff_cinit (s : State) (c : CoreId) (batch : Nat) (e : CEff) (f : Fin 16) (a : W64) (he : e.what = .cinit f a) :
    let x : Carafe := { act := true, base := (a.extractLsb' 20 14).toNat, slotsz := (a.extractLsb' 6 14).toNat, n := (a.extractLsb' 0 6).toNat + 1 }
    s.commitEff c batch e = s.modCore c fun k => { k with eng.carafes := k.eng.carafes.set f x } := by
  simp only [State.commitEff, he]
  rfl

theorem commitEff_mpsw (s : State) (c : CoreId) (batch : Nat) (e : CEff) (n : Nat) (v : W64) (he : e.what = .mpsw n v) :
    s.commitEff c batch e = s.modCore c fun k => { k with eng.cim.store := mwr 0 k.eng.cim.store n v } := by
  simp only [State.commitEff, he]
  rfl

theorem commitEff_signal (s : State) (c : CoreId) (batch : Nat) (e : CEff) (g : Signal) (he : e.what = .signal g) :
    s.commitEff c batch e = s.sendSignal c batch e g := by simp only [State.commitEff, he]

theorem mrd_mwr_if (m : SMap W64) (n i : Nat) (v : W64) : mrd 0 (mwr 0 m n v) i = if i = n then v else mrd 0 m i := by
  split
  · next h => rw [h, mrd_mwr_self]
  · next h => exact mrd_mwr_other _ _ _ _ _ _ h

/-- R266: an invalidation drops the entries it names from the TLBs of its scope, and changes nothing else. -/
theorem tlbInvalidate_drops (s : State) (c : CoreId) (a b w : W64) (scope : Nat) :
    (∀ d y, y ∈ ((s.tlbInvalidate c scope a b w).core d).ms.tlb ↔
      y ∈ (s.core d).ms.tlb ∧ ¬ ((2 ≤ scope ∨ (scope = 1 ∧ d.val / 8 = c.val / 8) ∨ d = c) ∧ tlbHit a b w y)) ∧
    (∀ (g : Fin 8) y, y ∈ (s.tlbInvalidate c scope a b w).mem.groveTlb.get g ↔
      y ∈ s.mem.groveTlb.get g ∧ ¬ ((2 ≤ scope ∨ (scope = 1 ∧ g.val = c.val / 8)) ∧ tlbHit a b w y)) ∧
    ∀ d, (s.tlbInvalidate c scope a b w).core d =
      { s.core d with ms := { (s.core d).ms with tlb := ((s.tlbInvalidate c scope a b w).core d).ms.tlb } } := by
  refine ⟨fun d y => ?_, fun g y => ?_, fun d => ?_⟩
  · rw [tlbInvalidate_core, ← mem_filter_if]
    split <;> rfl
  · rw [tlbInvalidate_grove, mem_filter_if]
  · rw [tlbInvalidate_core]
    split <;> rfl

/-- A signal without tokens leaves as an access does: at once where it names no translated memory or nothing keeps its line (R113, R121). -/
theorem sendSignal_plain (s : State) (c : CoreId) (batch : Nat) (e : CEff) (g : Signal) (hg : g.tokens = none) :
    s.sendSignal c batch e g = s.sendAmo c { id := e.id, org := e.org, place := e.place, ea := e.ea, batch := batch, what := .signal g } := by
  simp only [State.sendSignal, hg]

/-- R122, R257: what an engine trigger sent on makes of tokens and waits. -/
theorem sendSignal_commits (s : State) (c : CoreId) (batch : Nat) (e : CEff) (g : Signal) (w p : W64) (prog : List Nat) (hg : g.tokens = some (w, p, prog)) :
    let k := s.core c
    let t := s.sendSignal c batch e g
    let l := t.core c
    let own := fun u => produceToken p = some u ∨ u ∈ prog
    (∀ u, u < 32 → l.token u = if produceToken p = some u ∨ u ∈ prog then 1 else k.token u) ∧ t.mem = s.mem ∧ t.hk = s.hk ∧ SameOthers c s t ∧
      l.regs = k.regs ∧ l.loc = k.loc ∧ ∃ older,
        l.ms.comm = older ++ [{ id := e.id, org := e.org, place := e.place, ea := e.ea, batch := batch, what := .signal g
                                waits := ((waitTokens w).getD []).filter fun u => k.token u = 1 || k.token u = 3 }] ∧
        older.length = k.ms.comm.length ∧ ∀ (j : Nat) (x : Comm), k.ms.comm[j]? = some x → ∃ y, older[j]? = some y ∧ y = { x with waits := y.waits } ∧
          (∀ u, u < 32 → (u ∈ y.waits ↔ u ∈ x.waits ∧ (own u → k.token u = 1))) ∧
          (32 ∈ y.waits ↔ 32 ∈ x.waits ∨ ∃ u ∈ x.waits, own u ∧ u < 32 ∧ k.token u = 3) := by
  intro k t l own
  obtain ⟨toks, copies, cim, sched, sent, tokens⟩ := sendSignal_restarts s c batch e g w p prog hg
  have mem_own : ∀ u, u ∈ (produceToken p).toList ++ prog ↔ own u := fun u => by simp [own]
  have hl : l = _ := (congrArg (fun t : State => t.core c) sent).trans (State.core_setCore_self s c _)
  have others : SameOthers c s t := fun d hd => (congrArg (fun t : State => t.core d) sent).trans (State.core_setCore_other s c d _ hd)
  have mem := congrArg State.mem sent
  have hk := congrArg State.hk sent
  have regs := congrArg Core.regs hl
  have loc := congrArg Core.loc hl
  have comm := congrArg (fun k : Core => k.ms.comm) hl
  refine ⟨fun u hu => ?_, mem, hk, others, regs, loc, _, comm, List.length_map _, fun j x hx => ?_⟩
  · refine (congrArg (fun k : Core => k.token u) hl).trans ((tokens u hu).trans ?_)
    simp only [mem_own]
    rfl
  · refine ⟨_, (List.getElem?_map ..).trans (congrArg _ hx), rfl, fun u hu => ?_, ?_⟩
    · rw [mem_settled _ _ _ _ hu, mem_own]
    · simp only [failed_mem_settled, mem_own]
      rfl

end Sys2Proof.Scope
end

section
/-! What a release as a whole commits (R112, R13, R128, R404), around the effects one by one (O41). -/

namespace Sys2Proof.Scope

open Sys2Proof Sys2Proof.Machine

/-! ### What a commit leaves of its core until its end -/

/-- The fields of a core that no load, withheld effect or effect of a release changes. -/
structure Committing (k l : Core) : Prop where
  mode : l.mode = k.mode
  traps : l.traps = k.traps
  pc : l.pc = k.pc
  seq : l.seq = k.seq
  snap : l.snap = k.snap
  wh : l.ms.wh = k.ms.wh
  yqSpec : l.eng.yqSpec = k.eng.yqSpec
  nm : l.eng.nm = k.eng.nm

theorem Committing.refl (k : Core) : Committing k k := ⟨rfl, rfl, rfl, rfl, rfl, rfl, rfl, rfl⟩

theorem Committing.trans {k l m : Core} (h : Committing k l) (h' : Committing l m) : Committing k m :=
  ⟨h'.mode.trans h.mode, h'.traps.trans h.traps, h'.pc.trans h.pc, h'.seq.trans h.seq, h'.snap.trans h.snap, h'.wh.trans h.wh,
    h'.yqSpec.trans h.yqSpec, h'.nm.trans h.nm⟩

/-- A step of a commit of core c. -/
def Commits (c : CoreId) (s t : State) : Prop := Committing (s.core c) (t.core c)

theorem Commits.trans {c : CoreId} {s t u : State} (h : Commits c s t) (h' : Commits c t u) : Commits c s u := Committing.trans h h'

theorem Commits.foldl {α : Type} {c : CoreId} (f : State → α → State) (l : List α) (s : State) (hf : ∀ s, ∀ x ∈ l, Commits c s (f s x)) :
    Commits c s (l.foldl f s) :=
  List.foldlRecOn l f (Committing.refl _) fun _ h x hx => Commits.trans h (hf _ x hx)

theorem Commits.of_cache {c : CoreId} {s t : State} (h : CacheFrame c s t) : Commits c s t := by
  obtain ⟨l1, fifo, e⟩ := h.core
  rw [Commits, e]
  exact ⟨rfl, rfl, rfl, rfl, rfl, rfl, rfl, rfl⟩

theorem Commits.modCore (c : CoreId) (s : State) (f : Core → Core) (h : Committing (s.core c) (f (s.core c))) : Commits c s (s.modCore c f) := by
  rw [Commits, State.core_modCore_self]
  exact h

theorem Commits.push (c : CoreId) (s : State) (x : Comm) : Commits c s (s.push c x) :=
  Commits.modCore c s _ ⟨rfl, rfl, rfl, rfl, rfl, rfl, rfl, rfl⟩

/-! ### Loads performed early (R109) -/

theorem loadGlobal_cache (s : State) (c : CoreId) (install row : Bool) (whN : Nat) (segs : List Seg) :
    CacheFrame c s (s.loadGlobal c install row whN segs).2.2 := by
  unfold State.loadGlobal
  refine List.foldlRecOn (motive := fun (acc : List Byte × Bool × State) => CacheFrame c s acc.2.2) _ _ (CacheFrame.refl c s) fun acc h g _ => ?_
  refine List.foldlRecOn (motive := fun (acc : List Byte × Bool × State) => CacheFrame c s acc.2.2) _ _ h fun acc h p _ => ?_
  refine h.trans ?_
  by_cases hg : g.inL1 = true
  · simp only [hg, if_true]
    exact l1Load_cache _ _ _ _ _ _ _
  · simp only [hg]
    exact CacheFrame.putMem c _ _ _

theorem readPend_cache (s : State) (c : CoreId) (p : Pend) (segs : List Seg) (hp : p.place = .glob segs) (install : Bool) (o n : Nat) :
    CacheFrame c s (s.readPend c p install o n).2.2 := by
  simp only [State.readPend, hp]
  exact loadGlobal_cache ..

theorem readRest_cache (s : State) (c : CoreId) (p : Pend) (segs : List Seg) (hp : p.place = .glob segs) : CacheFrame c s (s.readRest c p).2.2 := by
  unfold State.readRest
  split
  · exact readPend_cache s c p segs hp _ _ _
  · refine List.foldlRecOn (motive := fun (acc : List Byte × Bool × State) => CacheFrame c s acc.2.2) _ _ (CacheFrame.refl c s) fun acc h i _ => ?_
    split
    · exact h
    · exact h.trans (readPend_cache acc.2.2 c p segs hp _ _ _)

theorem performLoad_commits (s : State) (c : CoreId) (p : Pend) (segs : List Seg) (hp : p.place = .glob segs) : Commits c s (s.performLoad c p) := by
  have read := Commits.of_cache (readRest_cache s c p segs hp)
  simp only [State.performLoad, hp]
  split
  · exact Committing.refl _
  · split
    · exact Commits.modCore c s _ ⟨rfl, rfl, rfl, rfl, rfl, rfl, rfl, rfl⟩
    · generalize s.readRest c p = q at read ⊢
      obtain ⟨bs, bad, t⟩ := q
      have captured := Commits.trans read (Commits.modCore c t (fun k => { k with ms.pend := k.ms.pend.map fun q =>
        if q.id = p.id then { q with got := some (loadVal p.row p.signed bad p.n bs) } else q }) ⟨rfl, rfl, rfl, rfl, rfl, rfl, rfl, rfl⟩)
      split
      · exact (Commits.trans captured (Commits.modCore c _ (fun k => k.report p.org cPoison 5 p.ea) ⟨rfl, rfl, rfl, rfl, rfl, rfl, rfl, rfl⟩)).trans
          (Commits.of_cache (CacheFrame.addRecs c _ _))
      · exact captured

/-! ### Withheld effects and effects -/

theorem commitL1_commits (s : State) (c : CoreId) (x : Comm) (g : Seg) (bs : List Byte) (p : Bool) : Commits c s (s.commitL1 c x g bs p) := by
  unfold State.commitL1
  split
  · exact Commits.of_cache (l1Store_cache ..)
  · exact Commits.push c s _

theorem commitStore_commits (s : State) (c : CoreId) (batch : Nat) (w : Withheld) (segs : List Seg) (bs : List Byte) (p : Bool) :
    Commits c s (s.commitStore c batch w segs bs p) := by
  unfold State.commitStore
  refine Commits.foldl _ _ s fun s x _ => Commits.foldl _ _ s fun s q _ => ?_
  dsimp only
  split
  · exact commitL1_commits ..
  · exact commitL1_commits ..
  · split
    · exact Commits.modCore c s _ ⟨rfl, rfl, rfl, rfl, rfl, rfl, rfl, rfl⟩
    · exact Commits.push c s _
  · exact (Commits.modCore c s _ ⟨rfl, rfl, rfl, rfl, rfl, rfl, rfl, rfl⟩).trans (Commits.push c _ _)
  · exact Commits.push c s _

theorem amoLeaves_cache (s : State) (c : CoreId) (before : List Comm) (segs : List Seg) : CacheFrame c s (s.amoLeaves c before segs).2 := by
  unfold State.amoLeaves
  dsimp only
  split
  · exact CacheFrame.refl c s
  · exact CacheFrame.foldl _ (fun s x => l1Clean_cache ..) _ s

theorem sendAmo_commits (s : State) (c : CoreId) (x : Comm) : Commits c s (s.sendAmo c x) := by
  unfold State.sendAmo
  split
  · exact (Commits.of_cache (amoLeaves_cache ..)).trans (Commits.push c _ _)
  · exact Commits.push c s x

theorem commitWithheld_commits (s : State) (c : CoreId) (batch : Nat) (w : Withheld) : Commits c s (s.commitWithheld c batch w) := by
  cases hw : w.what with
  | store bs p =>
    simp only [State.commitWithheld, hw]
    split
    · next off _ =>
      obtain ⟨regs, pc, ctrl, traps, mode, snap, ms, own, seq, acc, badRows, yqSpec, nm⟩ := storeLocal_keeps (s.core c) off bs p
      exact Commits.modCore c s _ ⟨mode, traps, pc, seq, snap, congrArg MemSide.wh ms, yqSpec, nm⟩
    · exact commitStore_commits ..
    · exact Commits.push c s _
  | amo op b d =>
    rw [commitWithheld_amo s c batch w op b d hw]
    exact sendAmo_commits ..
  | drain m sc =>
    rw [commitWithheld_drain s c batch w m sc hw]
    split
    · exact Committing.refl _
    · exact Commits.push c s _
  | rel sc =>
    rw [commitWithheld_rel s c batch w sc hw]
    exact Commits.modCore c s _ ⟨rfl, rfl, rfl, rfl, rfl, rfl, rfl, rfl⟩
  | cfRelease f =>
    rw [commitWithheld_cfRelease s c batch w f hw]
    exact Commits.modCore c s _ ⟨rfl, rfl, rfl, rfl, rfl, rfl, rfl, rfl⟩
  | aqPush v =>
    rw [commitWithheld_aqPush s c batch w v hw]
    exact Commits.modCore c s _ ⟨rfl, rfl, rfl, rfl, rfl, rfl, rfl, rfl⟩

theorem csrWrite_commits (k : Core) (n : Nat) (v : W64) : Committing k (k.csrWrite n v) := by
  unfold Core.csrWrite
  split <;> exact ⟨rfl, rfl, rfl, rfl, rfl, rfl, rfl, rfl⟩

theorem freeTokens_commits (s : State) (c : CoreId) (m : W32) : Commits c s (s.freeTokens c m) := by
  obtain ⟨toks, copies, cim, sched, e, -⟩ := restart_eq s c ((maskTokens m).filter fun t => (s.core c).token t ≠ 1) 0
    fun t ht => ((mem_maskTokens m t).1 (List.mem_filter.1 ht).1).1
  have hl := (congrArg (fun t : State => t.core c) e).trans (State.core_setCore_self s c _)
  rw [Commits, show (s.freeTokens c m).core c = _ from hl]
  exact ⟨rfl, rfl, rfl, rfl, rfl, rfl, rfl, rfl⟩

theorem sendSignal_steps (s : State) (c : CoreId) (batch : Nat) (e : CEff) (g : Signal) : Commits c s (s.sendSignal c batch e g) := by
  cases hg : g.tokens with
  | none =>
    rw [sendSignal_plain s c batch e g hg]
    exact sendAmo_commits ..
  | some q =>
    obtain ⟨w, p, prog⟩ := q
    obtain ⟨toks, copies, cim, sched, sent, -⟩ := sendSignal_restarts s c batch e g w p prog hg
    have hl := (congrArg (fun t : State => t.core c) sent).trans (State.core_setCore_self s c _)
    rw [Commits, show (s.sendSignal c batch e g).core c = _ from hl]
    exact ⟨rfl, rfl, rfl, rfl, rfl, rfl, rfl, rfl⟩

theorem commitEff_commits (s : State) (c : CoreId) (batch : Nat) (e : CEff) : Commits c s (s.commitEff c batch e) := by
  cases he : e.what with
  | csrw n v =>
    rw [commitEff_csrw s c batch e n v he]
    exact Commits.modCore c s _ (csrWrite_commits ..)
  | endTask x =>
    rw [commitEff_endTask s c batch e x he]
    exact Commits.modCore c s _ ⟨rfl, rfl, rfl, rfl, rfl, rfl, rfl, rfl⟩
  | kfree m =>
    rw [commitEff_kfree s c batch e m he]
    exact freeTokens_commits s c m
  | tlbinv a b w =>
    rw [commitEff_tlbinv s c batch e a b w he, Commits, (tlbInvalidate_drops s c a b w _).2.2 c]
    exact ⟨rfl, rfl, rfl, rfl, rfl, rfl, rfl, rfl⟩
  | l1inv =>
    rw [commitEff_l1inv s c batch e he]
    exact Committing.refl _
  | cinit f a =>
    rw [commitEff_cinit s c batch e f a he]
    exact Commits.modCore c s _ ⟨rfl, rfl, rfl, rfl, rfl, rfl, rfl, rfl⟩
  | mpsw n v =>
    rw [commitEff_mpsw s c batch e n v he]
    exact Commits.modCore c s _ ⟨rfl, rfl, rfl, rfl, rfl, rfl, rfl, rfl⟩
  | signal g =>
    rw [commitEff_signal s c batch e g he]
    exact sendSignal_steps s c batch e g

end Sys2Proof.Scope
end

section
/-! The release (R112, R220, R404): it waits, rolls back, or commits (O41). -/

namespace Sys2Proof.Scope

open Sys2Proof Sys2Proof.Machine

/-! ### The parts of a commit -/

/-- The core as its effects find it: pops final, rows taken, nothing withheld. -/
def openCommit (k : Core) : Core := { k.commitPops.commitV with ms.wh := [], ms.pend := k.ms.pend.map fun (p : Pend) => { p with whN := 0 } }

/-- The effects of a release that its commit leaves for later (R267, R269). -/
def laterEffs (r : Release) : List CEff := r.effs.filter fun e => decide (e.what = .l1inv)

/-- The end of a commit: the snapshot outside the handler, and the next interval. -/
def closeCommit (r : Release) (k : Core) : Core :=
  let k : Core := if k.mode.handler then k else k.takeSnapshot r.resume
  { k with ms.releasing := if (laterEffs r).isEmpty then none else some { r with effs := laterEffs r, committed := true }
           mode.retries := 0, mode.openSeq := k.seq }

/-- The effects of an interval, committed on a state whose core is open for them. -/
def commitAll (s : State) (c : CoreId) (batch : Nat) (wh : List Withheld) (effs : List CEff) : State :=
  effs.foldl (fun u e => u.commitEff c batch e) (wh.foldl (fun u w => u.commitWithheld c batch w) s)

/-- The loads that must perform before the stores of their interval do (R109). -/
def earlyLoads (k : Core) : List Pend := k.ms.pend.filter fun p => p.got.isNone && k.overlapsWithheld p

def performEarly (s : State) (c : CoreId) : State := (earlyLoads (s.core c)).foldl (fun s p => s.performLoad c { p with noFill := true }) s

theorem commit_eq (s : State) (c : CoreId) (r : Release) (he : r.eret = false) :
    s.commit c r =
      let u := performEarly s c
      (commitAll (u.setCore c (openCommit (u.core c))) c (u.core c).seq (u.core c).ms.wh r.effs).modCore c (closeCommit r) := by
  exact if_neg (by simp only [he, Bool.false_and, Bool.false_eq_true, not_false_eq_true])

theorem commitAll_commits (s : State) (c : CoreId) (batch : Nat) (wh : List Withheld) (effs : List CEff) : Commits c s (commitAll s c batch wh effs) :=
  (Commits.foldl _ wh s fun s w _ => commitWithheld_commits s c batch w).trans (Commits.foldl _ effs _ fun s e _ => commitEff_commits s c batch e)

/-- A load that a store of the interval holds back is one of translated memory. -/
theorem place_of_overlaps (k : Core) (p : Pend) (h : k.overlapsWithheld p = true) : ∃ segs, p.place = .glob segs := by
  unfold Core.overlapsWithheld at h
  split at h
  · next segs hp => exact ⟨segs, hp⟩
  · cases h

theorem performEarly_commits (s : State) (c : CoreId) : Commits c s (performEarly s c) := by
  refine Commits.foldl _ _ s fun s p hp => ?_
  simp only [earlyLoads, List.mem_filter, Bool.and_eq_true] at hp
  obtain ⟨segs, place⟩ := place_of_overlaps _ p hp.2.2
  exact performLoad_commits s c { p with noFill := true } segs place

theorem performEarly_none (s : State) (c : CoreId) (h : ∀ p ∈ (s.core c).ms.pend, p.got = none → (s.core c).overlapsWithheld p = false) :
    performEarly s c = s := by
  have none : earlyLoads (s.core c) = [] := by
    refine List.filter_eq_nil_iff.2 fun p hp => ?_
    cases hg : p.got with
    | none => simp [h p hp hg]
    | some v => simp
  rw [performEarly, none]
  rfl

/-- What opening a commit leaves. -/
theorem openCommit_keeps (k : Core) :
    (openCommit k).mode = k.mode ∧ (openCommit k).traps = k.traps ∧ (openCommit k).pc = k.pc ∧ (openCommit k).seq = k.seq ∧
      (openCommit k).snap = k.snap ∧ (openCommit k).regs = k.regs ∧ (openCommit k).ms.comm = k.ms.comm ∧ (openCommit k).own = k.own ∧
      (openCommit k).eng = k.commitPops.eng ∧ (openCommit k).loc.scratch = k.loc.scratch := by
  obtain ⟨whole, scratch⟩ := commitV_keeps k.commitPops
  unfold openCommit
  rw [whole]
  exact ⟨rfl, rfl, rfl, rfl, rfl, rfl, rfl, rfl, rfl, scratch⟩

theorem openCommit_eng (k : Core) : (openCommit k).eng = k.commitPops.eng := by
  obtain ⟨-, -, -, -, -, -, -, -, eng, -⟩ := openCommit_keeps k
  exact eng

theorem openCommit_nm (k : Core) (u : Fin 4) : ((openCommit k).eng.nm.get u).spec = 0 := by
  rw [openCommit_eng]
  simp [Core.commitPops, Vector.get_eq_getElem]

theorem rowAt_openCommit (k : Core) (hk : k.wf = true) (q : Nat) : (openCommit k).rowAt q = k.vAt q := rowAt_commitV k.commitPops hk q

/-- What the end of a commit leaves. -/
theorem closeCommit_keeps (r : Release) (k : Core) :
    (closeCommit r k).traps = k.traps ∧ (closeCommit r k).pc = k.pc ∧ (closeCommit r k).ms.wh = k.ms.wh ∧ (closeCommit r k).ms.comm = k.ms.comm ∧
      (closeCommit r k).ms.l1 = k.ms.l1 ∧ (closeCommit r k).loc.scratch = k.loc.scratch ∧ (closeCommit r k).eng = k.eng ∧
      (closeCommit r k).regs = k.regs ∧ (closeCommit r k).ctrl = k.ctrl ∧ (closeCommit r k).ending = k.ending ∧ (closeCommit r k).own = k.own ∧
      (∀ q, (closeCommit r k).rowAt q = k.rowAt q) ∧ (closeCommit r k).mode = { k.mode with retries := 0, openSeq := k.seq } ∧
      (closeCommit r k).ms.releasing = if laterEffs r = [] then none else some { r with effs := laterEffs r, committed := true } := by
  have releasing : (closeCommit r k).ms.releasing = if laterEffs r = [] then none else some { r with effs := laterEffs r, committed := true } := by
    simp only [closeCommit, List.isEmpty_iff]
  have taken : (if k.mode.handler then k else k.takeSnapshot r.resume) = k ∨ (if k.mode.handler then k else k.takeSnapshot r.resume) = k.takeSnapshot r.resume :=
    ite_eq_or_eq ..
  unfold closeCommit at releasing ⊢
  rcases taken with e | e <;> rw [e] at releasing ⊢ <;> exact ⟨rfl, rfl, rfl, rfl, rfl, rfl, rfl, rfl, rfl, rfl, rfl, fun _ => rfl, rfl, releasing⟩

/-- R13: outside the handler the commit takes the snapshot of what it left. -/
theorem closeCommit_snapshot (r : Release) (k : Core) (h : k.mode.handler = false) :
    (closeCommit r k).snap.regs = (closeCommit r k).regs ∧ (closeCommit r k).snap.resume = r.resume ∧ (closeCommit r k).loc.written = [] ∧
      ∀ i : BitVec 6, ((closeCommit r k).vRow i, (closeCommit r k).rowAt ((closeCommit r k).vRow i)) ∈ (closeCommit r k).snap.rows := by
  unfold closeCommit
  rw [h]
  exact ⟨rfl, rfl, rfl, mem_takeSnapshot_rows k r.resume⟩

theorem closeCommit_handler (r : Release) (k : Core) (h : k.mode.handler = true) : (closeCommit r k).snap = k.snap := by
  unfold closeCommit
  rw [h]
  rfl

/-! ### An interval of local stores -/

theorem commitWithheld_inScratch (l : List Withheld) (s : State) (c : CoreId) (batch : Nat) (k : Core) (hl : ∀ w ∈ l, w.inScratch) :
    l.foldl (fun u w => u.commitWithheld c batch w) (s.setCore c k) = s.setCore c (k.withLocal l) := by
  induction l generalizing k with
  | nil => rfl
  | cons w l ih =>
    obtain ⟨off, bs, p, hp, hw, -⟩ := hl w List.mem_cons_self
    have head : applyLocal k w = k.storeLocal off bs p := by rw [applyLocal, hp, hw]
    rw [List.foldl_cons, commitWithheld_local _ c batch w off bs p hp hw, State.core_setCore_self, setCore_setCore,
      ih _ fun x hx => hl x (List.mem_cons_of_mem _ hx), withLocal_eq, withLocal_eq, List.foldl_cons, head]

theorem overlaps_inScratch (k : Core) (p : Pend) (h : ∀ w ∈ k.ms.wh, w.inScratch) : k.overlapsWithheld p = false := by
  unfold Core.overlapsWithheld
  split
  · rw [List.any_eq_false]
    intro w hw
    obtain ⟨off, bs, q, hp, -⟩ := h w hw
    simp [hp]
  · rfl

/-- R55, R104: where only local stores are withheld, their bytes and the rows of the interval are what the release changes. -/
theorem commit_inScratch (s : State) (c : CoreId) (r : Release) (he : r.eret = false) (hl : ∀ w ∈ (s.core c).ms.wh, w.inScratch) (hr : r.effs = []) :
    s.commit c r = s.setCore c (closeCommit r ((openCommit (s.core c)).withLocal (s.core c).ms.wh)) := by
  rw [commit_eq s c r he]
  simp only [performEarly_none s c fun p _ _ => overlaps_inScratch _ p hl, commitAll, hr, List.foldl_nil, commitWithheld_inScratch _ _ _ _ _ hl,
    modCore_setCore]

theorem commit_inScratch_core (k : Core) (r : Release) (hl : ∀ w ∈ k.ms.wh, w.inScratch) :
    let l := closeCommit r ((openCommit k).withLocal k.ms.wh)
    l.regs = k.regs ∧ (k.wf = true → ∀ q, l.rowAt q = k.vAt q) ∧ l.ms.comm = k.ms.comm ∧ l.own = k.own ∧
      ∀ a, l.scratchByte a = (storedAt k.ms.wh a).getD (k.scratchByte a) := by
  intro l
  obtain ⟨-, -, -, comm, -, scratch, -, regs, -, -, own, row, -, -⟩ := closeCommit_keeps r ((openCommit k).withLocal k.ms.wh)
  obtain ⟨-, -, -, -, -, oregs, ocomm, oown, -, oscratch⟩ := openCommit_keeps k
  have keeps := withLocal_keeps (openCommit k) k.ms.wh hl
  have rows : ∀ q, ((openCommit k).withLocal k.ms.wh).rowAt q = (openCommit k).rowAt q := fun q => by
    simp only [Core.rowAt, keeps.acc, keeps.badRows]
  refine ⟨regs.trans (keeps.regs.trans oregs), fun hk q => (row q).trans ((rows q).trans (rowAt_openCommit k hk q)),
    comm.trans ((congrArg MemSide.comm keeps.ms).trans ocomm), own.trans (keeps.own.trans oown), fun a => ?_⟩
  have stored := withLocal_scratchByte k.ms.wh (openCommit k) a hl
  simp only [Core.scratchByte, oscratch] at stored
  exact (congrArg (fun m => mrd 0 m a) scratch).trans stored

end Sys2Proof.Scope
end

section
/-! The cases of CHECKPOINT_RELEASE, and the settlement of O41. -/

namespace Sys2Proof.Scope

open Sys2Proof Sys2Proof.Machine

/-! ### The cases of a release (R220, R404) -/

theorem release_flushes (s : State) (r : Release) (hr : (s.core s.cur.core).ms.releasing = some r) (hc : r.committed = true) :
    exec .checkpointRelease s = .next (if (s.core s.cur.core).l1Free then (s.l1Flush s.cur.core).modCore s.cur.core fun k => { k with ms.releasing := none } else s) := by
  show execCheckpointRelease s = _
  simp only [execCheckpointRelease, hr, hc, if_true]

theorem release_held (s : State) (r : Release) (hr : (s.core s.cur.core).ms.releasing = some r) (hc : r.committed = false)
    (hh : (s.core s.cur.core).releaseHeld r = true) : exec .checkpointRelease s = .next s := by
  show execCheckpointRelease s = _
  simp only [execCheckpointRelease, hr, hc, hh, if_true, Bool.false_eq_true, if_false]

theorem release_decides (s : State) (r : Release) (hr : (s.core s.cur.core).ms.releasing = some r) (hc : r.committed = false)
    (hh : (s.core s.cur.core).releaseHeld r = false) :
    exec .checkpointRelease s = .next (if s.pairDiffers s.cur.core then s.lockstepMismatch s.cur.core r.pc else s.commit s.cur.core r) := by
  show execCheckpointRelease s = _
  simp only [execCheckpointRelease, hr, hc, hh, Bool.false_eq_true, if_false]
  split <;> rfl

theorem pairDiffers_iff (s : State) (c : CoreId) : s.pairDiffers c = true ↔ s.cur.flag = true ∧ s.lockstep (groveOf c) = true ∧ c.val % 2 = 0 := by
  simp [State.pairDiffers, and_assoc]

/-- R267: the flush empties the L1 and leaves the rest of its core, the other cores and the scheduler. -/
theorem l1Flush_frame (s : State) (c : CoreId) :
    ∃ ms, (s.l1Flush c).core c = { s.core c with ms := ms } ∧ ms.l1 = [] ∧ ms.fifo = [] ∧ SameOthers c s (s.l1Flush c) ∧ (s.l1Flush c).sched = s.sched := by
  have cleaned : CacheFrame c s ((s.core c).ms.l1.foldl (fun s l => s.l1Clean c l.home l.line true) s) :=
    CacheFrame.foldl _ (fun s (l : L1Line) => l1Clean_cache s c l.home l.line true) _ s
  obtain ⟨device, -, -, -⟩ := cleaned.trans (CacheFrame.setLines c _ (fun _ => []) fun _ => [])
  obtain ⟨l1, fifo, core⟩ := cleaned.core
  refine ⟨{ (s.core c).ms with l1 := [], fifo := [] }, ?_, rfl, rfl, device.others, device.sched⟩
  rw [State.l1Flush, State.core_modCore_self, core]

/-! ### A difference of a lockstep pair (R404, R405) -/

/-- The record of a difference. -/
def mismatchRec (s : State) (c : CoreId) (pc : W64) : ErrRec :=
  { coreRec c 0x09 1 6 (pc &&& 0xFFFFFFFFFFFFE0) (Config.word s.freeCtr) (s.core c).domain with cycle := s.clock }

/-- The core rolled back, with one more difference counted. -/
def mismatched (s : State) (c : CoreId) : Core :=
  { (s.core c).rollback (s.freeCtr + 1) with mode.handler := false, mode.retries := (s.core c).mode.retries + 1 }

theorem rollback_releasing (k : Core) (n : Nat) : (k.rollback n).ms.releasing = k.ms.releasing.filter Release.committed := by
  unfold Core.rollback
  rw [Core.restoreRows_eq]

theorem mismatched_keeps (s : State) (c : CoreId) (r : Release) (hr : (s.core c).ms.releasing = some r) (hc : r.committed = false) :
    (mismatched s c).regs = (s.core c).snap.regs ∧ (mismatched s c).pc = (s.core c).snap.resume ∧ (mismatched s c).ms.wh = [] ∧
      (mismatched s c).ms.releasing = none ∧ (mismatched s c).loc.scratch = (s.core c).loc.scratch ∧ (mismatched s c).ending = (s.core c).ending ∧
      (mismatched s c).task = (s.core c).task := by
  let n := s.freeCtr + 1
  have releasing : (mismatched s c).ms.releasing = none := (rollback_releasing (s.core c) n).trans (by simp [hr, hc])
  obtain ⟨-, -, -, -, -, scratch⟩ := rollback_keeps (s.core c) n
  exact ⟨Core.rollback_regs _ n, Core.rollback_pc _ n, rfl, releasing, scratch, Core.rollback_ending _ n, Core.rollback_task _ n⟩

/-- The first differences in a row are recorded, and the interval runs again. -/
theorem mismatch_retries (s : State) (c : CoreId) (pc : W64) (h : (s.core c).mode.retries < 2) :
    ((s.lockstepMismatch c pc).core c) = mismatched s c ∧ (s.lockstepMismatch c pc).mem = s.mem ∧
      (s.lockstepMismatch c pc).hk.recs = queueRec s.hk.recs (mismatchRec s c pc) := by
  unfold State.lockstepMismatch
  dsimp only
  rw [if_pos h]
  exact ⟨State.core_setCore_self s c _, rfl, rfl⟩

/-- The third in a row ends the task and quarantines the core. -/
def quarantined (k : Core) : Core :=
  { k with mode.quarantined := true, mode.retries := 0
           ending := some (if k.task.any (fun t => t.idem) then .discarded false else .killed) }

/-- A discarded task is one matter of the scheduler. -/
theorem discarding_frame (P : Prop) [Decidable P] (s : State) (c : CoreId) : ∃ sched, (if P then s.discarding c else s) = { s with sched := sched } := by
  unfold State.discarding
  split
  · split
    · exact ⟨_, rfl⟩
    · exact ⟨s.sched, rfl⟩
  · exact ⟨s.sched, rfl⟩

theorem core_addRecs (s : State) (l : List ErrRec) (d : CoreId) : (s.addRecs l).core d = s.core d := rfl

/-- The third difference in a row quarantines the pair and ends the task. -/
theorem mismatch_quarantines (s : State) (c : CoreId) (pc : W64) (hc : c.val % 2 = 0) (h : ¬ (s.core c).mode.retries < 2) :
    (s.lockstepMismatch c pc).core c = quarantined (mismatched s c) ∧
      ((s.lockstepMismatch c pc).core (coreId (c.val + 1))).mode.quarantined = true ∧ (s.lockstepMismatch c pc).mem = s.mem ∧
      (s.lockstepMismatch c pc).hk.recs =
        queueRec (queueRec s.hk.recs (mismatchRec s c pc)) { mismatchRec s c pc with event := 0x0A, sev := 3 } := by
  have odd : coreId (c.val / 2 * 2 + 1) = coreId (c.val + 1) := congrArg coreId (by omega)
  have other : c ≠ coreId (c.val + 1) := fun e => by
    have := congrArg Fin.val e
    simp only [coreId] at this
    omega
  obtain ⟨sched, e⟩ := discarding_frame ((s.core c).task.any (fun t => t.idem) = true)
    ((s.setCore c (mismatched s c)).bump.bump.bump.modCore c quarantined) c
  have shape : s.lockstepMismatch c pc =
      (({ (s.setCore c (mismatched s c)).bump.bump.bump.modCore c quarantined with sched := sched } : State).modCore (coreId (c.val + 1))
        fun k => { k with mode.quarantined := true }).addRecs
        [coreRec c 0x09 1 6 (pc &&& 0xFFFFFFFFFFFFE0) (Config.word s.freeCtr) (s.core c).domain,
          { coreRec c 0x09 1 6 (pc &&& 0xFFFFFFFFFFFFE0) (Config.word s.freeCtr) (s.core c).domain with event := 0x0A, sev := 3 }] := by
    rw [← e, ← odd]
    exact if_neg h
  rw [shape]
  refine ⟨?_, ?_, rfl, rfl⟩
  · rw [core_addRecs, State.core_modCore_other _ _ _ _ other]
    exact (State.core_modCore_self _ c quarantined).trans (congrArg quarantined (State.core_setCore_self s c _))
  · rw [core_addRecs, State.core_modCore_self]

/-! ### O41 -/

/-- R112, R13: what every commit leaves of its core and of the device. -/
theorem commit_commits (s : State) (c : CoreId) (r : Release) (he : r.eret = false) :
    let k := s.core c
    let l := (s.commit c r).core c
    l.ms.wh = [] ∧ l.eng.yqSpec = 0 ∧ (∀ u, (l.eng.nm.get u).spec = 0) ∧ l.mode = { k.mode with retries := 0, openSeq := k.seq } ∧ l.traps = k.traps ∧
      l.pc = k.pc ∧ (l.ms.releasing = if laterEffs r = [] then none else some { r with effs := laterEffs r, committed := true }) ∧
      (k.mode.handler = false → l.snap.regs = l.regs ∧ l.snap.resume = r.resume ∧ l.loc.written = [] ∧
        ∀ i : BitVec 6, (l.vRow i, l.rowAt (l.vRow i)) ∈ l.snap.rows) ∧
      (k.mode.handler = true → l.snap = k.snap) := by
  intro k l
  have early : Committing k ((performEarly s c).core c) := performEarly_commits s c
  have all := commitAll_commits ((performEarly s c).setCore c (openCommit ((performEarly s c).core c))) c ((performEarly s c).core c).seq
    ((performEarly s c).core c).ms.wh r.effs
  have hl : l = closeCommit r ((commitAll ((performEarly s c).setCore c (openCommit ((performEarly s c).core c))) c ((performEarly s c).core c).seq
    ((performEarly s c).core c).ms.wh r.effs).core c) := by
    rw [show l = (s.commit c r).core c from rfl, commit_eq s c r he]
    exact State.core_modCore_self _ c (closeCommit r)
  rw [hl]
  generalize (performEarly s c).core c = k1 at all early ⊢
  unfold Commits at all
  rw [State.core_setCore_self] at all
  generalize (commitAll ((performEarly s c).setCore c (openCommit k1)) c k1.seq k1.ms.wh r.effs).core c = m at all ⊢
  obtain ⟨omode, otraps, opc, oseq, osnap, -, -, -, -, -⟩ := openCommit_keeps k1
  obtain ⟨ctraps, cpc, cwh, -, -, -, ceng, -, -, -, -, -, cmode, creleasing⟩ := closeCommit_keeps r m
  have mode : m.mode = k.mode := all.mode.trans (omode.trans early.mode)
  have seq : m.seq = k.seq := all.seq.trans (oseq.trans early.seq)
  refine ⟨cwh.trans all.wh, ?_, fun u => ?_, by rw [cmode, mode, seq], ctraps.trans (all.traps.trans (otraps.trans early.traps)),
    cpc.trans (all.pc.trans (opc.trans early.pc)), creleasing, fun hh => closeCommit_snapshot r m (by rw [mode, hh]), fun hh => ?_⟩
  · rw [ceng, all.yqSpec, (openCommit_eng k1)]
    rfl
  · rw [ceng, all.nm]
    exact openCommit_nm k1 u
  · exact (closeCommit_handler r m (by rw [mode, hh])).trans (all.snap.trans (osnap.trans early.snap))

/-- R267: a committed release whose dirty lines may all be written back empties the L1 and ends. -/
theorem release_flush (s : State) (r : Release) (hr : (s.core s.cur.core).ms.releasing = some r) (hc : r.committed = true)
    (hf : (s.core s.cur.core).l1Free = true) :
    ∃ t, exec .checkpointRelease s = .next t ∧ (t.core s.cur.core).ms.l1 = [] ∧ (t.core s.cur.core).ms.fifo = [] ∧
      (t.core s.cur.core).ms.releasing = none ∧ SameProgram (s.core s.cur.core) (t.core s.cur.core) ∧ SameOthers s.cur.core s t ∧ t.sched = s.sched := by
  obtain ⟨ms, core, hl1, hfifo, others, sched⟩ := l1Flush_frame s s.cur.core
  have hl : ((s.l1Flush s.cur.core).modCore s.cur.core fun k => { k with ms.releasing := none }).core s.cur.core =
      { s.core s.cur.core with ms := { ms with releasing := none } } := by rw [State.core_modCore_self, core]
  refine ⟨_, (release_flushes s r hr hc).trans (congrArg _ (if_pos hf)), ?_⟩
  rw [hl]
  exact ⟨hl1, hfifo, rfl, ⟨rfl, rfl, rfl, rfl, rfl, rfl, rfl, rfl, rfl, rfl, rfl, rfl⟩,
    fun d hd => (State.core_modCore_other _ _ _ _ hd).trans (others d hd), sched⟩

/-- R404, R405: where the pair differs nothing commits. -/
theorem release_mismatch (s : State) (r : Release) (hr : (s.core s.cur.core).ms.releasing = some r) (hc : r.committed = false)
    (hh : (s.core s.cur.core).releaseHeld r = false)
    (hd : s.cur.flag = true ∧ s.lockstep (groveOf s.cur.core) = true ∧ s.cur.core.val % 2 = 0) :
    ∃ t, exec .checkpointRelease s = .next t ∧
      let c := s.cur.core
      let k := s.core c
      let l := t.core c
      l.regs = k.snap.regs ∧ l.pc = k.snap.resume ∧ l.ms.wh = [] ∧ l.ms.releasing = none ∧ l.loc.scratch = k.loc.scratch ∧ t.mem = s.mem ∧
      ∃ e, e.event = 0x09 ∧ e.core = some c.val ∧ e.addr = r.pc &&& 0xFFFFFFFFFFFFE0 ∧
        (k.mode.retries < 2 → l.mode.retries = k.mode.retries + 1 ∧ l.ending = k.ending ∧ t.hk.recs = queueRec s.hk.recs e) ∧
        (2 ≤ k.mode.retries → l.mode.quarantined = true ∧ (t.core (coreId (c.val + 1))).mode.quarantined = true ∧
          l.ending = some (if k.task.any (fun x => x.idem) then .discarded false else .killed) ∧
          ∃ f, f.event = 0x0A ∧ t.hk.recs = queueRec (queueRec s.hk.recs e) f) := by
  refine ⟨s.lockstepMismatch s.cur.core r.pc, ?_, ?_⟩
  · rw [release_decides s r hr hc hh, (pairDiffers_iff s s.cur.core).2 hd]
    rfl
  intro c k l
  obtain ⟨regs, pc, wh, releasing, scratch, ending, task⟩ := mismatched_keeps s c r hr hc
  by_cases h : k.mode.retries < 2
  · obtain ⟨core, mem, recs⟩ := mismatch_retries s c r.pc h
    rw [show l = mismatched s c from core]
    exact ⟨regs, pc, wh, releasing, scratch, mem, mismatchRec s c r.pc, rfl, rfl, rfl, fun _ => ⟨rfl, ending, recs⟩, fun h2 => absurd h (Nat.not_lt.2 h2)⟩
  · obtain ⟨core, odd, mem, recs⟩ := mismatch_quarantines s c r.pc hd.2.2 h
    have fate : (quarantined (mismatched s c)).ending = some (if k.task.any (fun x => x.idem) then .discarded false else .killed) := by
      rw [quarantined, task]
    rw [show l = quarantined (mismatched s c) from core]
    exact ⟨regs, pc, wh, releasing, scratch, mem, mismatchRec s c r.pc, rfl, rfl, rfl, fun h2 => absurd h2 h, fun _ => ⟨rfl, odd, fate, _, rfl, recs⟩⟩

/-- Settles O41: a release that nothing holds is a fold over its withheld effects and its effects between an opening and a closing of its core; each
effect is one equation. -/
theorem releasesCommitTheInterval : Obligations.ReleasesCommitTheInterval := by
  refine ⟨fun s r => ?release, fun s c batch w => ?withheld, fun s c batch e => ?effects⟩
  case release =>
    intro c k differ out hr
    have decided : ¬ differ → s.pairDiffers c = false := fun h => by
      rw [← Bool.not_eq_true, pairDiffers_iff]
      exact h
    have committed : r.committed = false → k.releaseHeld r = false → ¬ differ → out = .next (s.commit c r) := fun hc hh hd => by
      rw [show out = _ from release_decides s r hr hc hh, decided hd]
      rfl
    refine ⟨fun hc hf => ?_, fun hc hf => ?_, fun hc hh => release_held s r hr hc hh, fun hc hh hd he => ?_, fun hc hh hd => ?_, fun hc hh hd he hp => ?_⟩
    · rw [show out = _ from release_flushes s r hr hc, hf]
      rfl
    · exact release_flush s r hr hc hf
    · obtain ⟨wh, yq, nm, mode, traps, pc, releasing, snap, handler⟩ := commit_commits s c r he
      refine ⟨s.commit c r, committed hc hh hd, wh, yq, nm, mode, traps, pc, releasing, snap, handler, fun hl hr => ?_⟩
      obtain ⟨regs, rows, comm, own, bytes⟩ := commit_inScratch_core k r hl
      rw [commit_inScratch s c r he hl hr, State.core_setCore_self]
      exact ⟨⟨rfl, rfl, rfl, rfl, rfl⟩, fun d hd => State.core_setCore_other s c d _ hd, regs, rows, comm, own, fun a _ => bytes a⟩
    · exact release_mismatch s r hr hc hh hd
    · intro start stores all
      have close : s.commit c r = all.modCore c (closeCommit r) := by
        rw [commit_eq s c r he, performEarly_none s c hp]
        rfl
      obtain ⟨-, -, -, comm, l1, scratch, eng, regs, ctrl, ending, -, -, -, -⟩ := closeCommit_keeps r (all.core c)
      refine ⟨s.commit c r, committed hc hh hd, ?_⟩
      rw [close, State.core_modCore_self]
      exact ⟨rfl, rfl, rfl, fun d hd => State.core_modCore_other _ _ _ _ hd, comm, l1, scratch, eng, regs, ctrl, ending⟩
  case withheld =>
    intro k t l item clear
    refine ⟨fun bs p hw => ⟨fun o hp ho => localStore_commits s c batch w o bs p hp hw ho, fun h o hp => commitWithheld_remote s c batch w h o bs p hp hw,
      fun g hp hl hn => ?_⟩, fun op b d hw => ⟨fun h o hp => ?_, fun segs hp hc => ?_⟩, fun m sc hw => ?_, fun sc hw => ?_, fun f hw => ?_, fun v hw => ?_⟩
    · obtain ⟨l1, plain, slice, block⟩ := commitStore_one s c batch w g bs p hl hn
      have ht : t = s.commitStore c batch w [g] bs p := commitWithheld_global s c batch w [g] bs p hp hw
      refine ⟨fun hc h => ht.trans (plain hc h), fun hc h => ?_, fun hc h => ?_, fun hc h => ?_⟩
      · rw [ht]
        exact sliceStore_commits s c batch w g bs p hl hn hc h
      · rw [ht, block hc h, State.modCore, dropExpanded_one _ g hc hn h]
        rfl
      · exact ht.trans (l1 hc h)
    · exact (commitWithheld_amo s c batch w op b d hw).trans (sendAmo_plain s c _ fun segs e => Place.noConfusion (hp.symm.trans e))
    · exact (commitWithheld_amo s c batch w op b d hw).trans (sendAmo_clear s c _ segs hp rfl hc.1 hc.2)
    · exact commitWithheld_drain s c batch w m sc hw
    · exact commitWithheld_rel s c batch w sc hw
    · intro x hx
      refine (commitWithheld_cfRelease s c batch w f hw).trans ?_
      dsimp only [State.modCore]
      rw [if_neg (show ((s.core c).eng.carafes.get f).n ≠ 0 from Nat.ne_of_gt hx)]
    · exact commitWithheld_aqPush s c batch w v hw
  case effects =>
    intro k t l item
    refine ⟨fun n v he => ?_, fun x he => ?_, fun m he => ?_, fun a b w he => ?_, fun he => ?_, fun f a he => ?_, fun n v he => ?_,
      fun g he => ⟨fun hg => ?_, fun w p prog hg => ?_⟩⟩
    · exact commitEff_csrw s c batch e n v he
    · exact commitEff_endTask s c batch e x he
    · have ht : t = s.freeTokens c m := commitEff_kfree s c batch e m he
      rw [show l = (s.freeTokens c m).core c from congrArg (fun u : State => u.core c) ht, ht]
      exact freeTokens_frees s c m
    · have ht : t = s.tlbInvalidate c (w.extractLsb' 8 2).toNat a b w := commitEff_tlbinv s c batch e a b w he
      obtain ⟨entries, groves, frame⟩ := tlbInvalidate_drops s c a b w (w.extractLsb' 8 2).toNat
      rw [ht]
      exact ⟨entries, groves, rfl, rfl, frame⟩
    · exact commitEff_l1inv s c batch e he
    · exact commitEff_cinit s c batch e f a he
    · exact ⟨_, commitEff_mpsw s c batch e n v he, fun i => mrd_mwr_if _ _ _ _⟩
    · have ht : t = s.sendAmo c { item with what := .signal g } := (commitEff_signal s c batch e g he).trans (sendSignal_plain s c batch e g hg)
      exact ⟨fun hp => ht.trans (sendAmo_plain s c _ hp), fun segs hp absent early => ht.trans (sendAmo_clear s c _ segs hp rfl absent early)⟩
    · have ht : t = s.sendSignal c batch e g := commitEff_signal s c batch e g he
      rw [show l = (s.sendSignal c batch e g).core c from congrArg (fun u : State => u.core c) ht, ht]
      exact sendSignal_commits s c batch e g w p prog hg

end Sys2Proof.Scope
end

section
/-! Commands of the mailbox: what running one comes to (R410, R414). -/

namespace Sys2Proof.Scope

open Sys2Proof Sys2Proof.Machine

/-- The two ways of the model and of the statements to set a bit of `HINT` agree (R412). -/
theorem hintBit_eq_hinted (h : Hsk) (i : Fin 5) : h.hintBit i = h.hinted i := by
  have mask : BitVec.ofNat 64 (2 ^ i.val) = (1 <<< i.val : W64) := by revert i; decide
  have raised : (if h.hint.getLsbD i.val then h.msix else h.msix.set i.val (h.msix.get i + 1) i.isLt) =
      Vector.ofFn fun j : Fin 5 => if j = i ∧ h.hint.getLsbD i.val = false then h.msix.get j + 1 else h.msix.get j := by
    ext j hj
    cases hb : h.hint.getLsbD i.val
    · by_cases hji : (⟨j, hj⟩ : Fin 5) = i
      · subst hji; simp
      · have hij : i.val ≠ j := fun e => hji (Fin.ext e.symm)
        simp [hji, Vector.getElem_set_ne _ _ hij, Vector.get_eq_getElem]
    · simp [Vector.get_eq_getElem]
  rw [Hsk.hintBit, Hsk.hinted, mask, raised]

/-- The completion of a command is the answer with its status and words (R414). -/
theorem mbDone_answers (s : State) (op : Nat) (a : MbAnswer) :
    AnswersWith (.next (s.modHk fun h => h.mbDone op a)) s op a.status a.w1 a.w2 := by
  have head : BitVec.ofNat 64 (a.status * 256 + op) = wordOf [(8, a.status), (0, op)] := by simp [wordOf]
  refine ⟨_, ?_, ?_, ?_, congrArg (fun g => (.next { s with hk := g } : Out)) (hintBit_eq_hinted _ 0)⟩
  · rw [← head]; simp [mrd_mwr_other]
  · simp [mrd_mwr_other]
  · simp

/-- Before READY only `ATTEST` is performed, and no unassigned opcode is (R410, R414). -/
theorem mbRefuses_none (h : Hsk) (op : Nat) (ready : h.ready = true ∨ op = 1) (known : op ∈ mailboxOps) : h.mbRefuses op = none := by
  have serves : ¬ (!h.ready && decide (op ≠ 1)) = true := by simpa [or_iff_not_imp_left] using ready
  have assigned : ¬ (!mailboxOps.contains op) = true := by simpa using known
  rw [Hsk.mbRefuses, if_neg serves, if_neg assigned]

/-- A command that runs and that its step names is performed from its request words, and completes. -/
theorem mbRun_runs (s : State) (op : Nat) (f : W64 → W64 → State → MbAnswer × State) (a b : W64) (h : s.mbRuns op a b) :
    s.mbRun op f = .next ((f a b s).2.modHk fun g => g.mbDone op (f a b s).1) := by
  obtain ⟨ready, known, c, hc, rfl, rfl, rfl⟩ := h
  have accepted : s.hk.mbRefuses (bits (c.words.getD 0 0) 0 8) = none := mbRefuses_none s.hk _ ready known
  simp only [State.mbRun, hc, accepted]
  exact if_neg fun h => h rfl

/-- So the step answers with what performing the command gives. -/
theorem mbRun_answers (s u : State) (op : Nat) (f : W64 → W64 → State → MbAnswer × State) (a b : W64) (r : MbAnswer) (h : s.mbRuns op a b)
    (hf : f a b s = (r, u)) : AnswersWith (s.mbRun op f) u op r.status r.w1 r.w2 := by
  rw [mbRun_runs s op f a b h, hf]
  exact mbDone_answers u op r

end Sys2Proof.Scope
end

section
/-! Lanes of a port and the word of `LINKSTATn` (R424). -/

namespace Sys2Proof.Scope

open Sys2Proof Sys2Proof.Machine

/-! ### Masks of lanes -/

/-- A number without a bit that it had has its other bits. -/
theorem testBit_sub_two_pow (m i j : Nat) (h : m.testBit i = true) : (m - 2 ^ i).testBit j = (m.testBit j && j != i) := by
  have le : 2 ^ i ≤ m := Nat.ge_two_pow_of_testBit h
  induction i generalizing m j with
  | zero =>
    have odd : m % 2 = 1 := by simpa using h
    cases j with
    | zero => simp; omega
    | succ j => simp [Nat.testBit_add_one, show (m - 1) / 2 = m / 2 by omega]
  | succ i ih =>
    rw [Nat.testBit_add_one] at h
    have half : (m - 2 ^ (i + 1)) / 2 = m / 2 - 2 ^ i := by omega
    cases j with
    | zero => simp; omega
    | succ j => rw [Nat.testBit_add_one, half, ih (m / 2) j h (by omega), Nat.testBit_add_one]; simp

/-- One lane less. -/
theorem laneCount_sub (m i : Nat) (hi : i < 8) (h : m.testBit i = true) : laneCount (m - 2 ^ i) = laneCount m - 1 := by
  have rest : (List.range 8).filter (fun j => (m - 2 ^ i).testBit j) = ((List.range 8).filter fun j => m.testBit j).erase i := by
    rw [(List.nodup_range.filter _).erase_eq_filter, List.filter_filter]
    exact List.filter_congr fun j _ => by rw [testBit_sub_two_pow m i j h, Bool.and_comm]
  have mem : i ∈ (List.range 8).filter fun j => m.testBit j := List.mem_filter.2 ⟨List.mem_range.2 hi, h⟩
  rw [laneCount, rest, List.length_erase_of_mem mem, laneCount]

/-- A lane more is no lane less. -/
theorem laneCount_le_or (m k : Nat) : laneCount m ≤ laneCount (m ||| k) :=
  (List.monotone_filter_right _ fun j h => by simp [h]).length_le

/-! ### The word of a port -/

theorem linkWord_eq_linkstatOf (lanes : Nat) (rx tx up : Bool) (h : lanes < 256) : linkWord lanes rx tx up = linkstatOf lanes rx tx up := by
  simp [linkWord, linkstatOf, wordOf, flag, Nat.mod_eq_of_lt h, Nat.add_assoc]

/-- Only the word of one port is written, and `HINT.LINK` set where it changes (R412). -/
def LinkSet (h g : Hsk) (n : Fin 12) (x : W64) : Prop :=
  g.linkstat.get n = x ∧ (∀ j, j ≠ n → g.linkstat.get j = h.linkstat.get j) ∧
    g = if x = h.linkstat.get n then h else Hsk.hinted { h with linkstat := g.linkstat } 3

theorem setLink_sets (h : Hsk) (n : Fin 12) (x : W64) : LinkSet h (h.setLink n x) n x := by
  unfold Hsk.setLink Hsk.link
  split
  case isTrue same => exact ⟨same, fun _ _ => rfl, (if_pos same.symm).symm⟩
  case isFalse changed =>
    rw [hintBit_eq_hinted]
    refine ⟨?_, fun j hj => ?_, (if_neg (Ne.symm changed)).symm⟩
    · simp [Hsk.hinted, Vector.get_eq_getElem]
    · exact Vector.getElem_set_ne n.isLt j.isLt fun e => hj (Fin.ext e.symm)

/-- A port's word written from its fields. -/
theorem setLink_linkWord_sets (h : Hsk) (n : Fin 12) (lanes : Nat) (rx tx up : Bool) (lt : lanes < 256) :
    LinkSet h (h.setLink n (linkWord lanes rx tx up)) n (linkstatOf lanes rx tx up) := by
  rw [linkWord_eq_linkstatOf lanes rx tx up lt]
  exact setLink_sets ..

theorem port12_val (n : Fin 12) : port12 n.val = n := Fin.ext (Nat.mod_eq_of_lt n.isLt)

theorem lanes_lt (w : W64) (lo : Nat) : bits w lo 8 < 256 := Nat.mod_lt _ (by decide)

/-- The ports that are up after one came up. -/
theorem linkUp_set (m : BitVec 12) (n : Fin 12) (j : Nat) (hj : j < 12) :
    (m ||| BitVec.ofNat 12 (2 ^ n.val)).getLsbD j = if j = n.val then true else m.getLsbD j := by
  simp only [BitVec.getLsbD_or, BitVec.getLsbD_ofNat, Nat.testBit_two_pow, hj, decide_true, Bool.true_and, eq_comm (a := n.val)]
  split <;> simp [*]

/-- The ports that are up after one went down. -/
theorem linkUp_clear (m : BitVec 12) (n : Fin 12) (j : Nat) (hj : j < 12) :
    (m &&& ~~~(BitVec.ofNat 12 (2 ^ n.val))).getLsbD j = if j = n.val then false else m.getLsbD j := by
  simp only [BitVec.getLsbD_and, BitVec.getLsbD_not, BitVec.getLsbD_ofNat, Nat.testBit_two_pow, hj, decide_true, Bool.true_and, eq_comm (a := n.val)]
  split <;> simp [*]

/-! ### One lane of a port that is up -/

/-- The word of a port that serves on other lanes. -/
def lanesWord (h : Hsk) (n : Fin 12) (lanes : Nat) : W64 :=
  linkstatOf lanes ((h.linkstat.get n).getLsbD 2) ((h.linkstat.get n).getLsbD 1) ((h.linkstat.get n).getLsbD 0)

/-- The lanes in use of a port. -/
def lanesOf (h : Hsk) (n : Fin 12) : Nat := ((h.linkstat.get n).extractLsb' 8 8).toNat

theorem lanesOf_lt (h : Hsk) (n : Fin 12) : lanesOf h n < 256 := BitVec.isLt _

/-- A lane fails and four stay. -/
theorem setLane_loses (h : Hsk) (n : Fin 12) (i : Nat) (hi : i < 8) (used : (lanesOf h n).testBit i = true) (good : 5 ≤ laneCount (lanesOf h n)) :
    h.setLane n i false = h.setLink n (lanesWord h n (lanesOf h n - 2 ^ i)) := by
  have left := laneCount_sub _ i hi used
  have lanes : bits (h.link n) 8 8 = lanesOf h n := rfl
  have word := fun rx tx up => linkWord_eq_linkstatOf (lanesOf h n - 2 ^ i) rx tx up (Nat.lt_of_le_of_lt (Nat.sub_le _ _) (lanesOf_lt h n))
  simp only [Hsk.setLane, lanes, used, Bool.false_eq_true, if_true, if_false, word]
  exact if_neg (by omega)

/-- The loss of a lane of which too few would stay is not this step's. -/
theorem setLane_keeps (h : Hsk) (n : Fin 12) (i : Nat) (hi : i < 8) (used : (lanesOf h n).testBit i = true) (few : laneCount (lanesOf h n) ≤ 4) :
    h.setLane n i false = h := by
  have left := laneCount_sub _ i hi used
  have lanes : bits (h.link n) 8 8 = lanesOf h n := rfl
  have one : 0 < laneCount (lanesOf h n) := List.length_pos_of_mem (List.mem_filter.2 ⟨List.mem_range.2 hi, used⟩)
  simp only [Hsk.setLane, lanes, used, Bool.false_eq_true, if_true, if_false]
  exact if_pos (by omega)

/-- A lane is good again. -/
theorem setLane_retrains (h : Hsk) (n : Fin 12) (i : Nat) (hi : i < 8) (good : 4 ≤ laneCount (lanesOf h n)) :
    h.setLane n i true = h.setLink n (lanesWord h n (lanesOf h n ||| 2 ^ i)) := by
  have more := laneCount_le_or (lanesOf h n) (2 ^ i)
  have lanes : bits (h.link n) 8 8 = lanesOf h n := rfl
  have lt : lanesOf h n ||| 2 ^ i < 2 ^ 8 := Nat.or_lt_two_pow (lanesOf_lt h n) (Nat.pow_lt_pow_right (by decide) hi)
  simp only [Hsk.setLane, lanes, if_true, linkWord_eq_linkstatOf _ _ _ _ lt]
  exact if_neg (by omega)

/-! ### Accesses lost with their home (R39, R424) -/

/-- Reports of a list of accesses, which change nothing of the core that the level of an address depends on. -/
theorem foldl_report {α : Type} (o : α → Origin) (kind : α → AccKind) (ea : α → W64) (c : Byte) (l : List α) (k : Core) :
    l.foldl (fun (k : Core) x => k.report (o x) c (xlDetail (kind x) (k.levelOf (ea x))) (ea x)) k =
      { k with reports := k.reports ++ l.map fun x => reportOf (o x) c (xlDetail (kind x) (k.levelOf (ea x))) (ea x) } := by
  induction l generalizing k with
  | nil => simp
  | cons x l ih =>
    rw [List.foldl_cons, ih, List.map_cons, List.append_cons]
    rfl

theorem loseHome_loses (k : Core) (h : Nat) : LosesHome k (k.loseHome h) h := by
  simp only [Core.loseHome, foldl_report]
  exact ⟨rfl, rfl, rfl, rfl⟩

theorem core_loseHome (s : State) (h : Nat) (d : CoreId) : (s.loseHome h).core d = (s.core d).loseHome h := by
  simp [State.core, State.loseHome, Vector.get_eq_getElem]

theorem loseHome_cores (s : State) (h : Nat) (d : CoreId) : LosesHome (s.core d) ((s.loseHome h).core d) h := by
  rw [core_loseHome]
  exact loseHome_loses _ h

end Sys2Proof.Scope
end

section
/-! The steps of the links, and the settlement of O54. -/

namespace Sys2Proof.Scope

open Sys2Proof Sys2Proof.Machine

/-! ### Meanings of the instructions of the links -/

theorem exec_linkTraining (s : State) : exec .linkTraining s = execLinkTraining s := rfl
theorem exec_linkDown (s : State) : exec .linkDown s = execLinkDown s := rfl
theorem exec_laneLoss (s : State) : exec .laneLoss s = execLaneLoss s := rfl
theorem exec_lanert (s : State) : exec .lanert s = execLanert s := rfl
theorem exec_hostLinkDown (s : State) : exec .hostLinkDown s = execHostLinkDown s := rfl

/-! ### A port that is down, and one that goes down (R424) -/

/-- A port that is up does not train again. -/
theorem linkTraining_up (s : State) (n : Fin 12) (hn : s.cur.k = n.val) (h : s.mem.linkUp.getLsbD n.val = true) : exec .linkTraining s = .next s := by
  rw [exec_linkTraining, execLinkTraining, hn, port12_val]
  exact if_pos h

/-- A port that is down comes up with four good lanes or more, or stays down. -/
theorem linkTraining_trains (s : State) (n : Fin 12) (hn : s.cur.k = n.val) (h : s.mem.linkUp.getLsbD n.val = false) :
    let l := bits s.cur.v 0 8
    let up := decide (4 ≤ laneCount l)
    ∃ t, exec .linkTraining s = .next t ∧ t.cores = s.cores ∧ t.sched = s.sched ∧
      LinkSet s.hk t.hk n (linkstatOf (if up then l else 0) (up && s.cur.v.getLsbD 8) (s.hk.record.linkEtb.getLsbD n.val) up) ∧
      ∀ j, j < 12 → t.mem.linkUp.getLsbD j = if j = n.val then up else s.mem.linkUp.getLsbD j := by
  intro l up
  rw [exec_linkTraining, execLinkTraining, hn, port12_val]
  refine ⟨_, if_neg (Bool.eq_false_iff.1 h), ?_⟩
  by_cases good : 4 ≤ laneCount l
  · have yes : up = true := decide_eq_true good
    simp only [yes, ge_iff_le, show 4 ≤ laneCount (bits s.cur.v 0 8) from good, if_true, decide_true, Bool.true_and]
    exact ⟨rfl, rfl, setLink_linkWord_sets _ _ _ _ _ _ (lanes_lt s.cur.v 0), linkUp_set _ n⟩
  · have no : up = false := decide_eq_false good
    simp only [no, ge_iff_le, show ¬ 4 ≤ laneCount (bits s.cur.v 0 8) from good, if_false, decide_false, Bool.false_and, Bool.false_eq_true]
    refine ⟨rfl, rfl, setLink_linkWord_sets _ _ _ _ _ _ (by decide), fun j _ => ?_⟩
    split
    next e => rw [e]; exact h
    next => rfl

/-- A port that is down neither goes down nor loses a lane. -/
theorem linkDown_down (s : State) (n : Fin 12) (hn : s.cur.k = n.val) (h : s.mem.linkUp.getLsbD n.val = false) :
    exec .linkDown s = .next s ∧ exec .laneLoss s = .next s := by
  rw [exec_linkDown, execLinkDown, exec_laneLoss, execLaneLoss, hn, port12_val, h]
  exact ⟨rfl, rfl⟩

/-- A port that goes down takes its outstanding accesses with it. -/
theorem linkDown_loses (s : State) (n : Fin 12) (hn : s.cur.k = n.val) (h : s.mem.linkUp.getLsbD n.val = true) :
    let w := s.hk.linkstat.get n
    ∃ t, exec .linkDown s = .next t ∧ t.sched = s.sched ∧ LinkSet s.hk t.hk n (linkstatOf 0 (w.getLsbD 2) (w.getLsbD 1) false) ∧
      (∀ j, j < 12 → t.mem.linkUp.getLsbD j = if j = n.val then false else s.mem.linkUp.getLsbD j) ∧
      t.mem = { s.mem with linkUp := t.mem.linkUp } ∧ ∀ d, LosesHome (s.core d) (t.core d) (n.val + 1) := by
  rw [exec_linkDown, execLinkDown, hn, port12_val, h]
  exact ⟨_, rfl, rfl, setLink_linkWord_sets _ _ _ _ _ _ (by decide), linkUp_clear _ n, rfl, fun d => loseHome_cores _ _ d⟩

/-! ### One lane (R424) -/

theorem laneLoss_up (s : State) (n : Fin 12) (hn : s.cur.k = n.val) (h : s.mem.linkUp.getLsbD n.val = true) :
    exec .laneLoss s = .next { s with hk := s.hk.setLane n (s.cur.k2 % 8) false } := by
  rw [exec_laneLoss, execLaneLoss, hn, port12_val, h]
  rfl

/-- A port that is up serves on while four lanes stay; a loss that leaves fewer is `LINK_DOWN`. -/
theorem laneLoss_loses (s : State) (n : Fin 12) (hn : s.cur.k = n.val) (h : s.mem.linkUp.getLsbD n.val = true) (i : Nat) (hi : i < 8)
    (hk : s.cur.k2 = i) (used : (lanesOf s.hk n).testBit i = true) :
    (5 ≤ laneCount (lanesOf s.hk n) →
      ∃ g, exec .laneLoss s = .next { s with hk := g } ∧ LinkSet s.hk g n (lanesWord s.hk n (lanesOf s.hk n - 2 ^ i))) ∧
    (laneCount (lanesOf s.hk n) ≤ 4 → exec .laneLoss s = .next s) := by
  rw [laneLoss_up s n hn h, hk, Nat.mod_eq_of_lt hi]
  refine ⟨fun good => ⟨_, rfl, ?_⟩, fun few => ?_⟩
  · rw [setLane_loses s.hk n i hi used good]
    exact setLink_sets ..
  · rw [setLane_keeps s.hk n i hi used few]

/-- LANERT names a port that is not there, one that is down, or a lane to retrain. -/
theorem lanert_answers (s : State) (n : Fin 12) (a b : W64) (h : s.mbRuns 0x35 a b) :
    (12 ≤ bits a 0 4 → AnswersWith (exec .lanert s) s 0x35 3 0 0) ∧
    (bits a 0 4 = n.val → s.mem.linkUp.getLsbD n.val = false → AnswersWith (exec .lanert s) s 0x35 0 0 0) ∧
    (bits a 0 4 = n.val → s.mem.linkUp.getLsbD n.val = true → s.cur.flag = true → 4 ≤ laneCount (lanesOf s.hk n) →
      ∃ g, LinkSet s.hk g n (lanesWord s.hk n (lanesOf s.hk n ||| 2 ^ bits a 8 3)) ∧ AnswersWith (exec .lanert s) { s with hk := g } 0x35 0 0 0) := by
  have port : bits a 0 4 = n.val → ¬ bits a 0 4 > 11 := fun hp => by have := n.isLt; omega
  rw [exec_lanert, execLanert]
  refine ⟨fun hp => ?absent, fun hp hd => ?down, fun hp hu hf good => ⟨s.hk.setLane n (bits a 8 3) true, ?_, ?retrained⟩⟩
  case absent => exact mbRun_answers s s 0x35 _ a b ⟨3, 0, 0⟩ h (if_pos hp)
  case down => exact mbRun_answers s s 0x35 _ a b ⟨0, 0, 0⟩ h ((if_neg (port hp)).trans (by rw [hp, hd]; rfl))
  case retrained =>
    refine mbRun_answers s _ 0x35 _ a b ⟨0, 0, 0⟩ h ((if_neg (port hp)).trans ?_)
    rw [hp, hu, port12_val, hf]
    rfl
  · rw [setLane_retrains s.hk n (bits a 8 3) (Nat.mod_lt _ (by decide)) good]
    exact setLink_sets ..

/-! ### The host link (R39) -/

theorem hostLinkDown_comesBack (s : State) (h : s.cur.flag = true) : exec .hostLinkDown s = .next { s with mem := { s.mem with hostUp := true } } :=
  if_pos h

theorem hostLinkDown_loses (s : State) (h : s.cur.flag = false) :
    ∃ t, exec .hostLinkDown s = .next t ∧ t.sched = s.sched ∧ t.hk = s.hk ∧ t.mem = { s.mem with hostUp := false } ∧
      ∀ d, LosesHome (s.core d) (t.core d) 13 :=
  ⟨_, if_neg (Bool.eq_false_iff.1 h), rfl, rfl, rfl, fun d => loseHome_cores _ _ d⟩

/-- Settles O54: the steps of a port, the retraining of a lane, and the host link. -/
theorem linksTrainLoseLanesAndGoDown : Obligations.LinksTrainLoseLanesAndGoDown := by
  intro s n hn
  exact ⟨linkTraining_up s n hn, linkTraining_trains s n hn, linkDown_down s n hn, linkDown_loses s n hn, laneLoss_loses s n hn,
    lanert_answers s n, hostLinkDown_comesBack s, hostLinkDown_loses s⟩

end Sys2Proof.Scope
end

section
/-! The commit order of a core: what lets an item be performed now (R110, R113). -/

namespace Sys2Proof.Scope

open Sys2Proof Sys2Proof.Machine

/-- A free item is at its place of the commit order. -/
theorem freeItem_at {k : Core} {i : Nat} {w : Comm} (h : k.freeItem i w) : k.ms.comm[i]? = some w := h.1

/-- Before a free item there are only stores and atomics, none on its path. -/
theorem freeItem_before {k : Core} {i : Nat} {w d : Comm} (h : k.freeItem i w) (hd : d ∈ k.ms.comm.take i) :
    (d.isAccess = true → d.samePath w = false) ∧ ((∃ bs p, d.what = .store bs p) ∨ ∃ op b c, d.what = .amo op b c) := by
  obtain ⟨path, kind⟩ := h.2.2 d hd
  refine ⟨path, ?_⟩
  cases hw : d.what with
  | store bs p => exact .inl ⟨bs, p, rfl⟩
  | amo op b c => exact .inr ⟨op, b, c, rfl⟩
  | drain m sc => rw [hw] at kind; exact kind.elim
  | rel sc => rw [hw] at kind; exact kind.elim
  | signal g => rw [hw] at kind; exact kind.elim

/-- A free signal may be performed (R113, R269). -/
theorem signalReady_of_freeItem {k : Core} {i : Nat} {w : Comm} (h : k.freeItem i w) : k.signalReady i = true := by
  have released : ((k.ms.comm[i]?).any fun w => k.ms.releasing.any fun r => r.committed && r.effs.any fun e => decide (e.id < w.id)) = false := by
    rw [freeItem_at h]
    cases hr : k.ms.releasing with
    | none => rfl
    | some r =>
      cases hc : r.committed with
      | false => simp [hc]
      | true => simpa [hc] using h.2.1 r hr hc
  unfold Core.signalReady
  rw [released, Bool.not_false, Bool.true_and, Bool.not_eq_true', List.any_eq_false]
  intro d hd
  obtain ⟨bs, p, e⟩ | ⟨op, b, c, e⟩ := (freeItem_before h hd).2 <;> simp [e]

/-- A free access may be performed (R110, R115, R118). -/
theorem accessReady_of_freeItem {k : Core} {i : Nat} {w : Comm} (c : CoreId) (h : k.freeItem i w) : k.accessReady c i w = true := by
  refine List.all_eq_true.2 fun j hj => ?_
  cases hd : k.ms.comm[j]? with
  | none => rfl
  | some d =>
    have mem : d ∈ k.ms.comm.take i := List.mem_of_getElem? (i := j) (by rw [List.getElem?_take_of_lt (List.mem_range.1 hj), hd])
    obtain ⟨path, kind⟩ := freeItem_before h mem
    have apart : (d.isAccess && d.samePath w) = false := by
      cases ha : d.isAccess with
      | false => rfl
      | true => exact path ha
    obtain ⟨bs, p, e⟩ | ⟨op, b, c, e⟩ := kind <;> simp [apart, e]

theorem core_modCore (s : State) (c d : CoreId) (f : Core → Core) : (s.modCore c f).core d = if d = c then f (s.core d) else s.core d := by
  by_cases h : d = c
  · rw [h, if_pos rfl, State.core_modCore_self]
  · rw [if_neg h, State.core_modCore_other _ _ _ _ h]

/-- What an item taken off the commit order leaves. -/
theorem dropComm_eq (s : State) (c : CoreId) (i : Nat) :
    s.dropComm c i = s.setCore c { s.core c with ms.comm := (s.core c).ms.comm.eraseIdx i } := rfl

theorem amoResult_eq (s : State) (c : CoreId) (id : Nat) (v : W64) :
    s.amoResult c id v = s.modCore c fun k => { k with ms.pend := gotResult k.ms.pend id (.w v) } := rfl

end Sys2Proof.Scope
end

section
/-! Buffer handles: their words, their table, their check and their performance (R72 to R76), and the settlement of O44. -/

namespace Sys2Proof.Scope

open Sys2Proof Sys2Proof.Machine

/-! ### Handles (R73) -/

theorem handleOf_toNat (home : CoreId) (gen i : Nat) (hg : gen < 256) (hi : i < 256) :
    (handleOf home gen i).toNat = home.val * 65536 + gen * 256 + i := by
  have := home.isLt
  simp only [handleOf, wordOf, List.map_cons, List.map_nil, List.sum_cons, List.sum_nil, BitVec.toNat_ofNat]
  omega

theorem handleWord_eq (home : CoreId) (i : Nat) (d : Desc) : handleWord home i d = handleOf home d.gen.toNat i :=
  congrArg (BitVec.ofNat 64) (by simp only [List.map_cons, List.map_nil, List.sum_cons, List.sum_nil]; omega)

theorem coreId_val (c : CoreId) : coreId c.val = c := Fin.ext (Nat.mod_eq_of_lt c.isLt)

/-- A handle names its descriptor while it is not free and has the generation of the handle (R73). -/
theorem liveHandle_handleOf (s : State) (home : CoreId) (gen : Byte) (i : Nat) (hi : i < 256) :
    s.liveHandle (handleOf home gen.toNat i) =
      if ((s.core home).desc i).st ≠ 0 ∧ ((s.core home).desc i).gen = gen then some (home, i) else none := by
  have hh := home.isLt
  have value := handleOf_toNat home gen.toNat i gen.isLt hi
  have field : ∀ lo n, bits (handleOf home gen.toNat i) lo n = (home.val * 65536 + gen.toNat * 256 + i) / 2 ^ lo % 2 ^ n := fun lo n => by
    rw [bits, value, Nat.shiftRight_eq_div_pow]
  have := gen.isLt
  have core : bits (handleOf home gen.toNat i) 16 6 = home.val := by rw [field]; omega
  have index : bits (handleOf home gen.toNat i) 0 8 = i := by rw [field]; omega
  have generation : bits (handleOf home gen.toNat i) 8 8 = gen.toNat := by rw [field]; omega
  have rest : bits (handleOf home gen.toNat i) 22 42 = 0 := by rw [field]; omega
  generalize handleOf home gen.toNat i = h at core index generation rest ⊢
  unfold State.liveHandle
  rw [core, index, generation, rest, coreId_val]
  simp only [decide_true, Bool.true_and, Bool.and_eq_true, decide_eq_true_eq, BitVec.toNat_inj]

/-- The handle that an operation names: in B for the two that end a share, else in A (R311). -/
def namedHandle (op : HandleOp) (a b : W64) : W64 := match op with | .reclaim => b | .free => b | _ => a

theorem namedHandle_self (op : HandleOp) (h : W64) : namedHandle op h h = h := by cases op <;> rfl

/-! ### The table (R75) -/

theorem handleTry_make_ok (s : State) (c : CoreId) (a b : W64) (i : Nat) (room : bits b 0 10 + (bits b 16 10 + 1) ≤ 1024)
    (clear : ∀ j, j < bits b 16 10 + 1 → (s.core c).granule (bits b 0 10 + j) = 0) (hi : i < 256) (free : ((s.core c).desc i).st = 0)
    (lowest : ∀ j, j < i → ((s.core c).desc j).st ≠ 0) :
    s.handleTry c .make a b =
      .ok (c, i, { st := 1, hcore := c.val, gen := ((s.core c).desc i).gen, first := bits b 0 10, ngm1 := bits b 16 10 + 1 - 1, mask := 0 }) := by
  have apart : (List.range (bits b 16 10 + 1)).find? (fun j => decide ((s.core c).granule (bits b 0 10 + j) ≠ 0)) = none :=
    List.find?_eq_none.2 fun j hj => by simpa using clear j (List.mem_range.1 hj)
  have first : (List.range 256).find? (fun j => decide (((s.core c).desc j).st = 0)) = some i := by
    rw [List.find?_range_eq_some]
    exact ⟨by simpa using free, by simpa using hi, fun j hj => by simpa using lowest j hj⟩
  simp only [State.handleTry, gt_iff_lt, Nat.not_lt.2 room, if_false, apart, first]

theorem handleTry_make_long (s : State) (c : CoreId) (a b : W64) (long : 1024 < bits b 0 10 + (bits b 16 10 + 1)) :
    s.handleTry c .make a b = handleRefused 0 := if_pos long

section
variable (s : State) (c : CoreId) (op : HandleOp) (a b : W64)

theorem handleTry_dead (hop : op ≠ .make) (h : s.liveHandle (namedHandle op a b) = none) : s.handleTry c op a b = handleRefused 0 := by
  cases op
  case make => exact absurd rfl hop
  all_goals
    simp only [namedHandle] at h
    simp only [State.handleTry, h]

variable {s c op a b} {home : CoreId} {i : Nat}

theorem handleTry_notHolder (hop : op ≠ .make) (h : s.liveHandle (namedHandle op a b) = some (home, i)) (hc : ((s.core home).desc i).hcore ≠ c.val) :
    s.handleTry c op a b = handleRefused ((s.core home).desc i).st := by
  cases op
  case make => exact absurd rfl hop
  all_goals
    simp only [namedHandle] at h
    simp only [State.handleTry, h, if_pos hc]

variable (holds : ((s.core home).desc i).hcore = c.val)
include holds

/-- An operation other than a reclaim needs an Owned buffer. -/
theorem handleTry_notOwned (hop : op ∈ [.give, .lend, .pool, .free]) (h : s.liveHandle (namedHandle op a b) = some (home, i))
    (st : ((s.core home).desc i).st ≠ 1) : s.handleTry c op a b = handleRefused ((s.core home).desc i).st := by
  cases op
  case make => simp at hop
  case reclaim => simp at hop
  all_goals
    simp only [namedHandle] at h
    simp only [State.handleTry, h, ne_eq, holds, not_true_eq_false, if_false]
    split <;> simp_all

theorem handleTry_give (h : s.liveHandle a = some (home, i)) (st : ((s.core home).desc i).st = 1) :
    s.handleTry c .give a b =
      if (s.core c).eng.gangMask.getLsbD (coreId b.toNat).val = true ∧ (s.core (coreId b.toNat)).task.isSome = true
      then .ok (home, i, { (s.core home).desc i with hcore := (coreId b.toNat).val }) else .error (0x0B, 0, b) := by
  simp only [State.handleTry, h, ne_eq, holds, not_true_eq_false, if_false, st, Bool.and_eq_true]

theorem handleTry_lend (h : s.liveHandle a = some (home, i)) (st : ((s.core home).desc i).st = 1) :
    s.handleTry c .lend a b = .ok (home, i, { (s.core home).desc i with st := 2, mask := b }) := by
  simp only [State.handleTry, h, ne_eq, holds, not_true_eq_false, if_false, st]

theorem handleTry_pool (h : s.liveHandle a = some (home, i)) (st : ((s.core home).desc i).st = 1) :
    s.handleTry c .pool a b = .ok (home, i, { (s.core home).desc i with st := 3, mask := b }) := by
  simp only [State.handleTry, h, ne_eq, holds, not_true_eq_false, if_false, st]

theorem handleTry_reclaim (h : s.liveHandle b = some (home, i)) :
    s.handleTry c .reclaim a b = .ok (home, i, { (s.core home).desc i with st := 1, mask := 0 }) := by
  simp only [State.handleTry, h, ne_eq, holds, not_true_eq_false, if_false]

theorem handleTry_free (h : s.liveHandle b = some (home, i)) (st : ((s.core home).desc i).st = 1) :
    s.handleTry c .free a b = if home = c then .ok (home, i, { gen := ((s.core home).desc i).gen + 1 }) else handleRefused ((s.core home).desc i).st := by
  simp only [State.handleTry, h, ne_eq, holds, not_true_eq_false, if_false, st]

end

/-! ### What a performed operation leaves in the home core (R72) -/

/-- A run of granules from `first` on gets one value. -/
def granuleRun (m : SMap Nat) (first n v : Nat) : SMap Nat := (List.range n).foldl (fun m g => mwr 0 m (first + g) v) m

theorem granuleRun_succ (m : SMap Nat) (first n v : Nat) : granuleRun m first (n + 1) v = mwr 0 (granuleRun m first n v) (first + n) v := by
  simp [granuleRun, List.range_succ]

theorem mrd_granuleRun (m : SMap Nat) (first n v g : Nat) :
    mrd 0 (granuleRun m first n v) g = if first ≤ g ∧ g < first + n then v else mrd 0 m g := by
  induction n with
  | zero => rw [if_neg (by omega)]; rfl
  | succ n ih =>
    rw [granuleRun_succ]
    by_cases e : g = first + n
    · rw [e, if_pos (by omega), mrd_mwr_self]
    · rw [mrd_mwr_other _ _ _ _ _ _ e, ih]
      exact if_congr (by omega) rfl rfl

theorem foldl_setGranule (k : Core) (first n v : Nat) :
    (List.range n).foldl (fun k g => k.setGranule (first + g) v) k = { k with own.gran := granuleRun k.own.gran first n v } := by
  induction n with
  | zero => rfl
  | succ n ih => rw [granuleRun_succ, List.range_succ, List.foldl_append, ih]; rfl

/-- A descriptor put in its place: the granules of a buffer that begins enter it, and those of one that ends leave it. -/
def putOwn (o : Own) (x : Nat) (old new : Desc) : Own where
  gran := if new.st ≠ 0 ∧ old.st = 0 then granuleRun o.gran new.first (new.ngm1 + 1) (x + 256)
    else if new.st = 0 ∧ old.st ≠ 0 then granuleRun o.gran old.first (old.ngm1 + 1) 0 else o.gran
  desc := mwr {} o.desc x new

theorem putBuffer_eq (k : Core) (x : Nat) (old new : Desc) : k.putBuffer x old new = { k with own := putOwn k.own x old new } := by
  unfold Core.putBuffer
  simp only [foldl_setGranule]
  by_cases hn : new.st = 0 <;> by_cases ho : old.st = 0 <;> simp [hn, ho, putOwn, Core.setDesc]

theorem mrd_putOwn_desc (o : Own) (x i : Nat) (old new : Desc) : mrd {} (putOwn o x old new).desc i = if i = x then new else mrd {} o.desc i := by
  by_cases h : i = x
  · rw [h, if_pos rfl]; exact mrd_mwr_self ..
  · rw [if_neg h]; exact mrd_mwr_other _ _ _ _ _ _ h

theorem mrd_putOwn_gran (o : Own) (x g : Nat) (old new : Desc) :
    mrd 0 (putOwn o x old new).gran g =
      if new.st ≠ 0 ∧ old.st = 0 ∧ new.first ≤ g ∧ g ≤ new.first + new.ngm1 then x + 256
      else if new.st = 0 ∧ old.st ≠ 0 ∧ old.first ≤ g ∧ g ≤ old.first + old.ngm1 then 0 else mrd 0 o.gran g := by
  by_cases hn : new.st = 0 <;> by_cases ho : old.st = 0 <;> simp [putOwn, hn, ho, mrd_granuleRun, ← Nat.add_assoc]

/-! ### The check and the performance (R76, R220) -/

theorem exec_handleOperationCheck (s : State) : exec .handleOperationCheck s = execHandleOperationCheck s := rfl
theorem exec_handleOperationPerform (s : State) : exec .handleOperationPerform s = execHandleOperationPerform s := rfl

section
variable {s : State} {r : Release} {e : CEff} {op : HandleOp} {a b : W64} {port : Nat}
variable (hr : (s.core s.cur.core).ms.releasing = some r) (he : r.effs[s.cur.k]? = some e) (hw : e.what = .signal (.handle op a b port false))
variable (clear : ∀ d ∈ (s.core s.cur.core).ms.comm, d.isHandle = false)
include hr he hw clear

/-- An unchecked handle operation that the table refuses is reported once. -/
theorem handleOperationCheck_refused (x : Byte × Byte × W64) (hx : s.handleTry s.cur.core op a b = .error x)
    (fresh : ∀ q ∈ (s.core s.cur.core).reports, ¬ (q.seq = e.org.seq ∧ q.trap.slot = BitVec.ofNat 4 e.org.slot)) :
    exec .handleOperationCheck s = .next (s.setCore s.cur.core { s.core s.cur.core with
      reports := (s.core s.cur.core).reports ++ [reportOf e.org x.1 x.2.1 x.2.2] }) := by
  have none_left : (s.core s.cur.core).ms.comm.any Comm.isHandle = false := List.any_eq_false.2 fun d hd => by simp [clear d hd]
  have new : (s.core s.cur.core).reports.any (fun x => decide (x.seq = e.org.seq) && decide (x.trap.slot = BitVec.ofNat 4 e.org.slot)) = false :=
    List.any_eq_false.2 fun q hq => by simpa using fresh q hq
  simp only [exec_handleOperationCheck, execHandleOperationCheck, hr, he, hw, none_left, hx, new, Bool.false_eq_true, if_false]
  rfl

/-- One that the table lets through is marked as checked. -/
theorem handleOperationCheck_passed (y : CoreId × Nat × Desc) (hy : s.handleTry s.cur.core op a b = .ok y) :
    exec .handleOperationCheck s = .next (s.setCore s.cur.core { s.core s.cur.core with
      ms.releasing := some { r with effs := r.effs.set s.cur.k { e with what := .signal (.handle op a b port true) } } }) := by
  have none_left : (s.core s.cur.core).ms.comm.any Comm.isHandle = false := List.any_eq_false.2 fun d hd => by simp [clear d hd]
  simp only [exec_handleOperationCheck, execHandleOperationCheck, hr, he, hw, none_left, hy, Bool.false_eq_true, if_false]
  rfl

end

section
variable {s : State} {w : Comm} {op : HandleOp} {a b : W64} {port : Nat} {chk : Bool}
variable (free : (s.core s.cur.core).freeItem s.cur.k w) (what : w.what = .signal (.handle op a b port chk))
variable (clear : ∀ d ∈ (s.core s.cur.core).ms.comm.take s.cur.k, ∀ h o, d.place ≠ .rem h o)
include free what clear

/-- A free handle operation with no remote access before it is performed: what the table answers is done in the home core, or it is lost. -/
theorem handleOperationPerform_ok (h : CoreId) (x : Nat) (d : Desc) (ok : s.handleTry s.cur.core op a b = .ok (h, x, d)) :
    exec .handleOperationPerform s = .next
      (let u := (s.dropComm s.cur.core s.cur.k).modCore h fun k => k.putBuffer x (k.desc x) d
       if op = .make then u.amoResult s.cur.core w.id (handleWord h x d) else u) := by
  simp only [exec_handleOperationPerform, execHandleOperationPerform, freeItem_at free, what, signalReady_of_freeItem free, ok]
  rw [if_neg]
  simp only [Bool.not_true, Bool.false_or, Bool.not_eq_true, List.any_eq_false]
  intro e he
  split
  next h o place => exact absurd place (clear e he h o)
  next => rfl

/-- The record of a handle operation that is discarded because its owner has ended since the check. -/
def lostHandleRec (s : State) (c : CoreId) : ErrRec :=
  { coreRec c 0x05 2 1 0 0 (s.core c).domain with cause := 0x09, detail := ownDetail 0 7 true, cycle := s.clock }

theorem handleOperationPerform_lost (x : Byte × Byte × W64) (err : s.handleTry s.cur.core op a b = .error x) (hx : x.1 ≠ 0x0B) :
    ∃ t, exec .handleOperationPerform s = .next t ∧ SameOthers s.cur.core s t ∧
      t.core s.cur.core = { s.core s.cur.core with
        ms.comm := (s.core s.cur.core).ms.comm.eraseIdx s.cur.k, reports := (s.core s.cur.core).reports ++ [reportOf w.org 0x09 (ownDetail 0 7 true) 0] } ∧
      t.hk = { s.hk with recs := queueRec s.hk.recs (lostHandleRec s s.cur.core) } := by
  simp only [exec_handleOperationPerform, execHandleOperationPerform, freeItem_at free, what, signalReady_of_freeItem free, err, hx, if_false]
  rw [if_neg]
  · refine ⟨_, rfl, fun d hd => ?_, ?_, rfl⟩
    · simp [State.dropComm, hd]
    · simp [State.dropComm]
      rfl
  · simp only [Bool.not_true, Bool.false_or, Bool.not_eq_true, List.any_eq_false]
    intro e he
    split
    next h o place => exact absurd place (clear e he h o)
    next => rfl

end

/-! ### O44 -/

/-- What a performed handle operation leaves: in the home core its descriptor and granules, in the issuing core its place and its result. -/
theorem handleOperationPerform_cores (s : State) (w : Comm) (op : HandleOp) (a b : W64) (port : Nat) (chk : Bool)
    (free : (s.core s.cur.core).freeItem s.cur.k w) (what : w.what = .signal (.handle op a b port chk))
    (clear : ∀ d ∈ (s.core s.cur.core).ms.comm.take s.cur.k, ∀ h o, d.place ≠ .rem h o) (h : CoreId) (x : Nat) (d : Desc)
    (ok : s.handleTry s.cur.core op a b = .ok (h, x, d)) :
    ∃ t, exec .handleOperationPerform s = .next t ∧ t.mem = s.mem ∧ t.sched = s.sched ∧ t.hk = s.hk ∧
      ∀ q, t.core q = { s.core q with
        ms := if q = s.cur.core then { (s.core q).ms with
            comm := (s.core q).ms.comm.eraseIdx s.cur.k
            pend := if op = .make then gotResult (s.core q).ms.pend w.id (.w (handleOf h d.gen.toNat x)) else (s.core q).ms.pend } else (s.core q).ms
        own := if q = h then putOwn (s.core q).own x ((s.core q).desc x) d else (s.core q).own } := by
  rw [handleOperationPerform_ok free what clear h x d ok]
  refine ⟨_, rfl, ?_, ?_, ?_, fun q => ?_⟩
  case refine_4 =>
    rw [handleWord_eq]
    by_cases hc : q = s.cur.core
    · subst hc
      by_cases hh : s.cur.core = h
      · subst hh
        by_cases hp : op = .make <;> simp [hp, amoResult_eq, State.dropComm, putBuffer_eq, Core.desc]
      · by_cases hp : op = .make <;> simp [hp, hh, amoResult_eq, State.dropComm]
    · by_cases hh : q = h
      · subst hh
        by_cases hp : op = .make <;> simp [hp, hc, amoResult_eq, State.dropComm, putBuffer_eq, Core.desc]
      · by_cases hp : op = .make <;> simp [hp, hc, hh, amoResult_eq, State.dropComm]
  all_goals simp only []; split <;> rfl

/-- What an operation answers on the handle of a buffer that is not Free, by its holder and state (R75). -/
theorem handleTry_table (s : State) (c : CoreId) (a b : W64) (home : CoreId) (i : Nat) (hi : i < 256) (live : ((s.core home).desc i).st ≠ 0) :
    let d := (s.core home).desc i
    let h := handleOf home d.gen.toNat i
    let refused := (.error (0x09, ownDetail d.st 7 false, 0) : Except (Byte × Byte × W64) (CoreId × Nat × Desc))
    let gone := handleOf home (d.gen + 1).toNat i
    let target := coreId b.toNat
    (∀ op, op ≠ .make → s.handleTry c op gone gone = .error (0x09, ownDetail 0 7 false, 0)) ∧
    (d.hcore ≠ c.val → ∀ op, op ≠ .make → s.handleTry c op h h = refused) ∧
    (d.hcore = c.val →
      (d.st = 1 → (s.core c).eng.gangMask.getLsbD target.val = true → (s.core target).task.isSome = true →
        s.handleTry c .give h b = .ok (home, i, { d with hcore := target.val })) ∧
      (d.st = 1 → ((s.core c).eng.gangMask.getLsbD target.val = false ∨ (s.core target).task = none) → s.handleTry c .give h b = .error (0x0B, 0, b)) ∧
      (d.st = 1 → s.handleTry c .lend h b = .ok (home, i, { d with st := 2, mask := b }) ∧
        s.handleTry c .pool h b = .ok (home, i, { d with st := 3, mask := b })) ∧
      s.handleTry c .reclaim a h = .ok (home, i, { d with st := 1, mask := 0 }) ∧
      (d.st = 1 → s.handleTry c .free a h = if home = c then .ok (home, i, { gen := d.gen + 1 }) else refused) ∧
      (d.st ≠ 1 → s.handleTry c .give h b = refused ∧ s.handleTry c .lend h b = refused ∧ s.handleTry c .pool h b = refused ∧
        s.handleTry c .free a h = refused)) := by
  intro d h refused gone target
  have alive : s.liveHandle h = some (home, i) := by rw [liveHandle_handleOf s home _ i hi, if_pos ⟨live, rfl⟩]
  have dead : s.liveHandle gone = none := by
    rw [liveHandle_handleOf s home _ i hi, if_neg]
    rintro ⟨-, e⟩
    have : d.gen = d.gen + 1 := e
    bv_omega
  refine ⟨fun op hop => ?_, fun hc op hop => ?_, fun hc => ⟨fun st mask task => ?_, fun st no => ?_, fun st => ⟨?_, ?_⟩, ?_, fun st => ?_, fun st => ?_⟩⟩
  · exact handleTry_dead s c op _ _ hop (by rw [namedHandle_self]; exact dead)
  · exact handleTry_notHolder hop (by rw [namedHandle_self]; exact alive) hc
  · rw [handleTry_give hc alive st, if_pos ⟨mask, task⟩]
  · rw [handleTry_give hc alive st, if_neg]
    rintro ⟨mask, task⟩
    rcases no with no | no
    · exact Bool.false_ne_true (no.symm.trans mask)
    · rw [no] at task; exact Bool.false_ne_true task
  · exact handleTry_lend hc alive st
  · exact handleTry_pool hc alive st
  · exact handleTry_reclaim hc alive
  · exact handleTry_free hc alive st
  · exact ⟨handleTry_notOwned hc (by decide) alive st, handleTry_notOwned hc (by decide) alive st, handleTry_notOwned hc (by decide) alive st,
      handleTry_notOwned hc (by decide) alive st⟩

/-- Settles O44: the table of R75, the check before the release, and what the home core holds after the performance. -/
theorem handlesFollowTheirTable : Obligations.HandlesFollowTheirTable := by
  unfold Obligations.HandlesFollowTheirTable
  refine ⟨fun s c a b => ⟨?made, ?long, fun home i hi live => handleTry_table s c a b home i hi live⟩, fun s => ⟨?check, ?perform⟩⟩
  case made =>
    intro room clear i hi free lowest
    exact handleTry_make_ok s c a b i room clear hi free lowest
  case long => exact handleTry_make_long s c a b
  case check =>
    intro r e op a b port hr he hw clear
    exact ⟨handleOperationCheck_refused hr he hw clear, handleOperationCheck_passed hr he hw clear⟩
  case perform =>
    intro w op a b port chk free what clear
    refine ⟨fun h x d ok => ?_, fun x err hx => ?_⟩
    · obtain ⟨t, ht, hmem, hsched, hhk, cores⟩ := handleOperationPerform_cores s w op a b port chk free what clear h x d ok
      have desc : ∀ y, (t.core h).desc y = if y = x then d else (s.core h).desc y := fun y => by
        rw [cores h, if_pos rfl]; exact mrd_putOwn_desc ..
      refine ⟨t, ht, hmem, hsched, hhk, by rw [desc, if_pos rfl], fun y hy => by rw [desc, if_neg hy], fun g => ?_, ?_, fun q hh hc => ?_, ?_, ?_⟩
      · rw [cores h, if_pos rfl]; exact mrd_putOwn_gran ..
      · rw [cores, if_pos rfl]
      · rw [cores, if_neg hh, if_neg hc]
      · rw [cores]
      · rw [cores, if_pos rfl]
    · obtain ⟨t, ht, others, core, hk⟩ := handleOperationPerform_lost free what clear x err hx
      exact ⟨t, _, ht, others, core, hk, rfl, rfl⟩

end Sys2Proof.Scope
end

section
/-! What stopping the work of a task changes (R129 steps 1 and 3, R318, R353): a frame for every core, and the ended task's own. -/

namespace Sys2Proof.Scope

open Sys2Proof Sys2Proof.Machine

/-! ### The frame of an engine's work -/

/-- Of a core only local memory and engine state changed, the flags of its `sy` unit apart. -/
def EngineWork (k l : Core) : Prop := ∃ loc eng, l = { k with loc := loc, eng := eng } ∧ eng.flags = k.eng.flags

theorem EngineWork.refl (k : Core) : EngineWork k k := ⟨_, _, rfl, rfl⟩

theorem EngineWork.trans {k l m : Core} (h : EngineWork k l) (h' : EngineWork l m) : EngineWork k m := by
  obtain ⟨loc, eng, rfl, flags⟩ := h
  obtain ⟨loc', eng', rfl, flags'⟩ := h'
  exact ⟨loc', eng', rfl, flags'.trans flags⟩

theorem EngineWork.foldl {α : Type} (f : Core → α → Core) (hf : ∀ k x, EngineWork k (f k x)) (l : List α) (k : Core) : EngineWork k (l.foldl f k) :=
  List.foldlRecOn l f (EngineWork.refl k) fun _ h x _ => h.trans (hf _ x)

theorem setWindowByte_work (k : Core) (off : Nat) (b : Byte) : EngineWork k (k.setWindowByte off b) := by
  unfold Core.setWindowByte
  exact ⟨_, _, rfl, rfl⟩

theorem storeLocal_work (k : Core) (off : Nat) (bs : List Byte) (p : Bool) : EngineWork k (k.storeLocal off bs p) := by
  unfold Core.storeLocal
  split
  · exact ⟨_, _, rfl, rfl⟩
  · refine EngineWork.foldl _ (fun k p => ?_) _ k
    exact setWindowByte_work ..

theorem endToken_work (k : Core) (t : Nat) (ok : Bool) : EngineWork k (k.endToken t ok) := by
  unfold Core.endToken
  split
  · exact ⟨_, _, rfl, rfl⟩
  · exact EngineWork.refl k

theorem endTokens_work (k : Core) (l : List Nat) (ok : Bool) : EngineWork k (k.endTokens l ok) :=
  (EngineWork.foldl _ (fun k t => endToken_work k t ok) l k).trans ⟨_, _, rfl, rfl⟩

theorem cimFail_work (k : Core) (call : CimCall) (mpc cause : Nat) (addr : W64) (detail : Byte) : EngineWork k (k.cimFail call mpc cause addr detail) :=
  (endTokens_work k (call.token.toList ++ maskTokens call.progress) false).trans ⟨_, _, rfl, rfl⟩

theorem stopCim_work (k : Core) : EngineWork k k.stopCim := by
  have run : EngineWork k (match k.eng.cim.run with | some r => k.cimFail r.call r.mpc 8 0 | none => k) := by
    split
    · exact cimFail_work ..
    · exact EngineWork.refl k
  exact (run.trans (EngineWork.foldl _ (fun k q => endTokens_work k _ false) _ _)).trans ⟨_, _, rfl, rfl⟩

/-! ### Collectives that fail with a participant (R318) -/

/-- Memory and housekeeping are unchanged, and of the cores only what their engines work on. -/
structure CollFrame (s t : State) : Prop where
  mem : t.mem = s.mem
  hk : t.hk = s.hk
  cores : ∀ d, EngineWork (s.core d) (t.core d)

theorem CollFrame.refl (s : State) : CollFrame s s := ⟨rfl, rfl, fun _ => EngineWork.refl _⟩

theorem CollFrame.trans {s t u : State} (h : CollFrame s t) (h' : CollFrame t u) : CollFrame s u :=
  ⟨h'.mem.trans h.mem, h'.hk.trans h.hk, fun d => (h.cores d).trans (h'.cores d)⟩

theorem CollFrame.foldl {α : Type} (f : State → α → State) (hf : ∀ s x, CollFrame s (f s x)) (l : List α) (s : State) : CollFrame s (l.foldl f s) :=
  List.foldlRecOn l f (CollFrame.refl s) fun _ h x _ => h.trans (hf _ x)

theorem CollFrame.modCore (s : State) (c : CoreId) (f : Core → Core) (hf : ∀ k, EngineWork k (f k)) : CollFrame s (s.modCore c f) := by
  refine ⟨rfl, rfl, fun d => ?_⟩
  rw [core_modCore]
  split
  · exact hf _
  · exact EngineWork.refl _

theorem collWord_frame (s : State) (r : CollReq) (rows : List RowT) (w : Nat) : CollFrame s (s.collWord r rows w) := by
  unfold State.collWord
  split
  · exact CollFrame.refl s
  · exact CollFrame.modCore s _ _ fun k => storeLocal_work k _ _ _

theorem collStore_frame (s : State) (r : CollReq) (i : Nat) (v : RowT) : CollFrame s (s.collStore r i v) := by
  unfold State.collStore
  split
  · exact CollFrame.modCore s _ _ fun k => storeLocal_work k _ _ _
  · exact CollFrame.foldl _ (fun s w => collWord_frame s r _ _) _ s

theorem endColl_frame (s : State) (r : CollReq) (ok : Bool) : CollFrame s (s.endColl r ok) := by
  unfold State.endColl
  split
  · exact (CollFrame.modCore s r.core _ fun k => endToken_work k _ ok).trans ⟨rfl, rfl, fun _ => EngineWork.refl _⟩
  · exact ⟨rfl, rfl, fun _ => EngineWork.refl _⟩

theorem failColls_frame (s : State) (c : CoreId) : CollFrame s (s.failColls c) := by
  refine CollFrame.foldl _ (fun s r => CollFrame.trans ?_ (endColl_frame _ r false)) _ s
  split
  · exact CollFrame.refl s
  · refine CollFrame.trans (CollFrame.foldl _ (fun t p => ?_) _ s) ⟨rfl, rfl, fun _ => EngineWork.refl _⟩
    split
    · exact CollFrame.refl t
    · exact collStore_frame ..

/-! ### The task that ends (R129) -/

/-- The core of an ended task with what it withheld, waited for and was promised given up. -/
def givenUp (k : Core) : Core :=
  { k with
    ms.wh := [], ms.walks := [], ms.releasing := k.ms.releasing.filter Release.committed
    ms.pend := (k.ms.pend.filter fun p => k.ms.comm.any fun w => w.id = p.id).map fun (p : Pend) => { p with dead := true }
    eng.copies := stopCopies k.eng.copies }

theorem stopTask_eq (s : State) (c : CoreId) (e : EndKind) :
    s.stopTask c e = (s.modCore c fun k => match e with | .done _ => givenUp k | _ => (givenUp k).stopCim).failColls c := rfl

theorem stopTask_stops (s : State) (c : CoreId) (e : EndKind) :
    (s.stopTask c e).mem = s.mem ∧ (s.stopTask c e).hk = s.hk ∧ EngineWork (givenUp (s.core c)) ((s.stopTask c e).core c) ∧
      ∀ d, d ≠ c → EngineWork (s.core d) ((s.stopTask c e).core d) := by
  rw [stopTask_eq]
  obtain ⟨mem, hk, cores⟩ := failColls_frame (s.modCore c fun k => match e with | .done _ => givenUp k | _ => (givenUp k).stopCim) c
  refine ⟨mem, hk, EngineWork.trans ?_ (cores c), fun d hd => ?_⟩
  · rw [State.core_modCore_self]
    cases e
    case done => exact EngineWork.refl _
    case killed => exact stopCim_work _
    case discarded => exact stopCim_work _
  · have := cores d
    rwa [State.core_modCore_other _ _ _ _ hd] at this

end Sys2Proof.Scope
end

section
/-! Buffers and tiles at the end of a task (R75, R374, R392). -/

namespace Sys2Proof.Scope

open Sys2Proof Sys2Proof.Machine

/-! ### Buffers (R75) -/

/-- One step of the walk over the table of a home core at the end of a task of core c. -/
def endedDesc (h c : CoreId) (k : Core) (e : Nat × Desc) : Core :=
  let d := e.2
  if d.st = 0 then k
  else if h = c then k.putBuffer e.1 d { d with st := 0, hcore := 0, mask := 0, gen := d.gen + 1 }
  else if d.hcore = c.val then k.putBuffer e.1 d { d with st := 1, hcore := h.val, mask := 0 }
  else k

theorem endBuffers_foldl (k : Core) (h c : CoreId) : k.endBuffers h c = k.own.desc.foldl (endedDesc h c) k := rfl

theorem endBuffers_eq (k : Core) (h c : CoreId) : ∃ m, k.endBuffers h c = { k with own := m } := by
  rw [endBuffers_foldl]
  refine List.foldlRecOn (motive := fun l => ∃ m, l = { k with own := m }) _ _ ⟨k.own, rfl⟩ fun l hl e _ => ?_
  obtain ⟨m, rfl⟩ := hl
  unfold endedDesc
  simp only [putBuffer_eq]
  split
  · exact ⟨m, rfl⟩
  split
  · exact ⟨_, rfl⟩
  split
  · exact ⟨_, rfl⟩
  · exact ⟨m, rfl⟩

theorem desc_putBuffer (k : Core) (x i : Nat) (old new : Desc) : (k.putBuffer x old new).desc i = if i = x then new else k.desc i := by
  rw [putBuffer_eq]
  exact mrd_putOwn_desc ..

theorem desc_endedDesc (h c : CoreId) (k : Core) (e : Nat × Desc) (i : Nat) (he : k.desc e.1 = e.2) :
    (endedDesc h c k e).desc i = if i = e.1 then endDesc h c e.2 else k.desc i := by
  have same : k.desc i = if i = e.1 then e.2 else k.desc i := by
    split
    next hi => rw [hi, he]
    next => rfl
  unfold endedDesc endDesc
  simp only
  split
  · exact same
  · split
    · exact desc_putBuffer ..
    · split
      · exact desc_putBuffer ..
      · exact same

/-- The walk ends every descriptor of a list without repetitions, each as the list holds it. -/
theorem desc_foldl_endedDesc (h c : CoreId) (l : List (Nat × Desc)) (k : Core) (i : Nat) (hl : (l.map Prod.fst).Nodup) (held : ∀ e ∈ l, k.desc e.1 = e.2) :
    (l.foldl (endedDesc h c) k).desc i = if i ∈ l.map Prod.fst then endDesc h c (k.desc i) else k.desc i := by
  induction l generalizing k with
  | nil => simp
  | cons e l ih =>
    rw [List.map_cons, List.nodup_cons] at hl
    have he := held e List.mem_cons_self
    have apart : ∀ e' ∈ l, e'.1 ≠ e.1 := fun e' h' eq => hl.1 (eq ▸ List.mem_map_of_mem h')
    rw [List.foldl_cons, ih _ hl.2 fun e' h' => by
      rw [desc_endedDesc h c k e _ he, if_neg (apart e' h'), held e' (List.mem_cons_of_mem _ h')]]
    rw [desc_endedDesc h c k e i he]
    by_cases hi : i = e.1
    · subst hi
      simp [hl.1, he]
    · rw [if_neg hi]
      exact if_congr (by rw [List.map_cons, List.mem_cons, or_iff_right hi]) rfl rfl

theorem mrd_of_mem {β : Type} (d : β) (m : SMap β) (e : Nat × β) (hm : (m.map Prod.fst).Nodup) (he : e ∈ m) : mrd d m e.1 = e.2 := by
  induction m with
  | nil => simp at he
  | cons a m ih =>
    rw [List.map_cons, List.nodup_cons] at hm
    rcases List.mem_cons.1 he with rfl | he
    · obtain ⟨i, v⟩ := e
      simp [mrd]
    · have later := ih hm.2 he
      have apart : (e.1 == a.1) = false := beq_false_of_ne fun eq => hm.1 (eq ▸ List.mem_map_of_mem he)
      obtain ⟨j, w⟩ := a
      unfold mrd at later ⊢
      rwa [List.lookup_cons, apart]

theorem mrd_of_not_mem {β : Type} (d : β) (m : SMap β) (i : Nat) (hi : i ∉ m.map Prod.fst) : mrd d m i = d := by
  have : m.lookup i = none := List.lookup_eq_none_iff.2 fun p hp => by
    simpa using fun e : i = p.1 => hi (e ▸ List.mem_map_of_mem hp)
  rw [mrd, this]
  rfl

theorem endDesc_free (h c : CoreId) : endDesc h c {} = {} := rfl

/-- Every descriptor of a home core ends as R75 says, where its table is in canonical form. -/
theorem desc_endBuffers (k : Core) (h c : CoreId) (i : Nat) (hk : mwf {} k.own.desc = true) : (k.endBuffers h c).desc i = endDesc h c (k.desc i) := by
  have keys : (k.own.desc.map Prod.fst).Nodup := ((mwf_iff _ _).1 hk).1.imp fun h => Nat.ne_of_lt h
  rw [endBuffers_foldl, desc_foldl_endedDesc h c _ k i keys fun e he => mrd_of_mem _ _ e keys he]
  split
  · rfl
  next hi =>
    have : k.desc i = {} := mrd_of_not_mem _ _ i hi
    rw [this, endDesc_free]

theorem core_endBuffers (s : State) (c d : CoreId) : (s.endBuffers c).core d = (s.core d).endBuffers d c := by
  have h := get_zipIdx_map s.cores (fun p => p.1.endBuffers (coreId p.2) c) d
  simp only [coreId_val] at h
  exact h

/-! ### Tiles (R374, R392) -/

/-- An instance whose tile at a key keeps its history, and its state once it has started. -/
structure TileKept (n : Nat) (i j : Inst) : Prop where
  slot : j.slot = i.slot
  base : j.base = i.base
  rerun : (mrd {} j.tiles n).rerun = (mrd {} i.tiles n).rerun
  lastOver : (mrd {} j.tiles n).lastOver = (mrd {} i.tiles n).lastOver
  started : (mrd {} i.tiles n).st.notStarted = false → (mrd {} j.tiles n).st = (mrd {} i.tiles n).st

theorem TileKept.refl (n : Nat) (i : Inst) : TileKept n i i := ⟨rfl, rfl, rfl, rfl, fun _ => rfl⟩

theorem TileKept.trans {n : Nat} {i j k : Inst} (h : TileKept n i j) (h' : TileKept n j k) : TileKept n i k := by
  refine ⟨h'.slot.trans h.slot, h'.base.trans h.base, h'.rerun.trans h.rerun, h'.lastOver.trans h.lastOver, fun hs => ?_⟩
  have := h.started hs
  rw [h'.started (by rw [this]; exact hs), this]

theorem TileKept.foldl {α : Type} {n : Nat} (f : Inst → α → Inst) (hf : ∀ i x, TileKept n i (f i x)) (l : List α) (i : Inst) : TileKept n i (l.foldl f i) :=
  List.foldlRecOn l f (TileKept.refl n i) fun _ h x _ => h.trans (hf _ x)

theorem mrd_modTile (i : Inst) (m t n : Nat) (f : Tile → Tile) :
    mrd {} (i.modTile m t f).tiles n = if n = i.key m t then f (i.tile m t) else mrd {} i.tiles n := by
  by_cases h : n = i.key m t
  · rw [if_pos h, h]; exact mrd_mwr_self ..
  · rw [if_neg h]; exact mrd_mwr_other _ _ _ _ _ _ h

/-- A tile that has not started may change its state. -/
theorem modTile_kept (n : Nat) (i : Inst) (m t : Nat) (f : Tile → Tile) (hs : (i.tile m t).st.notStarted = true)
    (hf : ∀ x, (f x).rerun = x.rerun ∧ (f x).lastOver = x.lastOver) : TileKept n i (i.modTile m t f) := by
  have tile : n = i.key m t → mrd {} i.tiles n = i.tile m t := fun h => by rw [h]; rfl
  refine ⟨rfl, rfl, ?_, ?_, fun h => ?_⟩ <;> rw [mrd_modTile] <;> split
  next e => rw [tile e, (hf _).1]
  next => rfl
  next e => rw [tile e, (hf _).2]
  next => rfl
  next e => rw [tile e, hs] at h; exact absurd h (by decide)
  next => rfl

theorem killTile_kept (n : Nat) (i : Inst) (m t : Nat) : TileKept n i (i.killTile m t) := by
  unfold Inst.killTile
  split
  next h =>
    obtain ⟨slot, base, rerun, lastOver, started⟩ := modTile_kept n i m t (fun x => { x with st := .killed }) h fun _ => ⟨rfl, rfl⟩
    exact ⟨slot, base, rerun, lastOver, started⟩
  next => exact TileKept.refl n i

theorem killGangs_kept (n : Nat) (i : Inst) (m : Nat) : TileKept n i (i.killGangs m) := by
  refine TileKept.foldl _ (fun i t => ?_) _ i
  split
  · exact TileKept.foldl _ (fun i g => killTile_kept n i m g) _ i
  · exact TileKept.refl n i

/-- Edges leave a tile, kill it, or make it ready, and change none that does not wait. -/
theorem settleTile_eq (i : Inst) (stamp m t : Nat) : ∃ killed ready : Bool, i.settleTile stamp m t =
    if (i.tile m t).st ≠ .waiting then i
    else if killed then i.killTile m t
    else if ready then i.modTile m t fun (x : Tile) => { x with st := .queued, since := stamp } else i := ⟨_, _, rfl⟩

theorem settleTile_kept (n : Nat) (i : Inst) (stamp m t : Nat) : TileKept n i (i.settleTile stamp m t) := by
  obtain ⟨killed, ready, h⟩ := settleTile_eq i stamp m t
  rw [h]
  split
  · exact TileKept.refl n i
  next hw =>
    have waiting : (i.tile m t).st = .waiting := not_not.1 hw
    split
    · exact killTile_kept n i m t
    · split
      · exact modTile_kept n i m t _ (by rw [waiting]; rfl) fun _ => ⟨rfl, rfl⟩
      · exact TileKept.refl n i

theorem settleTiles_kept (n : Nat) (i : Inst) (stamp : Nat) : TileKept n i (i.settleTiles stamp) :=
  TileKept.foldl _ (fun i m => (TileKept.foldl _ (fun i t => settleTile_kept n i stamp m t) _ i).trans (killGangs_kept n _ m)) _ i

/-- What the end of its task makes of a tile (R392). -/
def endedTile (e : EndKind) (stamp : Nat) (y : Tile) : Tile := match e with
  | .done _ => { y with st := .done }
  | .killed => { y with st := .killed }
  | .discarded o => { y with st := .queued, fallen := 0, wait := 0, head := stamp, since := stamp, rerun := true, lastOver := o, overrun := o || y.overrun }

/-- What the end of its task makes of an instance, before edges and gangs decide the other tiles. -/
def endedInst (x : Task) (e : EndKind) (stamp : Nat) (i : Inst) : Inst := i.modTile x.node x.tile (endedTile e stamp)

theorem tile_endedInst (x : Task) (e : EndKind) (stamp : Nat) (i : Inst) :
    (endedInst x e stamp i).tile x.node x.tile = endedTile e stamp (i.tile x.node x.tile) :=
  (mrd_modTile i x.node x.tile (i.key x.node x.tile) (endedTile e stamp)).trans (if_pos rfl)

/-- The instance of an ended task: its tile, then what its end counts and whom it takes along, then what edges decide. -/
def afterEnd (x : Task) (e : EndKind) (stamp : Nat) (i : Inst) : Inst :=
  let j := endedInst x e stamp i
  (match e with
    | .done v => { j with exitor := i.exitor ||| v }
    | .killed => ({ j with nkill := i.nkill + 1 } : Inst).killGangs x.node
    | .discarded _ => j).settleTiles stamp

theorem endTile_insts (s : State) (x : Task) (e : EndKind) :
    (s.endTile x e).sched.insts = s.sched.insts.map fun i => if i.slot = x.inst then afterEnd x e (s.sched.stamp + 1) i else i := by
  cases e <;> rfl

theorem afterEnd_kept (x : Task) (e : EndKind) (stamp n : Nat) (i : Inst) : TileKept n (endedInst x e stamp i) (afterEnd x e stamp i) := by
  refine TileKept.trans ?_ (settleTiles_kept n _ stamp)
  cases e
  case done => exact ⟨rfl, rfl, rfl, rfl, fun _ => rfl⟩
  case killed =>
    refine TileKept.trans ?_ (killGangs_kept n { endedInst x .killed stamp i with nkill := i.nkill + 1 } x.node)
    exact ⟨rfl, rfl, rfl, rfl, fun _ => rfl⟩
  case discarded => exact TileKept.refl n _

/-- The tile of an ended task holds what its end made of it, whatever follows for the others (R374, R392). -/
theorem endTile_tile (s : State) (x : Task) (e : EndKind) (j : Inst) (hj : j ∈ (s.endTile x e).sched.insts) (slot : j.slot = x.inst) :
    (∀ v, e = .done v → (j.tile x.node x.tile).st = .done) ∧ (e = .killed → (j.tile x.node x.tile).st = .killed) ∧
      ∀ o, e = .discarded o → (j.tile x.node x.tile).rerun = true ∧ (j.tile x.node x.tile).lastOver = o := by
  rw [endTile_insts] at hj
  obtain ⟨i, -, rfl⟩ := List.mem_map.1 hj
  by_cases hi : i.slot = x.inst
  case neg => rw [if_neg hi] at slot; exact absurd slot hi
  rw [if_pos hi]
  obtain ⟨-, base, rerun, lastOver, started⟩ := afterEnd_kept x e (s.sched.stamp + 1) (i.key x.node x.tile) i
  have key : (afterEnd x e (s.sched.stamp + 1) i).key x.node x.tile = i.key x.node x.tile := by rw [Inst.key, base]; rfl
  have tile : mrd {} (endedInst x e (s.sched.stamp + 1) i).tiles (i.key x.node x.tile) = _ := tile_endedInst x e (s.sched.stamp + 1) i
  rw [tile] at rerun lastOver started
  rw [Inst.tile, key]
  refine ⟨?_, ?_, ?_⟩
  · rintro v rfl; exact started rfl
  · rintro rfl; exact started rfl
  · rintro o rfl; exact ⟨rerun, lastOver⟩

/-- What R392 does to the core of a member of a gang that is killed. -/
def gangKilled (k : Core) : Core := match k.ending with
  | none => { k with asked := some .killed }
  | some (.discarded _) => { k with ending := some .killed }
  | _ => k

theorem core_killGangCores (s : State) (g : Nat) (d : CoreId) :
    (s.killGangCores g).core d = if (s.core d).task.any (fun t => decide (t.gang = g)) then gangKilled (s.core d) else s.core d := by
  simp [State.core, State.killGangCores, Vector.get_eq_getElem]
  rfl

theorem gangKilled_eq (k : Core) : ∃ a n, gangKilled k = { k with asked := a, ending := n } := by
  unfold gangKilled
  split <;> exact ⟨_, _, rfl⟩

/-- A task that ends leaves a core without a task alone, and of another only how its task is to end (R392). -/
theorem endTile_core (s : State) (x : Task) (e : EndKind) (d : CoreId) :
    (∃ a n, (s.endTile x e).core d = { s.core d with asked := a, ending := n }) ∧ ((s.core d).task = none → (s.endTile x e).core d = s.core d) := by
  cases e
  case done => exact ⟨⟨_, _, rfl⟩, fun _ => rfl⟩
  case discarded => exact ⟨⟨_, _, rfl⟩, fun _ => rfl⟩
  case killed =>
    have core : (s.endTile x .killed).core d = if (s.core d).task.any (fun t => decide (t.gang = x.gang)) then gangKilled (s.core d) else s.core d :=
      core_killGangCores ..
    rw [core]
    refine ⟨?_, fun h => by rw [h]; rfl⟩
    split
    · exact gangKilled_eq _
    · exact ⟨_, _, rfl⟩

theorem endTile_groups (s : State) (x : Task) (e : EndKind) : (s.endTile x e).sched.groups = s.sched.groups := by cases e <;> rfl

end Sys2Proof.Scope
end

section
/-! A task counts as ended (R129, R75, R142, R155, R308, R310): what its core and the others then hold. -/

namespace Sys2Proof.Scope

open Sys2Proof Sys2Proof.Machine

/-! ### Groups and gang masks (R308, R310) -/

/-- The first n groups of a core's gang left. -/
def leaveGroups (s : State) (c : CoreId) (n : Nat) : State := (List.range n).foldl (fun s g => s.setGroup c (BitVec.ofNat 3 g) false) s

theorem leaveGroups_succ (s : State) (c : CoreId) (n : Nat) : leaveGroups s c (n + 1) = (leaveGroups s c n).setGroup c (BitVec.ofNat 3 n) false := by
  simp [leaveGroups, List.range_succ]

theorem leaveGroups_eq (s : State) (c : CoreId) (n : Nat) : ∃ m, leaveGroups s c n = { s with sched := { s.sched with groups := m } } := by
  induction n with
  | zero => exact ⟨_, rfl⟩
  | succ n ih => obtain ⟨m, h⟩ := ih; exact ⟨_, by rw [leaveGroups_succ, h]; rfl⟩

theorem getLsbD_clear (m : W64) (c : CoreId) : (m &&& ~~~(1 <<< c.val : W64)).getLsbD c.val = false := by
  have own : (1 <<< c.val : W64).getLsbD c.val = true := by
    show (BitVec.ofNat 64 (1 <<< c.val)).getLsbD c.val = true
    rw [BitVec.getLsbD_ofNat, decide_eq_true c.isLt, Nat.testBit_shiftLeft]
    simp
  rw [BitVec.getLsbD_and, BitVec.getLsbD_not, own, Bool.not_true, Bool.and_false, Bool.and_false]

/-- The core is in none of the groups it has left. -/
theorem leaveGroups_left (s : State) (c : CoreId) (x : Task) (hx : (s.core c).task = some x) (n g : Nat) (hn : n ≤ 8) (hg : g < n) :
    (mrd 0 (leaveGroups s c n).sched.groups (x.gang * 8 + g)).getLsbD c.val = false := by
  induction n with
  | zero => omega
  | succ n ih =>
    have key : (leaveGroups s c n).groupKey c (BitVec.ofNat 3 n) = x.gang * 8 + n := by
      obtain ⟨m, h⟩ := leaveGroups_eq s c n
      have task : ((leaveGroups s c n).core c).task = some x := by rw [h]; exact hx
      rw [State.groupKey, task, BitVec.toNat_ofNat, Nat.mod_eq_of_lt (by omega)]
    rw [leaveGroups_succ]
    simp only [State.setGroup, key, Bool.false_eq_true, if_false]
    by_cases h : g = n
    · rw [h, mrd_mwr_self]
      exact getLsbD_clear _ c
    · rw [mrd_mwr_other _ _ _ _ _ _ (by omega)]
      exact ih (by omega) (by omega)

/-- A gang mask is all that its spread changes (R308). -/
theorem setGangMask_frame (s : State) (g : Nat) :
    (s.setGangMask g).sched = s.sched ∧ ∀ d, ∃ m, (s.setGangMask g).core d = { s.core d with eng.gangMask := m } := by
  unfold State.setGangMask
  refine List.foldlRecOn (motive := fun t : State => t.sched = s.sched ∧ ∀ d, ∃ m, t.core d = { s.core d with eng.gangMask := m }) _ _
    ⟨rfl, fun d => ⟨_, rfl⟩⟩ fun t ht c _ => ⟨ht.1, fun d => ?_⟩
  obtain ⟨m, h⟩ := ht.2 d
  rw [core_modCore]
  split
  · exact ⟨_, by rw [h]⟩
  · exact ⟨m, h⟩

/-! ### The end (R129 steps 4 and 5) -/

/-- The state of an ended task after its groups and buffers are given back and its core is cleared. -/
def givenBack (s : State) (c : CoreId) : State := ((leaveGroups (s.l1Flush c) c 8).endBuffers c).modCore c Core.clearTask

theorem finishTask_eq (s : State) (c : CoreId) (x : Task) (e : EndKind) : s.finishTask c x e = ((givenBack s c).setGangMask x.gang).endTile x e := rfl

theorem core_givenBack_other (s : State) (c d : CoreId) (hd : d ≠ c) : (givenBack s c).core d = (s.core d).endBuffers d c := by
  obtain ⟨-, -, -, -, others, -⟩ := l1Flush_frame s c
  obtain ⟨m, h⟩ := leaveGroups_eq (s.l1Flush c) c 8
  have same : (leaveGroups (s.l1Flush c) c 8).core d = s.core d := by rw [h]; exact others d hd
  rw [givenBack, State.core_modCore_other _ _ _ _ hd, core_endBuffers, same]

theorem core_givenBack_self (s : State) (c : CoreId) : ∃ ms,
    (givenBack s c).core c = ({ s.core c with ms := ms }.endBuffers c c).clearTask := by
  obtain ⟨ms, core, -⟩ := l1Flush_frame s c
  obtain ⟨m, h⟩ := leaveGroups_eq (s.l1Flush c) c 8
  have same : (leaveGroups (s.l1Flush c) c 8).core c = { s.core c with ms := ms } := by rw [h]; exact core
  exact ⟨ms, by rw [givenBack, State.core_modCore_self, core_endBuffers, same]⟩

/-- The descriptors of every home core end as R75 says. -/
theorem finishTask_desc (s : State) (c : CoreId) (x : Task) (e : EndKind) (h : CoreId) (i : Nat) (hs : mwf {} (s.core h).own.desc = true) :
    ((s.finishTask c x e).core h).desc i = endDesc h c ((s.core h).desc i) := by
  have ended : ((s.finishTask c x e).core h).own = ((givenBack s c).core h).own := by
    rw [finishTask_eq]
    obtain ⟨a, n, task⟩ := (endTile_core ((givenBack s c).setGangMask x.gang) x e h).1
    obtain ⟨m, gang⟩ := (setGangMask_frame (givenBack s c) x.gang).2 h
    rw [task, gang]
  rw [Core.desc, ended]
  by_cases hc : h = c
  · subst hc
    obtain ⟨ms, core⟩ := core_givenBack_self s h
    rw [core]
    exact desc_endBuffers { s.core h with ms := ms } h h i hs
  · rw [core_givenBack_other s c h hc]
    exact desc_endBuffers (s.core h) h c i hs

/-- A core that holds nothing of its last task, of which `k` was the core (R129). -/
structure Cleared (k l : Core) : Prop where
  task : l.task = none
  ending : l.ending = none
  asked : l.asked = none
  reports : l.reports = []
  domain : l.lastDomain = k.task.map Task.domain
  tokens : ∀ j, l.token j = 0
  l1 : l.ms.l1 = []
  fifo : l.ms.fifo = []
  comm : l.ms.comm = []
  pend : l.ms.pend = []
  aq : l.eng.aq = []
  yq : l.eng.yq = []
  flags : l.eng.flags = k.eng.flags
  scratch : l.loc.scratch = k.loc.scratch
  acc : l.loc.acc = k.loc.acc
  handler : l.mode.handler = false
  regs : l.regs = k.regs

theorem clearTask_clears (k : Core) (ms : MemSide) (own : Own) (m : W64) :
    Cleared k { { k with ms := ms, own := own }.clearTask with eng.gangMask := m } := by
  refine ⟨rfl, rfl, rfl, rfl, rfl, fun j => ?_, rfl, rfl, rfl, rfl, rfl, rfl, rfl, rfl, rfl, rfl, rfl⟩
  simp [Core.token, Core.clearTask, Engines.reset, Vector.get_eq_getElem]

theorem finishTask_clears (s : State) (c : CoreId) (x : Task) (e : EndKind) : Cleared (s.core c) ((s.finishTask c x e).core c) := by
  obtain ⟨ms, core⟩ := core_givenBack_self s c
  obtain ⟨own, buffers⟩ := endBuffers_eq { s.core c with ms := ms } c c
  obtain ⟨m, gang⟩ := (setGangMask_frame (givenBack s c) x.gang).2 c
  have idle : (((givenBack s c).setGangMask x.gang).core c).task = none := by rw [gang, core]; rfl
  rw [finishTask_eq, (endTile_core ((givenBack s c).setGangMask x.gang) x e c).2 idle, gang, core, buffers]
  exact clearTask_clears (s.core c) ms own m

theorem finishTask_regs (s : State) (c d : CoreId) (x : Task) (e : EndKind) (hd : d ≠ c) : ((s.finishTask c x e).core d).regs = (s.core d).regs := by
  obtain ⟨a, n, task⟩ := (endTile_core ((givenBack s c).setGangMask x.gang) x e d).1
  obtain ⟨m, gang⟩ := (setGangMask_frame (givenBack s c) x.gang).2 d
  obtain ⟨own, buffers⟩ := endBuffers_eq (s.core d) d c
  rw [finishTask_eq, task, gang, core_givenBack_other s c d hd, buffers]

theorem finishTask_groups (s : State) (c : CoreId) (x : Task) (e : EndKind) (hx : (s.core c).task = some x) (g : Nat) (hg : g < 8) :
    (mrd 0 (s.finishTask c x e).sched.groups (x.gang * 8 + g)).getLsbD c.val = false := by
  have groups : (s.finishTask c x e).sched.groups = (leaveGroups (s.l1Flush c) c 8).sched.groups := by
    rw [finishTask_eq, endTile_groups, (setGangMask_frame _ _).1]
    rfl
  obtain ⟨ms, core, -⟩ := l1Flush_frame s c
  rw [groups]
  exact leaveGroups_left (s.l1Flush c) c x (by rw [core]; exact hx) 8 g (Nat.le_refl 8) hg

end Sys2Proof.Scope
end

section
/-! Boundaries with nothing to take, budgets, stops, and the reset of a core (R388, R396, R398, R405, R409), and the settlement of O51. -/

namespace Sys2Proof.Scope

open Sys2Proof Sys2Proof.Machine

/-! ### Every result lands (R272, R409) -/

theorem mem_foldl_landOne (l : List Inflight) (t : Transport) (f : Inflight) (h : f ∈ (l.foldl landOne t).inflight) :
    f ∈ t.inflight ∨ f ∈ l ∧ f.wait ≠ 0 := by
  induction l generalizing t with
  | nil => exact .inl h
  | cons g l ih =>
    rcases ih (landOne t g) h with h | ⟨h, hw⟩
    · unfold landOne at h
      split at h
      · exact .inl (List.mem_filter.1 h).1
      next hg =>
        rcases List.mem_append.1 h with h | h
        · exact .inl h
        · obtain rfl := List.mem_singleton.1 h
          exact .inr ⟨List.mem_cons_self, hg⟩
    · exact .inr ⟨List.mem_cons_of_mem _ h, hw⟩

/-- What is left under way is not due. -/
theorem mem_landDue (t : Transport) (f : Inflight) (h : f ∈ t.landDue.inflight) : f ∈ t.inflight ∧ f.wait ≠ 0 :=
  (mem_foldl_landOne t.inflight { t with inflight := [] } f h).resolve_left List.not_mem_nil

theorem ticks_lands (n : Nat) (t : Transport) (h : ∀ f ∈ t.inflight, f.wait ≠ 0 ∧ f.wait ≤ n) : (t.ticks n).inflight = [] := by
  induction n generalizing t with
  | zero => exact List.eq_nil_iff_forall_not_mem.2 fun f hf => (h f hf).1 (Nat.le_zero.1 (h f hf).2)
  | succ n ih =>
    refine ih t.tick fun f hf => ?_
    obtain ⟨hm, hw⟩ := mem_landDue _ f hf
    obtain ⟨g, hg, rfl⟩ := List.mem_map.1 hm
    have := (h g hg).2
    exact ⟨hw, by simp only; omega⟩

theorem le_foldl_wait (l : List Inflight) (n : Nat) :
    n ≤ l.foldl (fun n f => max n f.wait) n ∧ ∀ f ∈ l, f.wait ≤ l.foldl (fun n f => max n f.wait) n := by
  induction l generalizing n with
  | nil => exact ⟨Nat.le_refl n, fun _ h => absurd h List.not_mem_nil⟩
  | cons g l ih =>
    obtain ⟨start, rest⟩ := ih (max n g.wait)
    refine ⟨Nat.le_trans (Nat.le_max_left ..) start, fun f hf => ?_⟩
    rcases List.mem_cons.1 hf with rfl | hf
    · exact Nat.le_trans (Nat.le_max_right ..) start
    · exact rest f hf

theorem landAll_inflight (k : Core) : k.landAll.tr.inflight = [] :=
  ticks_lands _ _ fun f hf => ⟨(mem_landDue _ f hf).2, (le_foldl_wait k.tr.inflight 0).2 f (mem_landDue _ f hf).1⟩

/-! ### A boundary that takes nothing (R396) -/

theorem reportWaits_iff (k : Core) (r : Report) : k.reportWaits r = true ↔
    (0x10 ≤ r.trap.code.toNat ∧ r.trap.code.toNat ≤ 0x17 ∨ r.trap.code = 0x0A) ∧ ∃ w ∈ k.ms.walks, w.org.seq = r.seq ∧ w.org.slot < r.trap.slot.toNat := by
  unfold Core.reportWaits xlCause cCompratom
  simp only [Bool.and_eq_true, Bool.or_eq_true, decide_eq_true_eq, List.any_eq_true]

theorem nextReport_none (k : Core) (h : ∀ r ∈ k.reports, ¬ k.takes r) : k.nextReport = none := by
  unfold Core.nextReport
  split
  · rfl
  next hh =>
    have none_taken : k.reports.filter (fun r => !k.reportWaits r && (!k.endIssued || decide (r.seq ≥ k.mode.openSeq))) = [] := by
      refine List.filter_eq_nil_iff.2 fun r hr taken => h r hr ?_
      simp only [Bool.and_eq_true, Bool.not_eq_true', Bool.or_eq_true, decide_eq_true_eq] at taken
      obtain ⟨now, own⟩ := taken
      refine ⟨Bool.eq_false_iff.2 hh, fun he => own.resolve_left fun no => Bool.false_ne_true (no.symm.trans he), ?_⟩
      rw [← reportWaits_iff, now]
      exact Bool.false_ne_true
    rw [none_taken]
    rfl

theorem first_some (a b : Option State) : (match a with | some s => some s | none => b) = a.or b := by cases a <;> rfl

section
variable {s : State} {c : CoreId} (quiet : s.quietBoundary c)
include quiet

theorem budgetTurn_of_quiet : s.budgetTurn c = true := by
  obtain ⟨issues, -, noEnd, noAsk, noReport, noFail⟩ := quiet
  have failed : ((s.core c).mode.handler || (s.core c).eng.cim.fails.isEmpty) = true := by
    rcases noFail with h | h
    · rw [h]; rfl
    · rw [h, Bool.or_eq_true]; exact .inr rfl
  simp only [State.budgetTurn, issues, noEnd, noAsk, nextReport_none _ noReport, failed]
  rfl

/-- Nothing is taken before a budget expiry and a single-step stop. -/
theorem boundary_of_quiet : ∃ second, s.boundary c = (s.budgetStep c second).or (s.stepStop c) := by
  obtain ⟨-, noFatal, noEnd, noAsk, noReport, noFail⟩ := quiet
  have fatal : s.fatalStep c = none := by rw [State.fatalStep, noFatal]
  have fails : (if (s.core c).mode.handler then none else (s.core c).eng.cim.fails.head?) = none := by
    rcases noFail with h | h
    · rw [if_pos h]
    · rw [h]; split <;> rfl
  unfold State.boundary
  simp only [fatal, noEnd, noAsk, nextReport_none _ noReport, fails, Option.none_or, Bool.false_eq_true, if_false]
  exact ⟨_, first_some _ _⟩

end

/-! ### Budgets (R388) -/

theorem over_iff (x : Task) : x.over = true ↔ x.budget ≠ 0 ∧ x.budget ≤ x.used ∧ x.tookBudget = false := by
  simp [Task.over, and_assoc]

theorem exec_budgetExpiry (s : State) : exec .budgetExpiry s = execBudgetExpiry s := rfl
theorem exec_budgetGraceExpiry (s : State) : exec .budgetGraceExpiry s = execBudgetGraceExpiry s := rfl
theorem exec_stepStop (s : State) : exec .stepStop s = execStepStop s := rfl
theorem exec_debugHalt (s : State) : exec .debugHalt s = execDebugHalt s := rfl
theorem exec_coreResetAndTest (s : State) : exec .coreResetAndTest s = execCoreResetAndTest s := rfl
theorem exec_taskEnd (s : State) : exec .taskEnd s = execTaskEnd s := rfl

/-- The core of a task that ends at a boundary. -/
def endingCore (k : Core) (ctr : Nat) (e : EndKind) : Core := { k.rollback ctr with ending := some e, asked := none }

theorem endTask_eq (s : State) (c : CoreId) (e : EndKind) :
    ∃ sched, s.endTask c e = { (s.setCore c (endingCore (s.core c) s.freeCtr e)).bump.bump with sched := sched } := by
  cases e
  case done => exact ⟨_, rfl⟩
  case killed => exact ⟨_, rfl⟩
  case discarded o =>
    obtain ⟨sched, h⟩ := discarding_frame True (s.setCore c (endingCore (s.core c) s.freeCtr (.discarded o))).bump.bump c
    rw [if_pos trivial] at h
    exact ⟨sched, h⟩

/-- A task ended at a boundary: the core rolls back and the rest of the device stays, the tile of a discarded one apart. -/
theorem endTask_ends (s : State) (c : CoreId) (e : EndKind) : EndsAt s (s.endTask c e) c e := by
  obtain ⟨sched, h⟩ := endTask_eq s c e
  have core : (s.endTask c e).core c = endingCore (s.core c) s.freeCtr e := by rw [h]; exact State.core_setCore_self ..
  obtain ⟨-, -, -, -, -, scratch⟩ := rollback_keeps (s.core c) s.freeCtr
  constructor
  case mem => rw [h]; rfl
  case hk => rw [h]; rfl
  case others => intro d hd; rw [h]; exact State.core_setCore_other _ _ _ _ hd
  all_goals rw [core]
  case ending => rfl
  case asked => rfl
  case regs => exact Core.rollback_regs _ s.freeCtr
  case wh => exact Core.rollback_wh _ s.freeCtr
  case task => exact Core.rollback_task _ s.freeCtr
  case scratch => exact scratch

theorem budgetStep_none (s : State) (c : CoreId) (second : Bool)
    (h : ∀ x, (s.core c).task = some x → x.over = false ∧ ¬ (x.tookBudget = true ∧ x.grace = 0)) : s.budgetStep c second = none := by
  unfold State.budgetStep
  simp only
  split
  · rfl
  next x task =>
    obtain ⟨notDue, noGrace⟩ := h x task
    have spent : (x.tookBudget && decide (x.grace = 0)) = false := by simpa using noGrace
    rw [notDue, spent]
    rfl

section
variable {s : State} {x : Task} (task : (s.core s.cur.core).task = some x) (quiet : s.quietBoundary s.cur.core)
include task quiet

/-- The budget of a task is due at its boundary. -/
theorem budgetExpiry_quiet : exec .budgetExpiry s = .next (if x.over then (s.budgetStep s.cur.core (s.overran x)).getD s else s) := by
  simp only [exec_budgetExpiry, execBudgetExpiry, task, budgetTurn_of_quiet quiet, Bool.and_true]

theorem budgetExpiry_idem (due : x.over = true) (idem : x.idem = true) :
    exec .budgetExpiry s = .next (s.endTask s.cur.core (if s.overran x then .killed else .discarded true)) := by
  simp only [budgetExpiry_quiet task quiet, State.budgetStep, task, due, idem, if_true, Option.getD_some]

theorem budgetExpiry_traps (due : x.over = true) (idem : x.idem = false) :
    exec .budgetExpiry s = .next ((s.setCore s.cur.core { s.core s.cur.core with task := some { x with tookBudget := true, grace := 65536 } }).takeTrap
      s.cur.core ((s.core s.cur.core).seq + 1) { code := 0x23, pc := (s.core s.cur.core).pc }) := by
  simp only [budgetExpiry_quiet task quiet, State.budgetStep, task, due, idem, if_true, Bool.false_eq_true, if_false, Option.getD_some]

theorem budgetGraceExpiry_quiet :
    exec .budgetGraceExpiry s = .next (if x.tookBudget = true ∧ x.grace = 0 then s.endTask s.cur.core .killed else s) := by
  simp only [exec_budgetGraceExpiry, execBudgetGraceExpiry, task, budgetTurn_of_quiet quiet, Bool.and_true, Bool.and_eq_true, decide_eq_true_eq]

/-- The single-step stop takes its turn where no budget does. -/
theorem stepStop_quiet (notDue : x.over = false) (noGrace : ¬ (x.tookBudget = true ∧ x.grace = 0)) :
    exec .stepStop s = .next ((s.stepStop s.cur.core).getD s) := by
  have none_due : (x.over || (x.tookBudget && decide (x.grace = 0))) = false := by simpa [notDue] using noGrace
  simp only [exec_stepStop, execStepStop, task, budgetTurn_of_quiet quiet, none_due, Bool.not_false, Bool.and_true, if_true]

end

/-! ### Stops (R409) -/

/-- The core of a stepped bundle as its stop leaves it. -/
def steppedCore (k : Core) (pc : W64) (addr : W64) : Core :=
  ({ k with traps := k.traps.record { code := 0x22, detail := k.mode.stepDetail, addr := addr, pc := pc }
            mode.stopped := true, mode.stepPc := none } : Core).landAll

theorem stepStop_eq (s : State) (c : CoreId) (pc : W64) (stepped : (s.core c).mode.stepPc = some pc) (rel : (s.core c).ms.releasing = none)
    (comm : (s.core c).ms.comm = []) (pend : (s.core c).ms.pend = []) : ∃ a, s.stepStop c = some (s.setCore c (steppedCore (s.core c) pc a)) := by
  unfold State.stepStop
  simp only [stepped, rel, comm, pend, Option.isSome_none, List.any_nil, Bool.or_self, Bool.false_eq_true, if_false]
  exact ⟨_, rfl⟩

theorem steppedCore_stops (k : Core) (pc addr : W64) :
    let l := steppedCore k pc addr
    l.mode = { k.mode with stopped := true, stepPc := none } ∧ l.traps.tcause.extractLsb' 0 8 = 0x22 ∧
      l.traps.tcause.extractLsb' 8 8 = k.mode.stepDetail ∧ l.traps.tbpc = pc &&& 0xFFFFFFFFFFFFE0 ∧ l.traps.tslot = 15 ∧ l.regs = k.regs ∧
      l.pc = k.pc ∧ l.tr.inflight = [] ∧ l.loc = k.loc ∧ l.snap = k.snap := by
  obtain ⟨code, detail, -⟩ := cause_fields { code := 0x22, detail := k.mode.stepDetail, addr := addr, pc := pc }
  exact ⟨rfl, code, detail, rfl, rfl, rfl, rfl, landAll_inflight _, rfl, rfl⟩

theorem debugHalt_not (s : State) (h : s.canIssue s.cur.core = false ∨ (s.core s.cur.core).mode.dbgHalt = false) : exec .debugHalt s = .next s := by
  have no : (s.canIssue s.cur.core && (s.core s.cur.core).mode.dbgHalt) = false := by
    rcases h with h | h
    · rw [h, Bool.false_and]
    · rw [h, Bool.and_false]
  simp only [exec_debugHalt, execDebugHalt, no, Bool.false_eq_true, if_false]

theorem debugHalt_stops (s : State) (quiet : s.quietBoundary s.cur.core) (halt : (s.core s.cur.core).mode.dbgHalt = true)
    (noStep : (s.core s.cur.core).mode.stepPc = none)
    (noBudget : ∀ x, (s.core s.cur.core).task = some x → x.over = false ∧ ¬ (x.tookBudget = true ∧ x.grace = 0)) :
    exec .debugHalt s = .next (s.setCore s.cur.core { (s.core s.cur.core).landAll with mode.stopped := true, mode.dbgHalt := false }) := by
  have nothing : s.boundary s.cur.core = none := by
    have noStop : s.stepStop s.cur.core = none := by rw [State.stepStop, noStep]
    obtain ⟨second, h⟩ := boundary_of_quiet quiet
    rw [h, noStop, Option.or_none, budgetStep_none s _ second noBudget]
  simp only [exec_debugHalt, execDebugHalt, quiet.1, halt, Bool.and_self, if_true, nothing, Option.getD_none]
  rfl

/-! ### Reset and test of a core (R398, R405) -/

theorem coreResetAndTest_not (s : State) (hq : (s.core s.cur.core).mode.quarantined = false) (ho : (s.core s.cur.core).mode.offline = false) :
    exec .coreResetAndTest s = .next s := by
  simp [exec_coreResetAndTest, execCoreResetAndTest, hq, ho]

/-- Bytes written into a trap Glade change memory and records only. -/
theorem core_writeTrapGlade (s : State) (c d : CoreId) (off : Nat) (bs : List Byte) : (s.writeTrapGlade c off bs).core d = s.core d := rfl

theorem sched_writeTrapGlade (s : State) (c : CoreId) (off : Nat) (bs : List Byte) : (s.writeTrapGlade c off bs).sched = s.sched := rfl

/-- One core reset, tested and loaded with its handler code. -/
def backInService (s : State) (c : CoreId) : State := ((s.dropStandby c).modCore c Core.restarted).writeTrapGlade c 0 s.hk.handlerCode

/-- The cores that one reset takes: a lockstep pair, or the core alone. -/
def resetCores (s : State) : List CoreId :=
  if s.lockstep (groveOf s.cur.core) then [coreId (s.cur.core.val / 2 * 2), coreId (s.cur.core.val / 2 * 2 + 1)] else [s.cur.core]

theorem execCoreResetAndTest_eq (s : State) : execCoreResetAndTest s =
    if !((s.core s.cur.core).mode.quarantined || (s.core s.cur.core).mode.offline) || (resetCores s).any (fun d => (s.core d).task.isSome)
    then .next s else .next ((resetCores s).foldl backInService s) := rfl

theorem coreResetAndTest_alone (s : State) (out : (s.core s.cur.core).mode.quarantined = true ∨ (s.core s.cur.core).mode.offline = true)
    (single : s.lockstep (groveOf s.cur.core) = false) (idle : (s.core s.cur.core).task = none) :
    exec .coreResetAndTest s = .next (backInService s s.cur.core) := by
  have service : ((s.core s.cur.core).mode.quarantined || (s.core s.cur.core).mode.offline) = true := by simpa using out
  have alone : resetCores s = [s.cur.core] := if_neg (by simp [single])
  have free : [s.cur.core].any (fun d => (s.core d).task.isSome) = false := by simp [idle]
  rw [exec_coreResetAndTest, execCoreResetAndTest_eq, alone, service, free, List.foldl_cons, List.foldl_nil]
  exact if_neg (by decide)

theorem backInService_frame (s : State) (c : CoreId) (noStandby : (s.core c).standby = none) :
    (backInService s c).core c = (s.core c).restarted ∧ SameOthers c s (backInService s c) ∧ (backInService s c).sched = s.sched := by
  have dropped : s.dropStandby c = s := by rw [State.dropStandby, noStandby]
  unfold backInService
  rw [dropped, core_writeTrapGlade, sched_writeTrapGlade]
  refine ⟨State.core_modCore_self .., fun d hd => ?_, rfl⟩
  rw [core_writeTrapGlade, State.core_modCore_other _ _ _ _ hd]

end Sys2Proof.Scope
end

section
/-! The settlement of O51. -/

namespace Sys2Proof.Scope

open Sys2Proof Sys2Proof.Machine

/-! ### The end of a task (R129) -/

section
variable {s : State} {x : Task} {e : EndKind} (task : (s.core s.cur.core).task = some x) (ending : (s.core s.cur.core).ending = some e)
include task ending

/-- While something of the task is under way it has not ended. -/
theorem taskEnd_waits (busy : (s.stopTask s.cur.core e).taskQuiet s.cur.core = false) : exec .taskEnd s = .next (s.stopTask s.cur.core e) := by
  simp only [exec_taskEnd, execTaskEnd, task, ending, busy, Bool.not_false, if_true]

/-- Then it has, and where no discard was asked of it, nothing else follows. -/
theorem taskEnd_finishes (quiet : (s.stopTask s.cur.core e).taskQuiet s.cur.core = true) (noAsk : (s.core s.cur.core).asked = none) :
    exec .taskEnd s = .next ((s.stopTask s.cur.core e).finishTask s.cur.core x e) := by
  simp only [exec_taskEnd, execTaskEnd, task, ending, quiet, noAsk, Bool.not_true, Bool.false_and, Bool.false_eq_true, if_false]

end

/-- What stopping the work of a task leaves of its core (R129 steps 1 and 3). -/
theorem stopTask_gives (s : State) (c : CoreId) (e : EndKind) :
    let u := s.stopTask c e
    (u.core c).ms.wh = [] ∧ (u.core c).ms.walks = [] ∧ (∀ r, (u.core c).ms.releasing = some r → r.committed = true) ∧
      (u.core c).regs = (s.core c).regs ∧ u.mem = s.mem ∧ u.hk = s.hk := by
  obtain ⟨mem, hk, ⟨loc, eng, core, -⟩, -⟩ := stopTask_stops s c e
  intro u
  have core : u.core c = { givenUp (s.core c) with loc := loc, eng := eng } := core
  rw [core]
  exact ⟨rfl, rfl, fun r hr => (Option.filter_eq_some_iff.1 hr).2, rfl, mem, hk⟩

theorem stopTask_own (s : State) (c : CoreId) (e : EndKind) (d : CoreId) : ((s.stopTask c e).core d).own = (s.core d).own := by
  obtain ⟨-, -, ⟨loc, eng, mine, -⟩, others⟩ := stopTask_stops s c e
  by_cases hd : d = c
  · rw [hd, mine]; rfl
  · obtain ⟨loc, eng, h, -⟩ := others d hd
    rw [h]

theorem taskEnd_ended (s : State) (x : Task) (e : EndKind) (task : (s.core s.cur.core).task = some x) (ending : (s.core s.cur.core).ending = some e)
    (quiet : (s.stopTask s.cur.core e).taskQuiet s.cur.core = true) (noAsk : (s.core s.cur.core).asked = none)
    (tables : ∀ h, mwf {} (s.core h).own.desc = true) :
    let c := s.cur.core
    let u := s.stopTask c e
    ∃ t, exec .taskEnd s = .next t ∧
      let l := t.core c
      l.task = none ∧ l.ending = none ∧ l.asked = none ∧ l.reports = [] ∧ l.lastDomain = some x.domain ∧ (∀ j, j < 32 → l.token j = 0) ∧
      l.ms.l1 = [] ∧ l.ms.fifo = [] ∧ l.ms.comm = [] ∧ l.ms.pend = [] ∧ l.eng.aq = [] ∧ l.eng.yq = [] ∧ l.eng.flags = (s.core c).eng.flags ∧
      l.loc.scratch = (u.core c).loc.scratch ∧ l.loc.acc = (u.core c).loc.acc ∧ l.mode.handler = false ∧ l.regs = (s.core c).regs ∧
      (∀ h i, (t.core h).desc i = endDesc h c ((s.core h).desc i)) ∧ (∀ d, d ≠ c → (t.core d).regs = (s.core d).regs) ∧
      (∀ g, g < 8 → (mrd 0 t.sched.groups (x.gang * 8 + g)).getLsbD c.val = false) ∧
      ∀ i ∈ t.sched.insts, i.slot = x.inst →
        (∀ v, e = .done v → (i.tile x.node x.tile).st = .done) ∧ (e = .killed → (i.tile x.node x.tile).st = .killed) ∧
        ∀ o, e = .discarded o → (i.tile x.node x.tile).rerun = true ∧ (i.tile x.node x.tile).lastOver = o := by
  intro c u
  obtain ⟨-, -, ⟨loc, eng, mine, engFlags⟩, others⟩ := stopTask_stops s c e
  have mine : u.core c = { givenUp (s.core c) with loc := loc, eng := eng } := mine
  have uTask : (u.core c).task = some x := by rw [mine]; exact task
  have uRegs : ∀ d, (u.core d).regs = (s.core d).regs := fun d => by
    by_cases hd : d = c
    · rw [hd, mine]; rfl
    · obtain ⟨loc, eng, h, -⟩ := others d hd
      rw [show u.core d = _ from h]
  have uFlags : (u.core c).eng.flags = (s.core c).eng.flags := by rw [mine]; exact engFlags
  have l := finishTask_clears u c x e
  refine ⟨u.finishTask c x e, taskEnd_finishes task ending quiet noAsk, l.task, l.ending, l.asked, l.reports, ?_, fun j _ => l.tokens j, l.l1, l.fifo,
    l.comm, l.pend, l.aq, l.yq, l.flags.trans uFlags, l.scratch, l.acc, l.handler, l.regs.trans (uRegs c), fun h i => ?_, fun d hd => ?_,
    fun g hg => finishTask_groups u c x e uTask g hg, fun i hi slot => endTile_tile _ x e i hi slot⟩
  · rw [l.domain, uTask]; rfl
  · have own : (u.core h).own = (s.core h).own := stopTask_own s c e h
    rw [finishTask_desc u c x e h i (by rw [own]; exact tables h), Core.desc, own]
    rfl
  · rw [finishTask_regs u c d x e hd, uRegs]

/-! ### O51 -/

/-- What a quiet boundary makes of a budget, its grace and a single-step stop (R388, R409). -/
theorem quietBoundary_budget (s : State) (x : Task) (task : (s.core s.cur.core).task = some x) (quiet : s.quietBoundary s.cur.core) :
    let c := s.cur.core
    let k := s.core c
    let due := x.budget ≠ 0 ∧ x.budget ≤ x.used ∧ x.tookBudget = false
    (due → x.idem = true → ∃ t, exec .budgetExpiry s = .next t ∧ (t.core c).ending = some (if s.overran x then .killed else .discarded true) ∧
      (t.core c).regs = k.snap.regs ∧ t.mem = s.mem ∧ SameOthers c s t) ∧
    (due → x.idem = false → exec .budgetExpiry s = .next ((s.setCore c { k with task := some { x with tookBudget := true, grace := 65536 } }).takeTrap
      c (k.seq + 1) { code := 0x23, pc := k.pc })) ∧
    (¬ due → exec .budgetExpiry s = .next s) ∧
    (x.tookBudget = true → x.grace = 0 → ∃ t, exec .budgetGraceExpiry s = .next t ∧ EndsAt s t c .killed) ∧
    (x.tookBudget = false ∨ x.grace ≠ 0 → exec .budgetGraceExpiry s = .next s) ∧
    (¬ due → (x.tookBudget = false ∨ x.grace ≠ 0) → k.ms.releasing = none → k.ms.comm = [] → k.ms.pend = [] →
      (k.mode.stepPc = none → exec .stepStop s = .next s) ∧
      ∀ pc, k.mode.stepPc = some pc → ∃ l, exec .stepStop s = .next (s.setCore c l) ∧ l.mode = { k.mode with stopped := true, stepPc := none } ∧
        l.traps.tcause.extractLsb' 0 8 = 0x22 ∧ l.traps.tcause.extractLsb' 8 8 = k.mode.stepDetail ∧ l.traps.tbpc = pc &&& 0xFFFFFFFFFFFFE0 ∧
        l.traps.tslot = 15 ∧ l.regs = k.regs ∧ l.pc = k.pc ∧ l.tr.inflight = [] ∧ l.loc = k.loc ∧ l.snap = k.snap) := by
  intro c k due
  have spends : x.over = true ↔ due := over_iff x
  have notOver : ¬ due → x.over = false := fun no => Bool.eq_false_iff.2 fun h => no (spends.1 h)
  have noGrace : x.tookBudget = false ∨ x.grace ≠ 0 → ¬ (x.tookBudget = true ∧ x.grace = 0) := by
    rintro h ⟨took, grace⟩
    exact h.elim (fun no => Bool.false_ne_true (no.symm.trans took)) fun no => no grace
  refine ⟨fun hd idem => ?_, fun hd idem => budgetExpiry_traps task quiet (spends.2 hd) idem, fun no => ?_, fun took grace => ?_, fun no => ?_,
    fun no spent rel comm pend => ⟨fun noStep => ?_, fun pc stepped => ?_⟩⟩
  · have ends := endTask_ends s c (if s.overran x then .killed else .discarded true)
    exact ⟨_, budgetExpiry_idem task quiet (spends.2 hd) idem, ends.ending, ends.regs, ends.mem, ends.others⟩
  · rw [budgetExpiry_quiet task quiet, notOver no]
    rfl
  · rw [budgetGraceExpiry_quiet task quiet, if_pos ⟨took, grace⟩]
    exact ⟨_, rfl, endTask_ends s c .killed⟩
  · rw [budgetGraceExpiry_quiet task quiet, if_neg (noGrace no)]
  · rw [stepStop_quiet task quiet (notOver no) (noGrace spent), State.stepStop, noStep]
    rfl
  · obtain ⟨a, h⟩ := stepStop_eq s c pc stepped rel comm pend
    rw [stepStop_quiet task quiet (notOver no) (noGrace spent), h]
    exact ⟨_, rfl, steppedCore_stops k pc a⟩

/-- Settles O51: the end of a task, budgets and stops at a quiet boundary, and the reset of a core. -/
theorem tasksEndAndCoresStop : Obligations.TasksEndAndCoresStop := by
  unfold Obligations.TasksEndAndCoresStop
  intro s c k
  refine ⟨fun x e task ending => ⟨stopTask_gives s c e, taskEnd_waits task ending, fun quiet noAsk tables => ?_⟩,
    fun x task quiet => quietBoundary_budget s x task quiet, fun quiet halt noStep noBudget => ?_, debugHalt_not s, fun out single idle noStandby => ?_,
    coreResetAndTest_not s⟩
  · exact taskEnd_ended s x e task ending quiet noAsk tables
  · refine ⟨_, debugHalt_stops s quiet halt noStep fun x hx => ?_, rfl, landAll_inflight _, rfl, rfl, rfl, rfl, rfl, rfl, rfl⟩
    obtain ⟨notDue, noGrace⟩ := noBudget x hx
    exact ⟨Bool.eq_false_iff.2 fun h => notDue ((over_iff x).1 h), noGrace⟩
  · obtain ⟨core, others, sched⟩ := backInService_frame s c noStandby
    refine ⟨_, coreResetAndTest_alone s out single idle, others, sched, ?_⟩
    rw [core]
    exact ⟨rfl, rfl, rfl, rfl, rfl⟩

end Sys2Proof.Scope
end

section
/-! The refutation of O43. The clause on a class 4 page of home 0 asks that the slot read as the store left it in every state. It lacks the
premise that Canopy keeps each line in the set of its address (R81): below, a dirty way for line 0 stands in the set of line 1, and the second
line of the slot, written after the first, evicts it over the first. -/

namespace Sys2Proof.Scope

open Sys2Proof Sys2Proof.Machine

theorem exec_globalStoreArrival (s : State) : exec .globalStoreArrival s = execGlobalStoreArrival s := rfl

/-- A store that the commit order lets be performed, and that does not wait for the L1, leaves memory as its writes do. -/
theorem globalStoreArrival_mem {s t : State} {w : Comm} {g : Seg} {l : List Seg} {bs : List Byte} {p : Bool}
    (free : (s.core s.cur.core).freeItem s.cur.k w) (place : w.place = .glob (g :: l)) (what : w.what = .store bs p) (past : w.isL1 = false)
    (arrives : exec .globalStoreArrival s = .next t) : t.mem = (s.mem.writeSegs (g :: l) bs p).1 := by
  have ready := accessReady_of_freeItem s.cur.core free
  simp only [exec_globalStoreArrival, execGlobalStoreArrival, freeItem_at free, place, what, past, ready, Bool.not_true, Bool.false_eq_true,
    if_false] at arrives
  cases arrives
  rfl

/-- Memory whose slot 0 is an encoded block of zeros (R149, method 1). The set of line 0 has no way in service, so that the line stays in the
stacks; the one way of the set of line 1 holds line 0, dirty, with first byte 2. -/
def strayedMem : Mem := { Mem.reset with
  hbm := [(0, 1)]
  blocks := [(0, { encoded := true, written := true })]
  canopy := [(setOf 0, ⟨List.replicate 16 .retired, 0⟩),
    (setOf 1, ⟨.held ⟨0, 0, 0, 0, true, 2, 0, 0, false⟩ :: List.replicate 15 .retired, 0⟩)] }

/-- Byte 0 of class 4 slot 0 of home 0. -/
def firstByte : Seg := ⟨0, 0, 4, 0, 1⟩

/-- A committed store of the byte 7 there. -/
def storeOfSeven : Comm := { id := 0, org := {}, place := .glob [firstByte], batch := 0, what := .store [7] false }

/-- The machine after reset with that memory, and the store as the only committed item of core 0. -/
def strayedState : State :=
  { State.reset.setCore 0 { Core.reset with ms.comm := [storeOfSeven] } with mem := strayedMem }

theorem strayedState_core : strayedState.core strayedState.cur.core = { Core.reset with ms.comm := [storeOfSeven] } :=
  State.core_setCore_self State.reset 0 _

theorem strayedState_mem : strayedState.mem = strayedMem := rfl

theorem storeOfSeven_free : (strayedState.core strayedState.cur.core).freeItem strayedState.cur.k storeOfSeven := by
  rw [strayedState_core]
  exact ⟨rfl, fun r hr => absurd hr (by simp [Core.reset, MemSide.reset]), fun d hd => absurd hd (by simp [strayedState, State.setCore, State.reset])⟩

/-- The store writes its byte, and the eviction of the misplaced way then writes over it. -/
theorem strayedMem_loses_store : (strayedMem.writeSegs [firstByte] [7] false).1.slotAt 0 0 0 0 = 2 := by decide +kernel

theorem firstByte_oneUnit : oneUnit [firstByte] 0 0 4 256 0 := by
  intro g hg
  obtain rfl := List.mem_singleton.1 hg
  decide

/-- Refutes O43: the store of 7 to byte 0 of slot 0 leaves 2 there, where a way of Canopy that stands in another set than its own is evicted
over the first line of the slot. -/
theorem not_accessesPerformAtTheirPoints : ¬ Obligations.AccessesPerformAtTheirPoints := by
  unfold Obligations.AccessesPerformAtTheirPoints
  intro h
  obtain ⟨-, -, -, global⟩ := h strayedState 0 0
  obtain ⟨-, -, store, -⟩ := global storeOfSeven [firstByte] storeOfSeven_free rfl
  obtain ⟨t, arrives, -, -, -, -, slot⟩ := store [7] false rfl rfl
  have stored : t.mem.slotAt 0 0 0 0 = storedOver [firstByte] [7] 256 (strayedMem.slotAt 0 0 0) 0 :=
    slot firstByte rfl rfl (by decide) firstByte_oneUnit 0 (by decide)
  have seven : storedOver [firstByte] [7] 256 (strayedMem.slotAt 0 0 0) 0 = 7 := rfl
  have mem := globalStoreArrival_mem storeOfSeven_free (g := firstByte) (l := []) (bs := [7]) (p := false) rfl rfl rfl arrives
  rw [seven, mem, strayedState_mem, strayedMem_loses_store] at stored
  exact absurd stored (by decide)

end Sys2Proof.Scope
end

section
/-! Error records and their banks (R406 to R408), what the HBM4E controllers do on their own (R96, R419), and the settlement of O53. -/

namespace Sys2Proof.Scope

open Sys2Proof Sys2Proof.Machine

/-! ### The words of a bank (R406) -/

/-- A word has one 16-bit count changed where its bits below and above the count are the same numbers. -/
theorem countAt_of_parts (w v : W64) (lo n : Nat) (below : v.toNat % 2 ^ lo = w.toNat % 2 ^ lo) (above : v.toNat / 2 ^ (lo + 16) = w.toNat / 2 ^ (lo + 16))
    (field : v.toNat / 2 ^ lo % 2 ^ 16 = n % 2 ^ 16) : countAt w v lo n := by
  refine ⟨BitVec.eq_of_toNat_eq ?_, fun i _ out => ?_⟩
  · rw [BitVec.extractLsb'_toNat, BitVec.toNat_ofNat, Nat.shiftRight_eq_div_pow, field]
  · rcases out with h | h
    · have bit := fun x : Nat => Nat.testBit_mod_two_pow x lo i
      simp only [h, decide_true, Bool.true_and] at bit
      rw [BitVec.getLsbD, BitVec.getLsbD, ← bit, below, bit]
    · have bit := fun x : Nat => Nat.testBit_div_two_pow x (i - (lo + 16)) (n := lo + 16)
      simp only [Nat.sub_add_cancel h] at bit
      rw [BitVec.getLsbD, BitVec.getLsbD, ← bit, above, bit]

theorem setField16_cnt (w : W64) (n : Nat) : countAt w (setField16 w 24 n) 24 n := by
  have h : (setField16 w 24 n).toNat = (w.toNat - w.toNat / 2 ^ 24 % 2 ^ 16 * 2 ^ 24 + n % 65536 * 2 ^ 24) % 2 ^ 64 := by
    rw [setField16, BitVec.toNat_ofNat, bits, Nat.shiftRight_eq_div_pow]
  have lt := w.isLt
  refine countAt_of_parts _ _ _ _ ?_ ?_ ?_ <;> rw [h] <;> omega

theorem setField16_ovf (w : W64) (n : Nat) : countAt w (setField16 w 40 n) 40 n := by
  have h : (setField16 w 40 n).toNat = (w.toNat - w.toNat / 2 ^ 40 % 2 ^ 16 * 2 ^ 40 + n % 65536 * 2 ^ 40) % 2 ^ 64 := by
    rw [setField16, BitVec.toNat_ofNat, bits, Nat.shiftRight_eq_div_pow]
  have lt := w.isLt
  refine countAt_of_parts _ _ _ _ ?_ ?_ ?_ <;> rw [h] <;> omega

theorem wordOf_nil : wordOf [] = BitVec.ofNat 64 0 := rfl

theorem wordOf_cons (e a : Nat) (l : List (Nat × Nat)) : wordOf ((e, a) :: l) = BitVec.ofNat 64 (a * 2 ^ e) + wordOf l := by
  simp [wordOf, BitVec.ofNat_add]

/-- The words of a record, as the model and as the statements write them. -/
theorem bank_eq_recordWords (r : ErrRec) (ovf : BitVec 16) : r.bank ovf.toNat = recordWords r ovf := by
  rw [ErrRec.bank, recordWords, ErrBank.mk.injEq]
  refine ⟨?_, rfl, rfl, ?_⟩
  · simp only [wordOf_cons, wordOf_nil, ← BitVec.ofNat_add]
    exact congrArg _ (by omega)
  · simp only [wordOf_cons, wordOf_nil, ← BitVec.ofNat_add]
    refine congrArg _ ?_
    cases r.core <;> cases r.macr <;>
      simp only [Option.isSome_none, Option.isSome_some, Option.getD_none, Option.getD_some, Bool.false_eq_true, if_false, if_true] <;> omega

/-- The fields by which a record is known again (R408 step 1). -/
theorem recordWords_fields (r : ErrRec) :
    bits (recordWords r 0).w0 0 8 = r.event % 2 ^ 8 ∧ bits (recordWords r 0).w3 56 8 = r.unit % 2 ^ 8 ∧
      bits (recordWords r 0).w3 55 1 = (if r.core.isSome then 1 else 0) ∧ bits (recordWords r 0).w3 48 6 = r.core.getD 0 % 2 ^ 6 := by
  have detail := r.detail.isLt
  have cause := r.cause.isLt
  have flag : ∀ p : Bool, (if p then 1 else 0) < 2 := by decide
  have cv := flag r.core.isSome
  have mv := flag r.macr.isSome
  simp only [bits, recordWords, wordOf_cons, wordOf_nil, ← BitVec.ofNat_add, BitVec.toNat_ofNat, Nat.shiftRight_eq_div_pow]
  generalize (if r.core.isSome = true then 1 else 0) = x at cv ⊢
  generalize (if r.macr.isSome = true then 1 else 0) = y at mv ⊢
  refine ⟨?_, ?_, ?_, ?_⟩ <;> omega

theorem bits_eq_iff (v : W64) (lo n x : Nat) : bits v lo n = x % 2 ^ n ↔ v.extractLsb' lo n = BitVec.ofNat n x :=
  ⟨fun h => BitVec.eq_of_toNat_eq (h.trans (BitVec.toNat_ofNat x n).symm), fun h => (congrArg BitVec.toNat h).trans (BitVec.toNat_ofNat x n)⟩

theorem bits_bool_iff (v : W64) (lo : Nat) (x : Bool) : bits v lo 1 = (if x then 1 else 0) ↔ v.getLsbD lo = x := by
  have one := bits_one_iff v lo
  have lt : bits v lo 1 < 2 := Nat.mod_lt _ (by decide)
  cases x
  · rw [← Bool.not_eq_true, ← one, if_neg Bool.false_ne_true]
    omega
  · exact one

/-- R408 step 1: whether a bank names the record already. -/
theorem sameAs_iff (b : ErrBank) (r : ErrRec) : b.sameAs r = true ↔ b.matchesRec r := by
  obtain ⟨event, unit, cv, core⟩ := recordWords_fields r
  have addr : (recordWords r 0).w1 = r.addr := rfl
  have words : r.bank 0 = recordWords r 0 := bank_eq_recordWords r 0
  simp only [ErrBank.sameAs, ErrBank.matchesRec, ErrBank.occupied, words, event, unit, cv, core, addr, Bool.and_eq_true, Bool.or_eq_true, decide_eq_true_eq,
    bits_bool_iff, bits_eq_iff, and_assoc]
  cases r.core <;> simp

/-! ### The choice of a bank (R408) -/

theorem findBank_first (l : Vector ErrBank 32) (p : ErrBank → Bool) (i : Fin 32) (here : p (l.get i) = true) (before : ∀ j, j < i → p (l.get j) = false) :
    findBank l p = some i := by
  refine List.find?_eq_some_iff_getElem.2 ⟨here, i.val, by simp, by simp, fun j hj => ?_⟩
  simpa using before ⟨j, hj.trans i.isLt⟩ hj

theorem findBank_none (l : Vector ErrBank 32) (p : ErrBank → Bool) (h : ∀ j, p (l.get j) = false) : findBank l p = none :=
  List.find?_eq_none.2 fun j _ => by simp [h j]

/-- A scan of a rising list for a lesser value ends at the first of the least, once it has met it or is still to meet it. -/
theorem foldl_first_least (f : Fin 32 → Nat) (i : Fin 32) (l : List (Fin 32)) (b : Fin 32) (rising : l.Pairwise (· < ·)) (least : ∀ j, f i ≤ f j)
    (first : ∀ j, j < i → f i < f j) (met : b = i ∨ f i < f b ∧ i ∈ l) : l.foldl (fun b j => if f j < f b then j else b) b = i := by
  induction l generalizing b with
  | nil => exact met.resolve_right fun h => List.not_mem_nil h.2
  | cons j t ih =>
    obtain ⟨above, tail⟩ := List.pairwise_cons.1 rising
    refine ih _ tail ?_
    rcases met with rfl | ⟨higher, mem⟩
    · exact .inl (if_neg (Nat.not_lt.2 (least j)))
    · rcases List.mem_cons.1 mem with rfl | mem
      · exact .inl (if_pos higher)
      · refine .inr ⟨?_, mem⟩
        show f i < f (if f j < f b then j else b)
        split
        · exact first j (above i mem)
        · exact higher

/-- R408 step 3: the scan ends at the lowest-numbered bank among those of the lowest severity. -/
theorem lowestBank_eq (l : Vector ErrBank 32) (i : Fin 32) (least : ∀ j, (l.get i).sev ≤ (l.get j).sev) (first : ∀ j, j < i → (l.get i).sev < (l.get j).sev) :
    lowestBank l = i := by
  refine foldl_first_least (fun j => (l.get j).sev) i _ 0 (List.pairwise_lt_finRange 32) least first ?_
  rcases eq_or_ne i 0 with rfl | ne
  · exact .inl rfl
  · exact .inr ⟨first 0 (Fin.pos_of_ne_zero ne), List.mem_finRange i⟩

/-- One bank is set. -/
theorem bankOnly_set (l : Vector ErrBank 32) (i : Fin 32) (v : ErrBank) : BankOnly l (l.set i v) i v := by
  refine ⟨by simp [Vector.get_eq_getElem], fun j hj => ?_⟩
  have ne : i.val ≠ j.val := fun h => hj (Fin.ext h.symm)
  simp [Vector.get_eq_getElem, ne]

/-! ### The place of a record (R408) -/

/-- Step 1: a bank that names the record counts it once more. -/
theorem placeRecord_counts (l : Vector ErrBank 32) (r : ErrRec) (i : Fin 32) (same : (l.get i).matchesRec r) (before : ∀ j, j < i → ¬ (l.get j).matchesRec r) :
    ∃ w, BankOnly l (placeRecord l r) i { l.get i with w0 := w } ∧ countAt (l.get i).w0 w 24 (min ((l.get i).cnt + 1) 65535) := by
  have found : findBank l (fun b => b.sameAs r) = some i := findBank_first l _ i ((sameAs_iff _ r).2 same) fun j hj =>
    Bool.eq_false_iff.2 fun h => before j hj ((sameAs_iff _ r).1 h)
  rw [placeRecord, found]
  exact ⟨_, bankOnly_set l i _, setField16_cnt _ _⟩

section
variable (l : Vector ErrBank 32) (r : ErrRec) (new : ∀ j, ¬ (l.get j).matchesRec r)
include new

theorem findBank_new : findBank l (fun b => b.sameAs r) = none := findBank_none l _ fun j => Bool.eq_false_iff.2 fun h => new j ((sameAs_iff _ r).1 h)

/-- Step 2: a new record takes the lowest free bank. -/
theorem placeRecord_free (i : Fin 32) (free : (l.get i).w0.getLsbD 63 = false) (before : ∀ j, j < i → (l.get j).w0.getLsbD 63 = true) :
    BankOnly l (placeRecord l r) i (recordWords r ((l.get i).w0.extractLsb' 40 16)) := by
  have found : findBank l (fun b => !b.occupied) = some i := findBank_first l _ i (by rw [ErrBank.occupied, free]; rfl) fun j hj => by
    rw [ErrBank.occupied, before j hj]; rfl
  rw [placeRecord, findBank_new l r new, found, ← bank_eq_recordWords]
  exact bankOnly_set l i _

/-- Step 3: where every bank is taken, a new record replaces the lowest of the least severe, or is counted there as lost. -/
theorem placeRecord_full (full : ∀ j, (l.get j).w0.getLsbD 63 = true) (i : Fin 32) (least : ∀ j, (l.get i).sev ≤ (l.get j).sev)
    (first : ∀ j, j < i → (l.get i).sev < (l.get j).sev) :
    ((l.get i).sev < r.sev → BankOnly l (placeRecord l r) i (recordWords r ((l.get i).w0.extractLsb' 40 16))) ∧
    (r.sev ≤ (l.get i).sev → ∃ w, BankOnly l (placeRecord l r) i { l.get i with w0 := w } ∧ countAt (l.get i).w0 w 40 (min ((l.get i).ovf + 1) 65535)) := by
  have taken : findBank l (fun b => !b.occupied) = none := findBank_none l _ fun j => by rw [ErrBank.occupied, full j]; rfl
  simp only [placeRecord, findBank_new l r new, taken, lowestBank_eq l i least first]
  refine ⟨fun worse => ?_, fun lesser => ?_⟩
  · rw [if_pos worse, ← bank_eq_recordWords]
    exact bankOnly_set l i _
  · rw [if_neg (Nat.not_lt.2 lesser)]
    exact ⟨_, bankOnly_set l i _, setField16_ovf _ _⟩

end

/-! ### The steps -/

theorem exec_errorRecordPlace (s : State) : exec .errorRecordPlace s = execErrorRecordPlace s := rfl
theorem exec_errorBankClear (s : State) : exec .errorBankClear s = execErrorBankClear s := rfl
theorem exec_patrolScrub (s : State) : exec .patrolScrub s = execPatrolScrub s := rfl

theorem errorRecordPlace_places (s : State) (r : ErrRec) (rest : List ErrRec) (h : s.hk.recs = r :: rest) :
    exec .errorRecordPlace s = .next { s with hk := Hsk.hinted { s.hk with recs := rest, banks := placeRecord s.hk.banks r } 1 } := by
  rw [exec_errorRecordPlace, execErrorRecordPlace, h]
  exact congrArg (fun g => (.next { s with hk := g } : Out)) (hintBit_eq_hinted _ 1)

theorem clear_eq (b : ErrBank) : b.clear = { w0 := wordOf [(40, (b.w0.extractLsb' 40 16).toNat)], w1 := 0, w2 := 0, w3 := 0 } := by
  rw [wordOf_cons, wordOf_nil, BitVec.add_zero]
  rfl

/-- R406: only a write with bit 63 set clears the bank. -/
theorem errorBankClear_clears (s : State) (i : Fin 32) (hi : s.cur.k = i.val) :
    (s.cur.v.getLsbD 63 = false → exec .errorBankClear s = .next s) ∧
    (s.cur.v.getLsbD 63 = true → exec .errorBankClear s = .next { s with hk := { s.hk with banks := s.hk.banks.set i (s.hk.banks.get i).clear } }) := by
  have bank : s.cur.k % 32 = i.val := by omega
  rw [exec_errorBankClear]
  refine ⟨fun h => if_neg (by rw [h]; decide), fun h => (if_pos h).trans ?_⟩
  simp only [bank, State.modHk]

/-- R96: a scrub rewrites a block with a correctable error on an active stack, and no other. -/
theorem patrolScrub_repairs (s : State) :
    let active := s.cur.k < 2 ^ 33 ∧ (s.hk.envelope = 2 → stackOf (s.cur.k * 64) < 4)
    (¬ active ∨ (s.mem.block s.cur.k).ce = false → exec .patrolScrub s = .next s) ∧
    (active → (s.mem.block s.cur.k).ce = true → exec .patrolScrub s =
      .next ({ s with mem := s.mem.putBlock s.cur.k { s.mem.block s.cur.k with ce := false } }.addRec
        (memRec 0x01 1 8 0 (s.cur.k * 64) (Config.syndrome 8 s.cur.k)))) := by
  intro active
  have skips : (s.cur.k ≥ 2 ^ 33 || (s.hk.envelope = 2 && stackOf (s.cur.k * 64) ≥ 4) || !(s.mem.block s.cur.k).ce) = true ↔
      ¬ active ∨ (s.mem.block s.cur.k).ce = false := by
    simp only [active, Bool.or_eq_true, Bool.and_eq_true, decide_eq_true_eq, Bool.not_eq_true', not_and_or, Classical.not_imp, Nat.not_lt]
  rw [exec_patrolScrub]
  refine ⟨fun h => if_pos (skips.2 h), fun ha hc => if_neg fun h => ?_⟩
  rcases skips.1 h with h | h
  · exact h ha
  · rw [hc] at h
    exact Bool.noConfusion h

theorem block_putBlock (m : Mem) (b j : Nat) (v : Block) : (m.putBlock b v).block j = if j = b then v else m.block j := by
  unfold Mem.block Mem.putBlock
  split
  · next h => rw [h, mrd_mwr_self]
  · next h => exact mrd_mwr_other _ _ _ _ _ _ h

/-- Settles O53: the banks of the error records, their clearing, and the scrub. -/
theorem recordsAreKeptInBanks : Obligations.RecordsAreKeptInBanks := by
  unfold Obligations.RecordsAreKeptInBanks
  intro s
  refine ⟨fun none => ?_, fun r rest first => ?_, fun i hi => ?_, ?_, rfl, rfl, rfl⟩
  · rw [exec_errorRecordPlace, execErrorRecordPlace, none]
  · exact ⟨placeRecord s.hk.banks r, errorRecordPlace_places s r rest first, placeRecord_counts s.hk.banks r,
      fun new => ⟨placeRecord_free s.hk.banks r new, placeRecord_full s.hk.banks r new⟩⟩
  · obtain ⟨keeps, clears⟩ := errorBankClear_clears s i hi
    exact ⟨keeps, fun h => ⟨_, clears h, (clear_eq _) ▸ bankOnly_set s.hk.banks i _⟩⟩
  · obtain ⟨skips, repairs⟩ := patrolScrub_repairs s
    refine ⟨skips, fun active ce => ⟨_, _, repairs active ce, ?_, fun j hj => ?_, rfl, rfl, rfl, rfl, rfl, ?_⟩⟩
    · rw [block_putBlock, if_pos rfl]
    · rw [block_putBlock, if_neg hj]
    · show BitVec.ofNat 64 (0 * 2 ^ 52 + s.cur.k * 64) = _
      rw [Nat.zero_mul, Nat.zero_add]

end Sys2Proof.Scope
end

section
/-! Sets of Canopy: which way holds a line, which way a fill takes, and what an update of a set leaves (R81 to R83). -/

namespace Sys2Proof.Scope

open Sys2Proof Sys2Proof.Machine

/-! ### The ways of a set -/

/-- Whether a way holds a line of a home. -/
def isLine (home a : Nat) : Way → Bool
  | .held l => l.home = home && l.line = a
  | _ => false

theorem find_eq (c : CSet) (home a : Nat) : c.find home a = c.ways.findIdx? (isLine home a) := rfl

theorem isLine_iff (home a : Nat) (x : Way) : isLine home a x = true ↔ ∃ l, x = .held l ∧ l.home = home ∧ l.line = a := by
  cases x <;> simp [isLine]

/-- The way that `find` names: the first that holds the line. -/
theorem find_some_iff (c : CSet) (home a w : Nat) : c.find home a = some w ↔
    (∃ l, c.ways.getD w .invalid = .held l ∧ l.home = home ∧ l.line = a) ∧ ∀ j, j < w → isLine home a (c.ways.getD j .invalid) = false := by
  rw [find_eq, List.findIdx?_eq_some_iff_getElem, ← isLine_iff]
  constructor
  · rintro ⟨lt, here, before⟩
    refine ⟨by rwa [List.getD_eq_getElem _ _ lt], fun j hj => ?_⟩
    rw [List.getD_eq_getElem _ _ (hj.trans lt)]
    exact Bool.eq_false_iff.2 (before j hj)
  · rintro ⟨here, before⟩
    have lt : w < c.ways.length := by
      by_contra h
      rw [List.getD_eq_default _ _ (Nat.not_lt.1 h)] at here
      exact Bool.noConfusion here
    refine ⟨lt, by rwa [List.getD_eq_getElem _ _ lt] at here, fun j hj => Bool.eq_false_iff.1 ?_⟩
    have h := before j hj
    rwa [List.getD_eq_getElem _ _ (hj.trans lt)] at h

theorem find_lt {c : CSet} {home a w : Nat} (h : c.find home a = some w) : w < c.ways.length := by
  rw [find_eq, List.findIdx?_eq_some_iff_getElem] at h
  exact h.1

theorem find_none_iff (c : CSet) (home a : Nat) : c.find home a = none ↔ ∀ j, isLine home a (c.ways.getD j .invalid) = false := by
  rw [find_eq, List.findIdx?_eq_none_iff]
  constructor
  · intro h j
    rcases Nat.lt_or_ge j c.ways.length with lt | ge
    · rw [List.getD_eq_getElem _ _ lt]
      exact h _ (List.getElem_mem lt)
    · rw [List.getD_eq_default _ _ ge]
      rfl
  · intro h x hx
    obtain ⟨j, lt, rfl⟩ := List.getElem_of_mem hx
    rw [← List.getD_eq_getElem _ .invalid lt]
    exact h j

/-! ### The way a fill takes (R83) -/

/-- Where the tree leads, it leads to a way that may be evicted. -/
theorem descend_some {c : CSet} {d i lo w : Nat} (h : c.descend d i lo = some w) :
    w < lo + 2 ^ d ∧ lo ≤ w ∧ (c.ways.getD w .retired).evictable = true := by
  induction d generalizing i lo with
  | zero =>
    unfold CSet.descend at h
    split at h
    · next e =>
      cases h
      exact ⟨Nat.lt_succ_self _, le_rfl, e⟩
    · cases h
  | succ d ih =>
    have half : 2 ^ (d + 1) = 2 ^ d + 2 ^ d := Nat.two_pow_succ d
    have sides : c.descend d (2 * i + 1) lo = some w ∨ c.descend d (2 * i + 2) (lo + 2 ^ d) = some w := by
      unfold CSet.descend at h
      simp only at h
      split at h <;> rcases Option.or_eq_some_iff.1 h with h | ⟨-, h⟩ <;> tauto
    rcases sides with h | h
    · obtain ⟨hi, lo, e⟩ := ih h
      exact ⟨by omega, lo, e⟩
    · obtain ⟨hi, lo, e⟩ := ih h
      exact ⟨by omega, by omega, e⟩

/-- The tree leads nowhere only where no way may be evicted. -/
theorem descend_none {c : CSet} {d i lo : Nat} (h : c.descend d i lo = none) (w : Nat) (hlo : lo ≤ w) (hhi : w < lo + 2 ^ d) :
    (c.ways.getD w .retired).evictable = false := by
  induction d generalizing i lo with
  | zero =>
    obtain rfl : w = lo := by omega
    unfold CSet.descend at h
    split at h
    · cases h
    · next e => exact Bool.eq_false_iff.2 e
  | succ d ih =>
    have half : 2 ^ (d + 1) = 2 ^ d + 2 ^ d := Nat.two_pow_succ d
    have sides : c.descend d (2 * i + 1) lo = none ∧ c.descend d (2 * i + 2) (lo + 2 ^ d) = none := by
      unfold CSet.descend at h
      simp only at h
      split at h <;> simp only [Option.or_eq_none_iff] at h <;> tauto
    rcases Nat.lt_or_ge w (lo + 2 ^ d) with lt | ge
    · exact ih sides.1 hlo lt
    · exact ih sides.2 ge (by omega)

theorem evictable_iff (x : Way) : x.evictable = true ↔ ∃ l, x = .held l ∧ l.home ≠ 14 := by
  cases x <;> simp [Way.evictable]

theorem no_invalid {c : CSet} (h : c.ways.findIdx? (· = Way.invalid) = none) (j : Nat) (lt : j < c.ways.length) : c.ways.getD j .invalid ≠ .invalid := by
  intro hj
  rw [List.getD_eq_getElem _ _ lt] at hj
  exact of_decide_eq_false (List.findIdx?_eq_none_iff.1 h _ (List.getElem_mem lt)) hj

/-- The victim is the lowest invalid way, or, where no way is invalid, one that may be evicted. -/
theorem victim_some {c : CSet} {w : Nat} (h : c.victim = some w) : w < c.ways.length ∧
    ((c.ways.getD w .invalid = .invalid ∧ ∀ j, c.ways.getD j .invalid = .invalid → w ≤ j) ∨
      (∀ j, j < c.ways.length → c.ways.getD j .invalid ≠ .invalid) ∧ ∃ l, c.ways.getD w .invalid = .held l ∧ l.home ≠ 14) := by
  unfold CSet.victim at h
  split at h
  · next v found =>
    obtain rfl := Option.some.inj h
    obtain ⟨lt, here, before⟩ := List.findIdx?_eq_some_iff_getElem.1 found
    refine ⟨lt, .inl ⟨by rw [List.getD_eq_getElem _ _ lt]; exact of_decide_eq_true here, fun j hj => Nat.le_of_not_lt fun hlt => ?_⟩⟩
    rw [List.getD_eq_getElem _ _ (hlt.trans lt)] at hj
    exact before j hlt (decide_eq_true hj)
  · next none =>
    obtain ⟨-, -, e⟩ := descend_some h
    have lt : w < c.ways.length := by
      by_contra ge
      rw [List.getD_eq_default _ _ (Nat.not_lt.1 ge)] at e
      exact Bool.noConfusion e
    rw [List.getD_eq_getElem _ _ lt, evictable_iff] at e
    exact ⟨lt, .inr ⟨no_invalid none, by rwa [List.getD_eq_getElem _ _ lt]⟩⟩

/-- A set without a victim has no invalid way, and none of its sixteen ways may be evicted. -/
theorem victim_none {c : CSet} (h : c.victim = none) :
    (∀ j, j < c.ways.length → c.ways.getD j .invalid ≠ .invalid) ∧ ∀ j, j < 16 → (c.ways.getD j .retired).evictable = false := by
  unfold CSet.victim at h
  split at h
  · cases h
  · next none => exact ⟨no_invalid none, fun j lt => descend_none h j (Nat.zero_le j) lt⟩

@[simp] theorem touch_ways (c : CSet) (w : Nat) : (c.touch w).ways = c.ways := rfl

theorem getD_set_ways (l : List Way) (w j : Nat) (x : Way) (h : w < l.length) :
    (List.set l w x).getD j .invalid = if j = w then x else l.getD j .invalid := by
  rcases eq_or_ne j w with rfl | ne
  · rw [if_pos rfl, List.getD_eq_getElem _ _ (by simpa using h), List.getElem_set_self]
  · rw [if_neg ne, List.getD_eq_getElem?_getD, List.getD_eq_getElem?_getD, List.getElem?_set_ne ne.symm]

/-! ### One set of the memory -/

theorem set_putSet (m : Mem) (n j : Nat) (c : CSet) : (m.putSet n c).set j = if j = n then c else m.set j := by
  unfold Mem.set Mem.putSet
  split
  · next h => rw [h, mrd_mwr_self]
  · next h => exact mrd_mwr_other _ _ _ _ _ _ h

@[simp] theorem set_putSet_self (m : Mem) (n : Nat) (c : CSet) : (m.putSet n c).set n = c := by rw [set_putSet, if_pos rfl]

end Sys2Proof.Scope
end

section
/-! Blocks and lines of home 0 as the stacks hold them (R83, R85, R97 to R100): what a read of them changes, and what a write-back leaves. -/

namespace Sys2Proof.Scope

open Sys2Proof Sys2Proof.Machine

/-! ### Reads of blocks and lines -/

/-- All that may differ is marks of blocks that a read corrects: what a read gives under any key is as it was. -/
structure SameBlocks (m m' : Mem) : Prop where
  canopy : m'.canopy = m.canopy
  hbm : m'.hbm = m.hbm
  keys : m'.keys = m.keys
  ext : m'.ext = m.ext
  block : ∀ b, (m'.block b).key = (m.block b).key ∧ (m'.block b).written = (m.block b).written

theorem SameBlocks.refl (m : Mem) : SameBlocks m m := ⟨rfl, rfl, rfl, rfl, fun _ => ⟨rfl, rfl⟩⟩

theorem SameBlocks.trans {m m' m'' : Mem} (h : SameBlocks m m') (h' : SameBlocks m' m'') : SameBlocks m m'' :=
  ⟨h'.canopy.trans h.canopy, h'.hbm.trans h.hbm, h'.keys.trans h.keys, h'.ext.trans h.ext,
    fun b => ⟨(h'.block b).1.trans (h.block b).1, (h'.block b).2.trans (h.block b).2⟩⟩

theorem SameBlocks.putBlock (m : Mem) (b : Nat) (v : Block) (key : v.key = (m.block b).key) (written : v.written = (m.block b).written) :
    SameBlocks m (m.putBlock b v) := by
  refine ⟨rfl, rfl, rfl, rfl, fun j => ?_⟩
  rw [block_putBlock]
  split
  · next h => exact ⟨h ▸ key, h ▸ written⟩
  · exact ⟨rfl, rfl⟩

theorem set_congr {m m' : Mem} (h : m'.canopy = m.canopy) (n : Nat) : m'.set n = m.set n := by rw [Mem.set, h, Mem.set]

/-- The bytes of a block as a read under a key gives them (R98, R99). -/
def blockData (m : Mem) (b key : Nat) : List Byte :=
  if (m.block b).key = m.fullKey key || !(m.block b).written then rdBytes m.hbm (b * 64) 64
  else crossKey (m.block b).key (m.fullKey key) b (rdBytes m.hbm (b * 64) 64)

/-- The data of a line as a read under a key gives it. -/
def lineData (m : Mem) (a key : Nat) : BitVec 1024 := BitVec.ofNat 1024 (leNat (blockData m (2 * a) key ++ blockData m (2 * a + 1) key))

theorem blockData_same {m m' : Mem} (h : SameBlocks m m') (b key : Nat) : blockData m' b key = blockData m b key := by
  obtain ⟨hk, hw⟩ := h.block b
  rw [blockData, blockData, hk, hw, h.hbm, Mem.fullKey, h.keys, Mem.fullKey]

theorem lineData_same {m m' : Mem} (h : SameBlocks m m') (a key : Nat) : lineData m' a key = lineData m a key := by
  rw [lineData, lineData, blockData_same h, blockData_same h]

theorem loadBlock_data (m : Mem) (b key cls : Nat) : (m.loadBlock b key cls).1 = blockData m b key := by
  simp only [Mem.loadBlock, apply_ite Prod.fst, ite_self]
  rfl

theorem loadBlock_same (m : Mem) (b key cls : Nat) : SameBlocks m (m.loadBlock b key cls).2.2.1 := by
  have fixed : SameBlocks m (if !(m.block b).ce then m
      else if cls = 3 then m.putBlock b { m.block b with ce := false, integ := none, encoded := false }
      else m.putBlock b { m.block b with ce := false }) := by
    split
    · exact SameBlocks.refl m
    · split <;> exact SameBlocks.putBlock m b _ rfl rfl
  simp only [Mem.loadBlock, apply_ite Prod.fst, apply_ite Prod.snd, ite_self]
  exact fixed

theorem loadLine_same (m : Mem) (a key cls : Nat) : SameBlocks m (m.loadLine a key cls).2.1 :=
  (loadBlock_same m (2 * a) key cls).trans (loadBlock_same _ (2 * a + 1) key cls)

theorem loadLine_line (m : Mem) (a key cls : Nat) :
    (m.loadLine a key cls).1.home = 0 ∧ (m.loadLine a key cls).1.line = a ∧ (m.loadLine a key cls).1.key = key ∧ (m.loadLine a key cls).1.ue = 0 :=
  ⟨rfl, rfl, rfl, rfl⟩

theorem loadLine_data (m : Mem) (a key cls : Nat) : (m.loadLine a key cls).1.data = lineData m a key := by
  have first := loadBlock_data m (2 * a) key cls
  have second := loadBlock_data (m.loadBlock (2 * a) key cls).2.2.1 (2 * a + 1) key cls
  rw [blockData_same (loadBlock_same m (2 * a) key cls)] at second
  rw [lineData, ← first, ← second]
  rfl

/-! ### Write-backs -/

/-- All that may differ is the stacks: their bytes and what is known of their blocks. -/
structure SameButStacks (m m' : Mem) : Prop where
  canopy : m'.canopy = m.canopy
  keys : m'.keys = m.keys
  ext : m'.ext = m.ext

theorem writeBack_frame (m : Mem) (l : CLine) : SameButStacks m (m.writeBack l).1 := by
  unfold Mem.writeBack
  split <;> exact ⟨rfl, rfl, rfl⟩

theorem rdBytes_wrBytes_other (m : Memory) (a b n : Nat) (l : List Byte) (apart : b + n ≤ a ∨ a + l.length ≤ b) : rdBytes (wrBytes m a l) b n = rdBytes m b n := by
  refine List.map_congr_left fun i hi => mrd_wrBytes_other m a (b + i) l ?_
  have := List.mem_range.1 hi
  omega

theorem storeBlock_block (m : Mem) (b j key cls : Nat) (data : List Byte) (p e : Bool) (h : j ≠ b) : (m.storeBlock b key cls data p e).block j = m.block j := by
  rw [Mem.storeBlock, block_putBlock, if_neg h]
  rfl

/-- A block written is read under the same key as it was written. -/
theorem blockData_storeBlock (m : Mem) (b key cls : Nat) (data : List Byte) (p e : Bool) (len : data.length = 64) :
    blockData (m.storeBlock b key cls data p e) b key = data := by
  have wrote : ((m.storeBlock b key cls data p e).block b).key = (m.storeBlock b key cls data p e).fullKey key := by
    rw [Mem.storeBlock, block_putBlock, if_pos rfl]
    rfl
  rw [blockData, if_pos (by rw [decide_eq_true wrote, Bool.true_or])]
  have read := rdBytes_wrBytes m.hbm (b * 64) data
  rwa [len] at read

theorem blockData_storeBlock_other (m : Mem) (b j key key' cls : Nat) (data : List Byte) (p e : Bool) (len : data.length = 64) (ne : j ≠ b) :
    blockData (m.storeBlock b key cls data p e) j key' = blockData m j key' := by
  have read : rdBytes (m.storeBlock b key cls data p e).hbm (j * 64) 64 = rdBytes m.hbm (j * 64) 64 :=
    rdBytes_wrBytes_other m.hbm (b * 64) (j * 64) 64 data (by omega)
  rw [blockData, storeBlock_block m b j key cls data p e ne, read]
  rfl

theorem leNat_leBytes_toNat {n : Nat} (v : BitVec (8 * n)) : leNat (leBytes n v.toNat) = v.toNat :=
  leNat_leBytes n _ (v.isLt.trans_eq (Nat.pow_mul 2 8 n))

theorem leNat_bytes (l : CLine) : BitVec.ofNat 1024 (leNat l.bytes) = l.data := by
  rw [CLine.bytes, leNat_leBytes_toNat (n := 128) l.data, BitVec.ofNat_toNat, BitVec.setWidth_eq]

/-- A dirty line written back is read again under its key as it was. -/
theorem lineData_writeBack (m : Mem) (l : CLine) (dirty : l.dirty = true) : lineData (m.writeBack l).1 l.line l.key = l.data := by
  have len : l.bytes.length = 128 := leBytes_length 128 _
  have low : (l.bytes.take 64).length = 64 := by rw [List.length_take, len]; rfl
  have high : (l.bytes.drop 64).length = 64 := by rw [List.length_drop, len]
  rw [Mem.writeBack, if_pos dirty, lineData, blockData_storeBlock_other _ _ _ _ _ _ _ _ _ high (by omega), blockData_storeBlock _ _ _ _ _ _ _ low,
    blockData_storeBlock _ _ _ _ _ _ _ high, List.take_append_drop, leNat_bytes]

end Sys2Proof.Scope
end

section
/-! The fetch of a line to Canopy (R83, R85, R86): what it leaves held, and what a later fetch then gives. -/

namespace Sys2Proof.Scope

open Sys2Proof Sys2Proof.Machine

/-! ### A line that is held -/

/-- Way w of its set is the one that holds line a of a home, as l, without an uncorrectable error and under the key of the access. -/
structure HeldAt (m : Mem) (home a key w : Nat) (l : CLine) : Prop where
  found : (m.set (setOf a)).find home a = some w
  way : (m.set (setOf a)).ways.getD w .invalid = .held l
  sameHome : l.home = home
  sameLine : l.line = a
  clean : l.ue = 0
  sameKey : home = 14 ∨ l.key = key

theorem HeldAt.touch {m : Mem} {home a key w : Nat} {l : CLine} (h : HeldAt m home a key w l) (v : Nat) :
    HeldAt (m.putSet (setOf a) ((m.set (setOf a)).touch v)) home a key w l := by
  refine ⟨?_, ?_, h.sameHome, h.sameLine, h.clean, h.sameKey⟩ <;> rw [set_putSet_self]
  · exact h.found
  · exact h.way

/-- A set in which a line stands in a way before which none holds it, as an update of that way leaves it, holds the line there. -/
theorem HeldAt.putSet (m : Mem) (c : CSet) (key w : Nat) (l : CLine) (ways : c.ways = List.set (m.set (setOf l.line)).ways w (.held l))
    (lt : w < (m.set (setOf l.line)).ways.length) (first : ∀ j, j < w → isLine l.home l.line ((m.set (setOf l.line)).ways.getD j .invalid) = false)
    (ue : l.ue = 0) (hk : l.home = 14 ∨ l.key = key) : HeldAt (m.putSet (setOf l.line) c) l.home l.line key w l := by
  have way : ∀ j, c.ways.getD j .invalid = if j = w then .held l else (m.set (setOf l.line)).ways.getD j .invalid := fun j => by
    rw [ways, getD_set_ways _ _ _ _ lt]
  refine ⟨?_, ?_, rfl, rfl, ue, hk⟩ <;> rw [set_putSet_self]
  · refine (find_some_iff _ _ _ _).2 ⟨⟨l, (way w).trans (if_pos rfl), rfl, rfl⟩, fun j hj => ?_⟩
    rw [way, if_neg hj.ne]
    exact first j hj
  · exact (way w).trans (if_pos rfl)

theorem HeldAt.putWay (m : Mem) (key w : Nat) (l : CLine) (lt : w < (m.set (setOf l.line)).ways.length)
    (first : ∀ j, j < w → isLine l.home l.line ((m.set (setOf l.line)).ways.getD j .invalid) = false) (ue : l.ue = 0) (hk : l.home = 14 ∨ l.key = key) :
    HeldAt (m.putWay (setOf l.line) w (.held l)) l.home l.line key w l := HeldAt.putSet m _ key w l rfl lt first ue hk

/-- Other contents put into the way of a line that is held are held there. -/
theorem HeldAt.replace {m : Mem} {home a key w : Nat} {l : CLine} (h : HeldAt m home a key w l) (x : CLine) (sameHome : x.home = l.home)
    (sameLine : x.line = l.line) (sameKey : x.key = l.key) (ue : x.ue = l.ue) : HeldAt (m.putWay (setOf a) w (.held x)) home a key w x := by
  obtain ⟨-, before⟩ := (find_some_iff _ _ _ _).1 h.found
  have hx : x.home = home := sameHome.trans h.sameHome
  obtain rfl : x.line = a := sameLine.trans h.sameLine
  rw [← hx] at before ⊢
  exact HeldAt.putWay m key w x (find_lt h.found) before (ue.trans h.clean) (by rw [hx, sameKey]; exact h.sameKey)

theorem HeldAt.gladeLine {m : Mem} {home a key w : Nat} {l : CLine} (h : HeldAt m home a key w l) (glade : home = 14) : m.gladeLine a = true := by
  have found := h.found
  rw [glade] at found
  exact congrArg Option.isSome found

/-- A fetch of a line that is held gives it as it is. -/
theorem HeldAt.fetch {m : Mem} {home a key w : Nat} {l : CLine} (h : HeldAt m home a key w l) (cls : Nat) :
    m.fetch home a key cls = (l, some w, m.putSet (setOf a) ((m.set (setOf a)).touch w), []) := by
  have ours : (home = 14 || l.key = key) = true := by simpa using h.sameKey
  simp only [Mem.fetch, h.found, Option.bind_some, h.way, ours, if_true, Mem.scrubHit, h.clean]

/-! ### Lines placed and filled (R83) -/

theorem place_none {m : Mem} {l : CLine} (h : (m.set (setOf l.line)).victim = none) : m.place l = (none, m, []) := by rw [Mem.place, h]

theorem cleanWay_frame (m : Mem) (n w : Nat) : SameButStacks m (m.cleanWay n w).1 := by
  unfold Mem.cleanWay
  split
  · exact writeBack_frame m _
  · exact ⟨rfl, rfl, rfl⟩

theorem place_some {m : Mem} {l : CLine} {w : Nat} (h : (m.set (setOf l.line)).victim = some w)
    (first : ∀ j, j < w → isLine l.home l.line ((m.set (setOf l.line)).ways.getD j .invalid) = false) (ue : l.ue = 0) :
    (m.place l).1 = some w ∧ HeldAt (m.place l).2.1 l.home l.line l.key w l := by
  obtain ⟨lt, -⟩ := victim_some h
  have same := set_congr (cleanWay_frame m (setOf l.line) w).canopy (setOf l.line)
  rw [Mem.place, h]
  refine ⟨rfl, HeldAt.touch (HeldAt.putWay _ l.key w l ?_ ?_ ue (.inr rfl)) w⟩ <;> rw [same]
  · exact lt
  · exact first

/-- No way before the victim of its set holds the line, where it has one. -/
def Vacant (m : Mem) (a : Nat) : Prop :=
  ∀ w, (m.set (setOf a)).victim = some w → ∀ j, j < w → isLine 0 a ((m.set (setOf a)).ways.getD j .invalid) = false

/-- What a fill delivers, with other records. -/
def delivers (x : CLine × Option Nat × Mem × List ErrRec) (r : List ErrRec) : CLine × Option Nat × Mem × List ErrRec := (x.1, x.2.1, x.2.2.1, r)

/-- A fill places what a read of memory gives. -/
theorem fill_places (m : Mem) (a key cls : Nat) :
    ∃ r, m.fill a key cls = ((m.loadLine a key cls).1, ((m.loadLine a key cls).2.1.place (m.loadLine a key cls).1).1,
      ((m.loadLine a key cls).2.1.place (m.loadLine a key cls).1).2.1, r) := by
  rw [Mem.fill]
  generalize m.loadLine a key cls = x
  exact ⟨_, rfl⟩

/-- A fill gives the line as memory has it; the line is held, unless its set has no victim. -/
theorem fill_gives (m : Mem) (a key cls : Nat) (vacant : Vacant m a) :
    let r := m.fill a key cls
    r.1.data = lineData m a key ∧
    ((∃ w, r.2.1 = some w ∧ HeldAt r.2.2.1 0 a key w r.1) ∨ (m.set (setOf a)).victim = none ∧ r.2.1 = none ∧ SameBlocks m r.2.2.1 ∧ r.1.key = key ∧ r.1.line = a) := by
  intro r
  obtain ⟨recs, places⟩ := fill_places m a key cls
  have read := loadLine_same m a key cls
  have same := set_congr read.canopy (setOf a)
  obtain ⟨sameHome, sameLine, sameKey, clean⟩ := loadLine_line m a key cls
  have data := loadLine_data m a key cls
  generalize hx : m.loadLine a key cls = x at *
  obtain ⟨l, m', rs⟩ := x
  rw [show r = _ from places]
  obtain rfl := sameLine
  obtain rfl := sameKey
  refine ⟨data, ?_⟩
  rcases h : (m.set (setOf l.line)).victim with _ | w
  · rw [place_none (same.symm ▸ h)]
    exact .inr ⟨rfl, rfl, read, rfl, rfl⟩
  · obtain ⟨way, held⟩ := place_some (same.symm ▸ h) (by rw [sameHome, same]; exact vacant w h) clean
    rw [sameHome] at held
    exact .inl ⟨w, way, held⟩

/-- Once the first way that holds a line is made invalid, a fill finds a way. -/
theorem invalidated_vacant {m : Mem} {a w : Nat} (found : (m.set (setOf a)).find 0 a = some w) :
    Vacant (m.putWay (setOf a) w .invalid) a ∧ ((m.putWay (setOf a) w .invalid).set (setOf a)).victim ≠ none := by
  have lt := find_lt found
  obtain ⟨-, before⟩ := (find_some_iff _ _ _ _).1 found
  have ways : ∀ j, ((m.putWay (setOf a) w .invalid).set (setOf a)).ways.getD j .invalid = if j = w then .invalid else (m.set (setOf a)).ways.getD j .invalid :=
    fun j => by rw [Mem.putWay, set_putSet_self, getD_set_ways _ _ _ _ lt]
  have lt' : w < ((m.putWay (setOf a) w .invalid).set (setOf a)).ways.length := by
    rw [Mem.putWay, set_putSet_self]
    exact (List.length_set ..).symm ▸ lt
  refine ⟨fun v hv j hj => ?_, fun h => (victim_none h).1 w lt' ((ways w).trans (if_pos rfl))⟩
  obtain ⟨-, ⟨-, lowest⟩ | ⟨none, -⟩⟩ := victim_some hv
  · have hle : v ≤ w := lowest w ((ways w).trans (if_pos rfl))
    rw [ways, if_neg (by omega)]
    exact before j (by omega)
  · exact absurd ((ways w).trans (if_pos rfl)) (none w lt')

/-! ### Fetches (R83, R85, R86) -/

/-- A fetch that leaves its line in the stacks: it is not held, and its set has no victim. -/
structure PassedBy (m : Mem) (a key : Nat) (r : CLine × Option Nat × Mem × List ErrRec) : Prop where
  absent : (m.set (setOf a)).find 0 a = none
  full : (m.set (setOf a)).victim = none
  noWay : r.2.1 = none
  same : SameBlocks m r.2.2.1
  data : r.1.data = lineData m a key
  sameKey : r.1.key = key
  sameLine : r.1.line = a

/-- A line of home 0, or one of an allocated Glade, which Canopy serves (R84, R89). -/
def Served (m : Mem) (home a : Nat) : Prop := home = 0 ∨ home = 14 ∧ m.gladeLine a = true

theorem fetch_absent {m : Mem} {home a key cls : Nat} (h : (m.set (setOf a)).find home a = none) : m.fetch home a key cls = m.fill a key cls := by
  simp only [Mem.fetch, h, Option.bind_none]

theorem fill_held {m : Mem} {a key cls : Nat} (vacant : Vacant m a) (room : (m.set (setOf a)).victim ≠ none) :
    ∃ w, (m.fill a key cls).2.1 = some w ∧ HeldAt (m.fill a key cls).2.2.1 0 a key w (m.fill a key cls).1 :=
  (fill_gives m a key cls vacant).2.resolve_right fun h => room h.1

/-- A line held under another key is written back and fetched anew (R85). -/
theorem fetch_otherKey {m : Mem} {a key cls w : Nat} {l : CLine} (found : (m.set (setOf a)).find 0 a = some w)
    (way : (m.set (setOf a)).ways.getD w .invalid = .held l) (other : l.key ≠ key) :
    ∃ r, m.fetch 0 a key cls = delivers (((m.writeBack l).1.putWay (setOf a) w .invalid).fill a key cls) r := by
  have miss : ¬ ((0 : Nat) = 14 || l.key = key) = true := by simpa using other
  simp only [Mem.fetch, found, Option.bind_some, way, if_neg miss]
  generalize m.writeBack l = x
  generalize (x.1.putWay (setOf a) w .invalid).fill a key cls = y
  exact ⟨_, rfl⟩

/-- A clean line of home 0 with an uncorrectable error is fetched anew (R86). -/
theorem scrubHit_refetches {m : Mem} {n w : Nat} {l : CLine} (ue : l.ue ≠ 0) (clean : (!l.dirty && l.home = 0) = true) :
    ∃ r, m.scrubHit n w l = delivers ((m.putWay n w .invalid).fill l.line l.key l.cls) r := by
  simp only [Mem.scrubHit, if_neg ue, if_pos clean]
  generalize (m.putWay n w .invalid).fill l.line l.key l.cls = x
  exact ⟨_, rfl⟩

/-- A line found is held after its check for an uncorrectable error, as it was or fetched anew (R86). -/
theorem scrubHit_held {m : Mem} {home a key w : Nat} {l : CLine} (found : (m.set (setOf a)).find home a = some w)
    (way : (m.set (setOf a)).ways.getD w .invalid = .held l) (ours : home = 14 ∨ l.key = key) :
    ∃ v, (m.scrubHit (setOf a) w l).2.1 = some v ∧ HeldAt (m.scrubHit (setOf a) w l).2.2.1 home a key v (m.scrubHit (setOf a) w l).1 := by
  have lt := find_lt found
  obtain ⟨⟨x, here, rfl, rfl⟩, before⟩ := (find_some_iff _ _ _ _).1 found
  obtain rfl : l = x := Way.held.inj (way.symm.trans here)
  by_cases ue : l.ue = 0
  · rw [Mem.scrubHit, if_pos ue]
    exact ⟨w, rfl, found, way, rfl, rfl, ue, ours⟩
  by_cases clean : (!l.dirty && l.home = 0) = true
  · obtain ⟨r, refetch⟩ := scrubHit_refetches (m := m) (n := setOf l.line) (w := w) ue clean
    have home : l.home = 0 := of_decide_eq_true (Bool.and_eq_true_iff.1 clean).2
    rw [home] at found ours ⊢
    obtain rfl : l.key = key := ours.resolve_left (by decide)
    obtain ⟨vacant, room⟩ := invalidated_vacant found
    simp only [refetch, delivers]
    exact fill_held vacant room
  · rw [Mem.scrubHit, if_neg ue, if_neg clean]
    exact ⟨w, rfl, HeldAt.putWay m key w { l with ue := 0, poison := l.poison ||| l.ue } lt before rfl ours⟩

/-- A fetch leaves the line held in the way that it names, unless it passes Canopy by. -/
theorem fetch_gives {m : Mem} {home a : Nat} (key cls : Nat) (served : Served m home a) :
    (∃ w, (m.fetch home a key cls).2.1 = some w ∧ HeldAt (m.fetch home a key cls).2.2.1 home a key w (m.fetch home a key cls).1) ∨
      home = 0 ∧ PassedBy m a key (m.fetch home a key cls) := by
  rcases found : (m.set (setOf a)).find home a with _ | w
  · obtain rfl : home = 0 := served.resolve_right fun h => by
      have glade := h.2
      rw [Mem.gladeLine, ← h.1, found] at glade
      exact Bool.noConfusion glade
    have vacant : Vacant m a := fun w _ j _ => (find_none_iff _ _ _).1 found j
    rw [fetch_absent found]
    obtain ⟨data, held | ⟨full, noWay, same, sameKey, sameLine⟩⟩ := fill_gives m a key cls vacant
    · exact .inl held
    · exact .inr ⟨rfl, found, full, noWay, same, data, sameKey, sameLine⟩
  · obtain ⟨⟨l, way, sameHome, sameLine⟩, -⟩ := (find_some_iff _ _ _ _).1 found
    refine .inl ?_
    by_cases ours : home = 14 ∨ l.key = key
    · have hit : m.fetch home a key cls = (m.putSet (setOf a) ((m.set (setOf a)).touch w)).scrubHit (setOf a) w l := by
        simp only [Mem.fetch, found, Option.bind_some, way, if_pos (show (home = 14 || l.key = key) = true by simpa using ours)]
      rw [hit]
      exact scrubHit_held (by rw [set_putSet_self]; exact found) (by rw [set_putSet_self]; exact way) ours
    · obtain rfl : home = 0 := served.resolve_right fun h => ours (.inl h.1)
      obtain ⟨r, miss⟩ := fetch_otherKey (cls := cls) found way (fun h => ours (.inr h))
      have same := set_congr (writeBack_frame m l).canopy (setOf a)
      obtain ⟨vacant, room⟩ := invalidated_vacant (m := (m.writeBack l).1) (a := a) (w := w) (by rw [same]; exact found)
      simp only [miss, delivers]
      exact fill_held vacant room

end Sys2Proof.Scope
end

section
/-! Reads and writes of a line at its home (R84, R104): through Canopy for home 0 and the Glades, in place beyond the device. -/

namespace Sys2Proof.Scope

open Sys2Proof Sys2Proof.Machine

/-! ### Bytes of a line -/

theorem leBytes_leNat (l : List Byte) : leBytes l.length (leNat l) = l := by
  induction l with
  | nil => rfl
  | cons b t ih =>
    have lt := b.isLt
    have head : BitVec.ofNat 8 (b.toNat + 256 * leNat t) = b := BitVec.eq_of_toNat_eq (by rw [BitVec.toNat_ofNat]; omega)
    rw [List.length_cons, leNat, leBytes, head, show (b.toNat + 256 * leNat t) / 256 = leNat t by omega, ih]

theorem leBytes_ofNat_leNat {n width : Nat} (l : List Byte) (len : l.length = n) (fits : width = 8 * n) : leBytes n (BitVec.ofNat width (leNat l)).toNat = l := by
  have lt := leNat_lt l
  rw [BitVec.toNat_ofNat, fits, Nat.pow_mul, show (2 : Nat) ^ 8 = 256 from rfl, ← len, Nat.mod_eq_of_lt lt, leBytes_leNat]

theorem getD_leBytes (n v i : Nat) (h : i < n) : (leBytes n v).getD i 0 = BitVec.ofNat 8 (v / 256 ^ i) := by
  induction n generalizing v i with
  | zero => omega
  | succ n ih =>
    cases i with
    | zero => rw [leBytes, List.getD_cons_zero, Nat.pow_zero, Nat.div_one]
    | succ i => rw [leBytes, List.getD_cons_succ, ih _ _ (by omega), Nat.div_div_eq_div_mul, Nat.pow_succ']

theorem patch_length (line bs : List Byte) (o : Nat) (h : o + bs.length ≤ line.length) : (patch line o bs).length = line.length := by
  simp only [patch, List.length_append, List.length_take, List.length_drop]
  omega

theorem getD_patch (line bs : List Byte) (o i : Nat) (h : o + bs.length ≤ line.length) :
    (patch line o bs).getD i 0 = if o ≤ i ∧ i < o + bs.length then bs.getD (i - o) 0 else line.getD i 0 := by
  have front : (line.take o).length = o := by rw [List.length_take]; omega
  simp only [patch, List.getD_eq_getElem?_getD, List.append_assoc, List.getElem?_append, front, List.getElem?_take, List.getElem?_drop]
  split
  · rw [if_neg (by omega)]
  · split
    · rw [if_pos (by omega)]
    · rw [if_neg (by omega), show o + bs.length + (i - o - bs.length) = i by omega]

/-! ### Reads -/

/-- Accesses of a class to a line that go through Canopy: those to home 0 but class 3, and those to an allocated Glade line (R84, R89). -/
def ThroughCanopy (m : Mem) (home cls a : Nat) : Prop := home = 0 ∧ cls ≠ 3 ∨ home = 14 ∧ m.gladeLine a = true

theorem ThroughCanopy.served {m : Mem} {home cls a : Nat} (h : ThroughCanopy m home cls a) : Served m home a := h.imp_left And.left

theorem readPiece_canopy {m : Mem} {home key cls a : Nat} (h : ThroughCanopy m home cls a) (o l : Nat) (ho : o < 128) :
    (m.readPiece home key cls (a * 128 + o) l).bytes = (((m.fetch home a key cls).1.bytes).drop o).take l := by
  have line : (a * 128 + o) / 128 = a := by omega
  have off : (a * 128 + o) % 128 = o := by omega
  have class3 : ¬ (home = 0 && cls = 3) = true := by rcases h with ⟨-, h⟩ | ⟨h, -⟩ <;> simp [h]
  have absent : ¬ (home = 14 && !m.gladeLine a) = true := by rcases h with ⟨h, -⟩ | ⟨-, h⟩ <;> simp [h]
  have canopy : (home = 0 || home = 14) = true := by rcases h with ⟨h, -⟩ | ⟨h, -⟩ <;> simp [h]
  simp only [Mem.readPiece, line, off, if_neg class3, if_neg absent, if_pos canopy]

theorem readAt_line {m : Mem} {home key cls a : Nat} (h : ThroughCanopy m home cls a) :
    (m.readAt home key cls (a * 128) 128).bytes = (m.fetch home a key cls).1.bytes := by
  have len : (m.fetch home a key cls).1.bytes.length = 128 := leBytes_length 128 _
  rw [Mem.readAt, pieces_one 128 128 (a * 128) 128 (by decide) (by omega), List.foldl_cons, List.foldl_nil]
  refine (List.nil_append _).trans ((readPiece_canopy h 0 128 (by decide)).trans ?_)
  rw [List.drop_zero, ← len, List.take_length]

theorem lineAt_eq {m : Mem} {home cls a : Nat} (h : ThroughCanopy m home cls a) (key o : Nat) :
    m.lineAt home key cls a o = (m.fetch home a key cls).1.bytes.getD o 0 := by
  rw [Mem.lineAt, readAt_line h]

/-- A line not held and without a way is read from the stacks. -/
theorem fetch_full {m : Mem} {a : Nat} (absent : (m.set (setOf a)).find 0 a = none) (full : (m.set (setOf a)).victim = none) (key cls : Nat) :
    (m.fetch 0 a key cls).1.data = lineData m a key := by
  rw [fetch_absent absent]
  exact (fill_gives m a key cls fun w hw => by rw [full] at hw; cases hw).1

/-- A fetch changes nothing of what its line reads as. -/
theorem fetch_again {m : Mem} {home a : Nat} (key cls : Nat) (served : Served m home a) :
    ((m.fetch home a key cls).2.2.1.fetch home a key cls).1.data = (m.fetch home a key cls).1.data := by
  rcases fetch_gives key cls served with ⟨w, -, held⟩ | ⟨rfl, passed⟩
  · rw [held.fetch]
  · have same := set_congr passed.same.canopy (setOf a)
    rw [passed.data, fetch_full (same.symm ▸ passed.absent) (same.symm ▸ passed.full), lineData_same passed.same]

/-! ### Writes -/

/-- A line with bytes of it replaced, as a store leaves it: its marks aside, and dirty where it is of home 0. -/
def stored (l : CLine) (home cls o : Nat) (bs : List Byte) (p : BitVec 2) (e : Bool) : CLine :=
  { l with dirty := home = 0, cls := cls, data := BitVec.ofNat 1024 (leNat (patch l.bytes o bs)), poison := p, enc := e }

theorem stored_bytes (l : CLine) (home cls o : Nat) (bs : List Byte) (p : BitVec 2) (e : Bool) (h : o + bs.length ≤ 128) :
    (stored l home cls o bs p e).bytes = patch l.bytes o bs := by
  have len : l.bytes.length = 128 := leBytes_length 128 _
  exact leBytes_ofNat_leNat _ ((patch_length _ _ _ (by omega)).trans len) rfl

/-- A store to a line fetches it, and leaves it where the fetch left it. -/
theorem writePiece_canopy {m : Mem} {home key cls a o : Nat} (h : ThroughCanopy m home cls a) (bs : List Byte) (poison : Bool) (ho : o < 128) :
    ∃ p e, let r := m.fetch home a key cls
      (∀ w, r.2.1 = some w → (m.writePiece home key cls (a * 128 + o) bs poison).1 =
        r.2.2.1.putWay (setOf a) w (.held (stored r.1 home cls o bs p e))) ∧
      (r.2.1 = none → home = 0 → (m.writePiece home key cls (a * 128 + o) bs poison).1 = (r.2.2.1.writeBack (stored r.1 home cls o bs p e)).1) := by
  have line : (a * 128 + o) / 128 = a := by omega
  have off : (a * 128 + o) % 128 = o := by omega
  have class3 : ¬ (home = 0 && cls = 3) = true := by rcases h with ⟨-, h⟩ | ⟨h, -⟩ <;> simp [h]
  have absent : ¬ (home = 14 && !m.gladeLine a) = true := by rcases h with ⟨h, -⟩ | ⟨-, h⟩ <;> simp [h]
  have canopy : (home = 0 || home = 14) = true := by rcases h with ⟨h, -⟩ | ⟨h, -⟩ <;> simp [h]
  simp only [Mem.writePiece, line, off, if_neg class3, if_neg absent, if_pos canopy]
  generalize m.fetch home a key cls = r
  obtain ⟨l, way, m', rs⟩ := r
  generalize List.foldl _ _ (List.range 2) = p
  refine ⟨p, l.enc && !(o < 64 && (cls ≠ 4 || poison)), ?_, ?_⟩
  · rintro w rfl
    rfl
  · rintro rfl zero
    simp only [if_pos zero]
    rfl

/-- After a store to a line, the line is read with the stored bytes in place. -/
theorem writePiece_line {m : Mem} {home key cls a o : Nat} (h : ThroughCanopy m home cls a) (bs : List Byte) (poison : Bool) (pos : 0 < bs.length)
    (inside : o + bs.length ≤ 128) :
    let m' := (m.writePiece home key cls (a * 128 + o) bs poison).1
    ThroughCanopy m' home cls a ∧ (m'.fetch home a key cls).1.bytes = patch (m.fetch home a key cls).1.bytes o bs := by
  intro m'
  obtain ⟨p, e, hit, pass⟩ := writePiece_canopy (key := key) h bs poison (show o < 128 by omega)
  have bytes := stored_bytes (m.fetch home a key cls).1 home cls o bs p e inside
  rcases fetch_gives key cls h.served with ⟨w, way, held⟩ | ⟨rfl, passed⟩
  · have mem : m' = _ := hit w way
    have still : HeldAt m' home a key w (stored (m.fetch home a key cls).1 home cls o bs p e) :=
      mem ▸ held.replace (stored (m.fetch home a key cls).1 home cls o bs p e) rfl rfl rfl rfl
    refine ⟨h.imp_right fun glade => ⟨glade.1, still.gladeLine glade.1⟩, ?_⟩
    · rw [still.fetch]
      exact bytes
  · have mem : m' = _ := pass passed.noWay rfl
    have same : m'.set (setOf a) = m.set (setOf a) := by
      rw [mem]
      exact (set_congr (writeBack_frame _ _).canopy _).trans (set_congr passed.same.canopy _)
    have data : lineData m' a key = (stored (m.fetch 0 a key cls).1 0 cls o bs p e).data := by
      rw [mem]
      have back := lineData_writeBack (m.fetch 0 a key cls).2.2.1 (stored (m.fetch 0 a key cls).1 0 cls o bs p e) rfl
      rwa [show (stored (m.fetch 0 a key cls).1 0 cls o bs p e).line = a from passed.sameLine,
        show (stored (m.fetch 0 a key cls).1 0 cls o bs p e).key = key from passed.sameKey] at back
    refine ⟨.inl (h.resolve_right fun h => by cases h.1), ?_⟩
    rw [CLine.bytes, fetch_full (same.symm ▸ passed.absent) (same.symm ▸ passed.full), data]
    exact bytes

end Sys2Proof.Scope
end

section
/-! The write-back of an L1 line (R106, R117): which bytes it writes, and what the line then reads as. -/

namespace Sys2Proof.Scope

open Sys2Proof Sys2Proof.Machine

/-! ### Runs of dirty bytes -/

/-- Whether one of some runs, each an offset and a length, has an offset in it. -/
def Covers (l : List (Nat × Nat)) (i : Nat) : Prop := ∃ p ∈ l, p.1 ≤ i ∧ i < p.1 + p.2

theorem covers_cons (p : Nat × Nat) (l : List (Nat × Nat)) (i : Nat) : Covers (p :: l) i ↔ (p.1 ≤ i ∧ i < p.1 + p.2) ∨ Covers l i := by simp [Covers]

theorem not_covers_nil (i : Nat) : ¬ Covers [] i := fun ⟨_, hp, _⟩ => List.not_mem_nil hp

/-- One bit of a mask taken into the runs found so far, the last run first. -/
def runStep (m : BitVec 128) (acc : List (Nat × Nat)) (i : Nat) : List (Nat × Nat) :=
  if m.getLsbD i then
    match acc with
    | (o, n) :: t => if o + n = i then (o, n + 1) :: t else (i, 1) :: acc
    | [] => [(i, 1)]
  else acc

theorem maskRuns_eq (m : BitVec 128) : maskRuns m = ((List.range 128).foldl (runStep m) []).reverse := rfl

theorem runStep_covers (m : BitVec 128) (acc : List (Nat × Nat)) (n : Nat) (inside : ∀ r ∈ acc, r.1 + r.2 ≤ n) :
    (∀ r ∈ runStep m acc n, r.1 + r.2 ≤ n + 1) ∧ ∀ i, Covers (runStep m acc n) i ↔ Covers acc i ∨ i = n ∧ m.getLsbD n = true := by
  have grow : ∀ r ∈ acc, r.1 + r.2 ≤ n + 1 := fun r hr => (inside r hr).trans (Nat.le_succ n)
  by_cases bit : m.getLsbD n = true
  · have fresh : (∀ r ∈ (n, 1) :: acc, r.1 + r.2 ≤ n + 1) ∧ ∀ i, Covers ((n, 1) :: acc) i ↔ Covers acc i ∨ i = n := by
      refine ⟨fun r hr => ?_, fun i => ?_⟩
      · rcases List.mem_cons.1 hr with rfl | hr
        · exact le_rfl
        · exact grow r hr
      · rw [covers_cons, or_comm]
        exact or_congr_right (by omega)
    simp only [runStep, bit, if_true, and_true]
    rcases acc with _ | ⟨⟨o, k⟩, t⟩
    · exact fresh
    · by_cases adjacent : o + k = n
      · simp only [if_pos adjacent]
        refine ⟨fun r hr => ?_, fun i => ?_⟩
        · rcases List.mem_cons.1 hr with rfl | hr
          · show o + (k + 1) ≤ n + 1
            omega
          · exact grow r (List.mem_cons_of_mem _ hr)
        · rw [covers_cons, covers_cons, or_right_comm]
          exact or_congr_left (by simp only; omega)
      · simp only [if_neg adjacent]
        exact fresh
  · rw [show runStep m acc n = acc from if_neg bit]
    exact ⟨grow, fun i => (or_iff_left fun h => bit h.2).symm⟩

theorem runs_cover (m : BitVec 128) (n : Nat) :
    (∀ r ∈ (List.range n).foldl (runStep m) [], r.1 + r.2 ≤ n) ∧ ∀ i, Covers ((List.range n).foldl (runStep m) []) i ↔ i < n ∧ m.getLsbD i = true := by
  induction n with
  | zero => exact ⟨fun r hr => absurd hr List.not_mem_nil, fun i => iff_of_false (not_covers_nil i) fun h => Nat.not_lt_zero i h.1⟩
  | succ n ih =>
    obtain ⟨inside, covers⟩ := ih
    obtain ⟨inside', covers'⟩ := runStep_covers m _ n inside
    rw [List.range_succ, List.foldl_append, List.foldl_cons, List.foldl_nil]
    refine ⟨inside', fun i => ?_⟩
    rw [covers', covers]
    constructor
    · rintro (⟨lt, bit⟩ | ⟨rfl, bit⟩)
      · exact ⟨Nat.lt_succ_of_lt lt, bit⟩
      · exact ⟨Nat.lt_succ_self _, bit⟩
    · rintro ⟨lt, bit⟩
      rcases Nat.lt_succ_iff_lt_or_eq.1 lt with lt | rfl
      · exact .inl ⟨lt, bit⟩
      · exact .inr ⟨rfl, bit⟩

/-- The pieces of a run within the 64-byte blocks of a line cover it. -/
theorem blocks_cover (fuel a n : Nat) (enough : n = 0 ∨ n + a % 64 ≤ 64 * fuel) :
    (∀ p ∈ pieces 64 fuel a n, 0 < p.2 ∧ p.1 + p.2 ≤ a + n) ∧ ∀ i, Covers (pieces 64 fuel a n) i ↔ a ≤ i ∧ i < a + n := by
  induction fuel generalizing a n with
  | zero =>
    obtain rfl : n = 0 := by omega
    exact ⟨fun p hp => absurd hp List.not_mem_nil, fun i => iff_of_false (not_covers_nil i) (by omega)⟩
  | succ fuel ih =>
    unfold pieces
    split
    · exact ⟨fun p hp => absurd hp List.not_mem_nil, fun i => iff_of_false (not_covers_nil i) (by omega)⟩
    · simp only
      obtain ⟨k, hk, cut⟩ : ∃ k, min n (64 - a % 64) = k ∧ 0 < k ∧ k ≤ n ∧ (k = n ∨ k = 64 - a % 64) := ⟨_, rfl, by omega⟩
      rw [hk]
      obtain ⟨inside, covers⟩ := ih (a + k) (n - k) (by omega)
      refine ⟨fun p hp => ?_, fun i => ?_⟩
      · rcases List.mem_cons.1 hp with rfl | hp
        · simp only
          omega
        · have := inside p hp
          omega
      · rw [covers_cons, covers]
        simp only
        omega

/-- The pieces in which the dirty bytes of a line are written. -/
def dirtyPieces (m : BitVec 128) : List (Nat × Nat) := (maskRuns m).flatMap fun r => pieces 64 4 r.1 r.2

theorem dirtyPieces_cover (m : BitVec 128) :
    (∀ p ∈ dirtyPieces m, 0 < p.2 ∧ p.1 + p.2 ≤ 128) ∧ ∀ i, i < 128 → (Covers (dirtyPieces m) i ↔ m.getLsbD i = true) := by
  obtain ⟨inside, covers⟩ := runs_cover m 128
  have runs : ∀ r, r ∈ maskRuns m ↔ r ∈ (List.range 128).foldl (runStep m) [] := fun r => by rw [maskRuns_eq, List.mem_reverse]
  have blocks := fun r (hr : r ∈ maskRuns m) => blocks_cover 4 r.1 r.2 (by have := inside r ((runs r).1 hr); omega)
  refine ⟨fun p hp => ?_, fun i hi => ?_⟩
  · obtain ⟨r, hr, hp⟩ := List.mem_flatMap.1 hp
    obtain ⟨pos, le⟩ := (blocks r hr).1 p hp
    exact ⟨pos, le.trans (inside r ((runs r).1 hr))⟩
  · constructor
    · rintro ⟨p, hp, hit⟩
      obtain ⟨r, hr, hp⟩ := List.mem_flatMap.1 hp
      exact ((covers i).1 ⟨r, (runs r).1 hr, ((blocks r hr).2 i).1 ⟨p, hp, hit⟩⟩).2
    · intro bit
      obtain ⟨r, hr, hit⟩ := (covers i).2 ⟨hi, bit⟩
      have hr := (runs r).2 hr
      obtain ⟨p, hp, hit⟩ := ((blocks r hr).2 i).2 hit
      exact ⟨p, List.mem_flatMap.2 ⟨r, hr, hp⟩, hit⟩

/-! ### Writes of pieces -/

/-- Pieces written from one source leave its bytes where they cover, and what was there elsewhere. -/
theorem foldl_writes {P : Mem → Prop} {f : Mem → Nat → Byte} {src : Nat → Byte} (write : Mem → Nat × Nat → Mem) (l : List (Nat × Nat))
    (writes : ∀ m, ∀ p ∈ l, P m → P (write m p) ∧ ∀ i, i < 128 → f (write m p) i = if p.1 ≤ i ∧ i < p.1 + p.2 then src i else f m i) (m : Mem) (hm : P m)
    (i : Nat) (hi : i < 128) : (Covers l i → f (l.foldl write m) i = src i) ∧ (¬ Covers l i → f (l.foldl write m) i = f m i) := by
  induction l generalizing m with
  | nil => exact ⟨fun h => absurd h (not_covers_nil i), fun _ => rfl⟩
  | cons p t ih =>
    obtain ⟨kept, here⟩ := writes m p List.mem_cons_self hm
    obtain ⟨covered, clear⟩ := ih (fun m q hq => writes m q (List.mem_cons_of_mem p hq)) (write m p) kept
    rw [covers_cons, List.foldl_cons]
    refine ⟨fun h => ?_, fun h => ?_⟩
    · by_cases later : Covers t i
      · exact covered later
      · rw [clear later, here i hi, if_pos (h.resolve_right later)]
    · rw [clear fun ht => h (.inr ht), here i hi, if_neg fun hp => h (.inl hp)]

theorem writeAt_one (m : Mem) (home key cls a : Nat) (bs : List Byte) (p : Bool) (pos : 0 < bs.length) (inside : a % 128 + bs.length ≤ 128) :
    (m.writeAt home key cls a bs p).1 = (m.writePiece home key cls a bs p).1 := by
  rw [Mem.writeAt, pieces_one 128 bs.length a bs.length pos inside, List.foldl_cons, List.foldl_nil, Nat.sub_self, List.drop_zero, List.take_length]

/-- A store to a line that goes through Canopy puts its bytes into what the line reads as. -/
theorem writeAt_line {m : Mem} {home key cls a o : Nat} (h : ThroughCanopy m home cls a) (bs : List Byte) (p : Bool) (pos : 0 < bs.length)
    (inside : o + bs.length ≤ 128) :
    let m' := (m.writeAt home key cls (a * 128 + o) bs p).1
    ThroughCanopy m' home cls a ∧ ∀ i, m'.lineAt home key cls a i = if o ≤ i ∧ i < o + bs.length then bs.getD (i - o) 0 else m.lineAt home key cls a i := by
  intro m'
  obtain ⟨through, bytes⟩ := writePiece_line (key := key) h bs p pos inside
  rw [← writeAt_one m home key cls (a * 128 + o) bs p pos (by omega)] at through bytes
  have len : (m.fetch home a key cls).1.bytes.length = 128 := leBytes_length 128 _
  refine ⟨through, fun i => ?_⟩
  rw [lineAt_eq through, lineAt_eq h, bytes, getD_patch _ _ _ _ (by omega)]

theorem extMark_ext (m : Mem) (home cls a l : Nat) (p : Bool) : (m.extMark home cls a l p).ext = m.ext := by
  refine List.foldlRecOn (motive := fun m' : Mem => m'.ext = m.ext) _ _ rfl fun m' h q _ => ?_
  simp only
  split <;> exact h

/-- Memory of another home takes the bytes in place. -/
theorem writeAt_ext (m : Mem) (home key cls a : Nat) (bs : List Byte) (p : Bool) (beyond : 1 ≤ home ∧ home ≤ 13) (pos : 0 < bs.length)
    (inside : a % 128 + bs.length ≤ 128) : (m.writeAt home key cls a bs p).1.ext = wrBytes m.ext (extKey home a) bs := by
  have not0 : home ≠ 0 := by omega
  have not14 : home ≠ 14 := by omega
  rw [writeAt_one m home key cls a bs p pos inside]
  simp only [Mem.writePiece, not0, not14, decide_false, Bool.false_and, Bool.false_or, Bool.false_eq_true, if_false]
  exact extMark_ext _ home cls a _ p

theorem line_getD (l : L1Line) (i : Nat) (h : i < 128) : l.bytes.getD i 0 = l.data.extractLsb' (8 * i) 8 := by
  rw [L1Line.bytes, getD_leBytes _ _ _ h, show (256 : Nat) = 2 ^ 8 from rfl, ← Nat.pow_mul, ← Nat.shiftRight_eq_div_pow]
  rfl

/-! ### The write-back -/

theorem scrub_line (l : L1Line) (c : CoreId) (k : Core) (w : BitVec 16) : ∃ ce, (l.scrub c k w).1 = { l with ce := ce } := by
  unfold L1Line.scrub
  split
  · exact ⟨l.ce, rfl⟩
  · exact ⟨_, rfl⟩

/-- One piece of a line written at the line's home; `mark` names the pieces written as poisoned. -/
def writeDirty (l : L1Line) (mark : Nat × Nat → Bool) (m : Mem) (p : Nat × Nat) : Mem :=
  (m.writeAt l.home l.key l.cls (l.line * 128 + p.1) ((l.bytes.drop p.1).take p.2) (mark p)).1

/-- A write-back that is not discarded writes the dirty pieces. -/
theorem writeBackLine_mem (s : State) (c : CoreId) (l : L1Line) (dirty : l.dirty ≠ 0)
    (kept : ¬ ((l.home = 14 && !s.mem.gladeLine l.line) || (l.home = 0 && !s.mem.keyLoaded l.key)) = true) :
    ∃ mark, (s.writeBackLine c l).mem = (dirtyPieces l.dirty).foldl (writeDirty l mark) s.mem := by
  obtain ⟨ce, scrubbed⟩ := scrub_line l c (s.core c) (BitVec.allOnes 16)
  refine ⟨fun p => l.poison.getLsbD (p.1 / 64) || l.ue &&& wordMask p.1 p.2 ≠ 0, ?_⟩
  rw [State.writeBackLine, if_neg dirty, if_neg kept]
  generalize l.scrub c (s.core c) (BitVec.allOnes 16) = x at scrubbed
  obtain ⟨y, rs⟩ := x
  obtain rfl : y = { l with ce := ce } := scrubbed
  simp only
  rw [dirtyPieces, ← List.foldl_flatMap]
  exact (List.foldl_hom State.mem fun _ _ => rfl).symm

theorem dirtyPiece_length (l : L1Line) (p : Nat × Nat) (h : p.1 + p.2 ≤ 128) : ((l.bytes.drop p.1).take p.2).length = p.2 := by
  have len : l.bytes.length = 128 := leBytes_length 128 _
  rw [List.length_take, List.length_drop, len]
  omega

theorem dirtyPiece_getD (l : L1Line) (p : Nat × Nat) (i : Nat) (lo : p.1 ≤ i) (hi : i < p.1 + p.2) :
    ((l.bytes.drop p.1).take p.2).getD (i - p.1) 0 = l.bytes.getD i 0 := by
  rw [List.getD_eq_getElem?_getD, List.getD_eq_getElem?_getD, List.getElem?_take, if_pos (by omega), List.getElem?_drop, Nat.add_sub_cancel' lo]

section
variable {s : State} {c : CoreId} {l : L1Line} (dirty : l.dirty ≠ 0)
include dirty

/-- A line that Canopy serves reads, once written back, with the dirty bytes in place. -/
theorem writeBackLine_line (h : l.home = 0 ∧ s.mem.keyLoaded l.key = true ∧ l.cls ≠ 3 ∨ l.home = 14 ∧ s.mem.gladeLine l.line = true) (i : Nat) (hi : i < 128) :
    (s.writeBackLine c l).mem.lineAt l.home l.key l.cls l.line i =
      if l.dirty.getLsbD i then l.data.extractLsb' (8 * i) 8 else s.mem.lineAt l.home l.key l.cls l.line i := by
  have kept : ¬ ((l.home = 14 && !s.mem.gladeLine l.line) || (l.home = 0 && !s.mem.keyLoaded l.key)) = true := by
    rcases h with ⟨zero, key, -⟩ | ⟨glade, held⟩
    · simp [zero, key]
    · simp [glade, held]
  obtain ⟨mark, mem⟩ := writeBackLine_mem s c l dirty kept
  obtain ⟨inside, covers⟩ := dirtyPieces_cover l.dirty
  have through : ThroughCanopy s.mem l.home l.cls l.line := h.imp_left fun h => ⟨h.1, h.2.2⟩
  obtain ⟨written, clear⟩ := foldl_writes (P := fun m => ThroughCanopy m l.home l.cls l.line) (f := fun m i => m.lineAt l.home l.key l.cls l.line i)
    (src := fun i => l.bytes.getD i 0) (writeDirty l mark) (dirtyPieces l.dirty) (fun m p hp hm => by
      obtain ⟨pos, le⟩ := inside p hp
      have len := dirtyPiece_length l p le
      obtain ⟨still, bytes⟩ := writeAt_line hm ((l.bytes.drop p.1).take p.2) (mark p) (by omega) (by omega) (key := l.key) (o := p.1)
      refine ⟨still, fun i _ => (bytes i).trans ?_⟩
      rw [len]
      split
      · next h => exact dirtyPiece_getD l p i h.1 h.2
      · rfl) s.mem through i hi
  rw [mem]
  split
  · next bit => exact (written ((covers i hi).2 bit)).trans (line_getD l i hi)
  · next bit => exact clear fun h => bit ((covers i hi).1 h)

/-- Memory at another home holds the dirty bytes once written back. -/
theorem writeBackLine_ext (h : 1 ≤ l.home ∧ l.home ≤ 13) (i : Nat) (hi : i < 128) :
    mrd 0 (s.writeBackLine c l).mem.ext (extKey l.home (l.line * 128 + i)) =
      if l.dirty.getLsbD i then l.data.extractLsb' (8 * i) 8 else mrd 0 s.mem.ext (extKey l.home (l.line * 128 + i)) := by
  have not0 : l.home ≠ 0 := by omega
  have not14 : l.home ≠ 14 := by omega
  obtain ⟨mark, mem⟩ := writeBackLine_mem s c l dirty (by simp [not0, not14])
  obtain ⟨inside, covers⟩ := dirtyPieces_cover l.dirty
  obtain ⟨written, clear⟩ := foldl_writes (P := fun _ => True) (f := fun m i => mrd 0 m.ext (extKey l.home (l.line * 128 + i)))
    (src := fun i => l.bytes.getD i 0) (writeDirty l mark) (dirtyPieces l.dirty) (fun m p hp _ => by
      obtain ⟨pos, le⟩ := inside p hp
      have len := dirtyPiece_length l p le
      refine ⟨trivial, fun i _ => ?_⟩
      rw [writeDirty, writeAt_ext _ _ _ _ _ _ _ h (by omega) (by omega), mrd_wrBytes, len,
        show extKey l.home (l.line * 128 + i) - extKey l.home (l.line * 128 + p.1) = i - p.1 by simp only [extKey]; omega]
      by_cases hit : p.1 ≤ i ∧ i < p.1 + p.2
      · rw [if_pos hit, if_pos (by simp only [extKey]; omega)]
        exact dirtyPiece_getD l p i hit.1 hit.2
      · rw [if_neg hit, if_neg (by simp only [extKey]; omega)]) s.mem trivial i hi
  rw [mem]
  split
  · next bit => exact (written ((covers i hi).2 bit)).trans (line_getD l i hi)
  · next bit => exact clear fun h => bit ((covers i hi).1 h)

end

end Sys2Proof.Scope
end

section
/-! Drains, releases, the write-back of an L1 line and the fill of Canopy as steps (R83, R115 to R118), and the settlement of O42. -/

namespace Sys2Proof.Scope

open Sys2Proof Sys2Proof.Machine

theorem exec_drainComplete (s : State) : exec .drainComplete s = execDrainComplete s := rfl
theorem exec_relComplete (s : State) : exec .relComplete s = execRelComplete s := rfl
theorem exec_l1Writeback (s : State) : exec .l1Writeback s = execL1Writeback s := rfl

/-! ### Drains (R114 to R116) -/

/-- At core scope an access that has left its core holds nothing. -/
theorem mustPerform_coreScope (c : CoreId) (d : Comm) : d.mustPerform c 0 = false := by
  unfold Comm.mustPerform
  split
  · rfl
  · split <;> simp

/-- At system scope every access of a drain class is to be performed. -/
theorem mustPerform_systemScope (c : CoreId) (d : Comm) : d.mustPerform c 3 = true := by
  unfold Comm.mustPerform
  split
  · rfl
  · split <;> simp

theorem drained_iff (k : Core) (c : CoreId) (id : Nat) (before : List Comm) (mask : BitVec 4) (scope : Nat) :
    k.drained c id before mask scope = true ↔
      (∀ d ∈ before, d.drainClass &&& mask = 0 ∨ d.mustPerform c scope = false ∧ d.left = true) ∧
      (mask.getLsbD 2 = false ∨ scope < 2 ∨ ∀ n ∈ k.nearPending, id ≤ n) := by
  simp only [Core.drained, Bool.and_eq_true, Bool.not_eq_true', List.any_eq_false, Bool.or_eq_true, decide_eq_true_eq, not_and_or, Bool.and_eq_false_iff,
    decide_eq_false_iff_not, Nat.not_le, ne_eq, Decidable.not_not, Nat.not_lt, not_or, Bool.not_eq_true, Bool.not_eq_false, or_assoc]

/-- Nothing of a drain's classes is before it. -/
theorem drained_empty (k : Core) (c : CoreId) (id : Nat) (before : List Comm) (m : BitVec 4) (scope : Nat) (none : ∀ d ∈ before, d.drainClass &&& m = 0)
    (near : m.getLsbD 2 = false ∨ scope < 2 ∨ k.nearPending = []) : k.drained c id before m scope = true :=
  (drained_iff ..).2 ⟨fun d hd => .inl (none d hd), near.imp_right (Or.imp_right fun h n hn => by rw [h] at hn; cases hn)⟩

/-! ### The two steps of the commit order (R115, R118) -/

theorem linesAhead_iff (id : Nat) (l : List FifoEnt) :
    linesAhead id l = true ↔ ∃ h a, FifoEnt.line h a ∈ l.takeWhile fun e => decide (e ≠ .marker id) := by
  rw [linesAhead, List.any_eq_true]
  constructor
  · rintro ⟨e, he, line⟩
    rcases e with ⟨h, a⟩ | _
    · exact ⟨h, a, he⟩
    · cases line
  · rintro ⟨h, a, he⟩
    exact ⟨_, he, rfl⟩

section
variable {s : State} {w : Comm} (hw : (s.core s.cur.core).ms.comm[s.cur.k]? = some w)
include hw

theorem drainComplete_eq {m : BitVec 4} {sc : BitVec 2} (what : w.what = .drain m sc) :
    exec .drainComplete s = .next (if (s.core s.cur.core).drained s.cur.core w.id ((s.core s.cur.core).ms.comm.take s.cur.k) m sc.toNat then
      s.setCore s.cur.core { s.core s.cur.core with ms.comm := (s.core s.cur.core).ms.comm.eraseIdx s.cur.k } else s) := by
  simp only [exec_drainComplete, execDrainComplete, hw, what]
  rfl

theorem relComplete_eq {sc : BitVec 2} (what : w.what = .rel sc) :
    exec .relComplete s = .next (if (!linesAhead w.id (s.core s.cur.core).ms.fifo && !(((s.core s.cur.core).ms.comm.take s.cur.k).any Comm.isL1) &&
        (s.core s.cur.core).drained s.cur.core w.id ((s.core s.cur.core).ms.comm.take s.cur.k) 2 (relScope sc)) = true then
      s.setCore s.cur.core { s.core s.cur.core with
        ms.comm := (s.core s.cur.core).ms.comm.eraseIdx s.cur.k
        ms.fifo := (s.core s.cur.core).ms.fifo.filter fun e => decide (e ≠ .marker w.id) } else s) := by
  simp only [exec_relComplete, execRelComplete, hw, what]
  rfl

theorem drain_completes (m : BitVec 4) (sc : BitVec 2) (what : w.what = .drain m sc) :
    let k := s.core s.cur.core
    let before := k.ms.comm.take s.cur.k
    ((∀ d ∈ before, d.drainClass &&& m = 0) ∧ (m.getLsbD 2 = false ∨ sc.toNat < 2 ∨ k.nearPending = []) ∨ sc = 0 ∧ (∀ d ∈ before, d.left = true) →
      exec .drainComplete s = .next (s.setCore s.cur.core { k with ms.comm := k.ms.comm.eraseIdx s.cur.k })) ∧
    (sc = 3 → (∃ d ∈ before, d.drainClass &&& m ≠ 0) → exec .drainComplete s = .next s) := by
  intro k before
  rw [drainComplete_eq hw what]
  refine ⟨fun h => ?_, ?_⟩
  · have done : k.drained s.cur.core w.id before m sc.toNat = true := by
      rcases h with ⟨none, near⟩ | ⟨rfl, left⟩
      · exact drained_empty _ _ _ _ _ _ none near
      · exact (drained_iff ..).2 ⟨fun d hd => .inr ⟨mustPerform_coreScope _ d, left d hd⟩, .inr (.inl (by decide))⟩
    rw [if_pos done]
  · rintro rfl ⟨d, hd, covered⟩
    rw [if_neg fun h => ?_]
    rcases ((drained_iff ..).1 h).1 d hd with h | ⟨h, -⟩
    · exact covered h
    · exact Bool.noConfusion (h.symm.trans (mustPerform_systemScope _ d))

theorem rel_completes (sc : BitVec 2) (what : w.what = .rel sc) :
    let k := s.core s.cur.core
    let before := k.ms.comm.take s.cur.k
    let ahead := k.ms.fifo.takeWhile fun e => decide (e ≠ .marker w.id)
    ((∀ h a, FifoEnt.line h a ∉ ahead) → (∀ d ∈ before, d.drainClass &&& 2 = 0 ∧ d.isL1 = false) →
      exec .relComplete s = .next (s.setCore s.cur.core { k with
        ms.comm := k.ms.comm.eraseIdx s.cur.k
        ms.fifo := k.ms.fifo.filter fun e => decide (e ≠ .marker w.id) })) ∧
    ((∃ h a, FifoEnt.line h a ∈ ahead) ∨ (∃ d ∈ before, d.isL1 = true) → exec .relComplete s = .next s) := by
  intro k before ahead
  rw [relComplete_eq hw what]
  refine ⟨fun clean stored => ?_, fun waits => ?_⟩
  · have noLines : linesAhead w.id k.ms.fifo = false := Bool.eq_false_iff.2 fun h => by
      obtain ⟨h, a, mem⟩ := (linesAhead_iff ..).1 h
      exact clean h a mem
    have noStores : before.any Comm.isL1 = false := List.any_eq_false.2 fun d hd => Bool.eq_false_iff.1 (stored d hd).2
    have done := drained_empty k s.cur.core w.id before 2 (relScope sc) (fun d hd => (stored d hd).1) (.inl rfl)
    rw [if_pos (by rw [noLines, noStores, done]; rfl)]
  · rw [if_neg fun h => ?_]
    obtain ⟨⟨noLines, noStores⟩, -⟩ := by simpa only [Bool.and_eq_true, Bool.not_eq_true'] using h
    rcases waits with lines | ⟨d, hd, l1⟩
    · exact Bool.noConfusion (noLines.symm.trans ((linesAhead_iff ..).2 lines))
    · exact List.any_eq_false.1 noStores d hd l1

end

/-! ### The write-back of a line (R106, R117) -/

theorem writeBackLine_memRecs (s : State) (c : CoreId) (l : L1Line) : MemRecs s (s.writeBackLine c l) := by
  unfold State.writeBackLine
  split
  · exact MemRecs.refl s
  · split
    · exact MemRecs.putMem s s.mem _
    · refine (MemRecs.putMem s s.mem _).trans (List.foldlRecOn _ _ (MemRecs.refl _) fun u hu r _ => hu.trans ?_)
      exact List.foldlRecOn _ _ (MemRecs.refl _) fun v hv p _ => hv.trans (MemRecs.putMem v _ _)

theorem writeBackLine_clean {s : State} {c : CoreId} {l : L1Line} (h : l.dirty = 0) : s.writeBackLine c l = s := if_pos h

/-- R91: a dirty line of a Glade no longer allocated is discarded with its record. -/
theorem writeBackLine_lost {s : State} {c : CoreId} {l : L1Line} (dirty : l.dirty ≠ 0) (glade : l.home = 14) (gone : s.mem.gladeLine l.line = false) :
    s.writeBackLine c l = s.addRec (coreRec c 0x0E 2 3 (lineAddr l.home l.line) 0 (s.core c).domain) := by
  rw [State.writeBackLine, if_neg dirty, if_pos (by simp [glade, gone])]

/-- The lines of the L1 and its FIFO after the write-back of a line. -/
def cleanedMs (k : Core) (l : L1Line) (drop : Bool) : MemSide := { k.ms with
  l1 := if drop then k.ms.l1.filter fun x => !lineIs l.home l.line x
    else k.ms.l1.map fun x => if lineIs l.home l.line x then { x with dirty := 0, ce := if l.dirty = 0 then x.ce else 0 } else x
  fifo := k.ms.fifo.filter fun e => decide (e ≠ .line l.home l.line) }

/-- A line cleaned: its bytes written back, and its place in the L1 and the FIFO given up. -/
theorem l1Clean_eq {s : State} {c : CoreId} {l : L1Line} (found : (s.core c).ms.l1.find? (lineIs l.home l.line) = some l) (drop : Bool) :
    s.l1Clean c l.home l.line drop = (s.writeBackLine c l).setCore c { s.core c with ms := cleanedMs (s.core c) l drop } := by
  obtain ⟨m, r, wb⟩ := writeBackLine_memRecs s c l
  simp only [State.l1Clean, found]
  rw [wb]
  rfl

section
variable {s : State} {l : L1Line} (at_ : (s.core s.cur.core).ms.l1[s.cur.k]? = some l)
include at_

theorem l1Writeback_held (held : (s.core s.cur.core).lineHeld l = true) : exec .l1Writeback s = .next s := by
  simp only [exec_l1Writeback, execL1Writeback, at_, held, if_true]

theorem l1Writeback_free (found : (s.core s.cur.core).ms.l1.find? (lineIs l.home l.line) = some l) (free : (s.core s.cur.core).lineHeld l = false) :
    exec .l1Writeback s = .next ((s.writeBackLine s.cur.core l).setCore s.cur.core { s.core s.cur.core with
      ms := cleanedMs (s.core s.cur.core) l s.cur.flag }) := by
  simp only [exec_l1Writeback, execL1Writeback, at_, free, Bool.false_eq_true, if_false, l1Clean_eq found]

end

/-- What the write-back of a line leaves of memory and records. -/
theorem writeBackLine_leaves (s : State) (c : CoreId) (l : L1Line) :
    let u := s.writeBackLine c l
    (l.dirty = 0 → u.mem = s.mem ∧ u.hk = s.hk) ∧
    (l.dirty ≠ 0 → l.home = 14 → s.mem.gladeLine l.line = false → u.mem = s.mem ∧
      ∃ e, u.hk = { s.hk with recs := queueRec s.hk.recs e } ∧ e.event = 0x0E ∧ e.core = some c.val) ∧
    (1 ≤ l.home → l.home ≤ 13 → ∀ o, o < 128 → mrd 0 u.mem.ext (extKey l.home (l.line * 128 + o)) =
      if l.dirty.getLsbD o then l.data.extractLsb' (8 * o) 8 else mrd 0 s.mem.ext (extKey l.home (l.line * 128 + o))) ∧
    (l.home = 0 ∧ s.mem.keyLoaded l.key = true ∧ l.cls ≠ 3 ∨ l.home = 14 ∧ s.mem.gladeLine l.line = true → ∀ o, o < 128 →
      u.mem.lineAt l.home l.key l.cls l.line o = if l.dirty.getLsbD o then l.data.extractLsb' (8 * o) 8 else s.mem.lineAt l.home l.key l.cls l.line o) := by
  intro u
  by_cases dirty : l.dirty = 0
  · have same : u = s := writeBackLine_clean dirty
    have noBit : ∀ o, ¬ l.dirty.getLsbD o = true := fun o => by simp [dirty]
    rw [same]
    exact ⟨fun _ => ⟨rfl, rfl⟩, fun h => absurd dirty h, fun _ _ o _ => (if_neg (noBit o)).symm, fun _ o _ => (if_neg (noBit o)).symm⟩
  · refine ⟨fun h => absurd h dirty, fun _ glade gone => ?_, fun lo hi o ho => writeBackLine_ext dirty ⟨lo, hi⟩ o ho, fun h o ho => writeBackLine_line dirty h o ho⟩
    rw [show u = _ from writeBackLine_lost dirty glade gone]
    exact ⟨rfl, _, rfl, rfl, rfl⟩

/-! ### The fill of Canopy (R83) -/

/-- Records sent to housekeeping are queued one by one, each with its cycle. -/
theorem addRecs_hk (s : State) (l : List ErrRec) :
    (s.addRecs l).hk = { s.hk with recs := (l.map fun r => { r with cycle := s.clock }).foldl queueRec s.hk.recs } := by
  rw [List.foldl_map]
  rfl

/-- A fetch leaves the line held where its set held it or has a victim. -/
theorem fetch_finds {m : Mem} {a : Nat} (key cls : Nat) (room : ((m.set (setOf a)).find 0 a).isSome ∨ (m.set (setOf a)).victim.isSome) :
    (((m.fetch 0 a key cls).2.2.1.set (setOf a)).find 0 a).isSome := by
  rcases fetch_gives key cls (.inl rfl : Served m 0 a) with ⟨w, -, held⟩ | ⟨-, passed⟩
  · rw [held.found]
    rfl
  · rw [passed.absent, passed.full] at room
    exact absurd room (by decide)

/-- A fetch changes nothing of what its line reads as. -/
theorem lineAt_fetch (m : Mem) (a key cls o : Nat) (class3 : cls ≠ 3) : (m.fetch 0 a key cls).2.2.1.lineAt 0 key cls a o = m.lineAt 0 key cls a o := by
  have through : ∀ m : Mem, ThroughCanopy m 0 cls a := fun m => .inl ⟨rfl, class3⟩
  rw [lineAt_eq (through _), lineAt_eq (through _), CLine.bytes, fetch_again key cls (through m).served]
  rfl

section
variable (s : State)

/-- The key the line of a fill was written with, whether its blocks carry codes, and the class of the fill. -/
def fillKey : Nat := (s.mem.block (2 * s.cur.k)).key % 256
def fillCoded : Prop := (s.mem.block (2 * s.cur.k)).integ.isSome = true ∨ (s.mem.block (2 * s.cur.k + 1)).integ.isSome = true

def fillClass : Nat := if (s.mem.block (2 * s.cur.k)).integ.isSome || (s.mem.block (2 * s.cur.k + 1)).integ.isSome then 5 else s.cur.v.toNat

/-- Whether the line comes to Canopy: it exists, its key is still the one it was written with, an encoded block reaches it, and the class of
its page is one of a fill. -/
def FillComes : Prop :=
  s.cur.k < 2 ^ 32 ∧ s.mem.fullKey (fillKey s) = (s.mem.block (2 * s.cur.k)).key ∧ s.mem.beyond s.cur.k = false ∧
    (fillCoded s ∨ s.cur.v.toNat ≤ 5 ∧ s.cur.v ≠ 3)

theorem fillClass_coded (h : fillCoded s) : fillClass s = 5 := if_pos (Bool.or_eq_true_iff.2 h)
theorem fillClass_plain (h : ¬ fillCoded s) : fillClass s = s.cur.v.toNat := if_neg fun g => h (Bool.or_eq_true_iff.1 g)

theorem fillClass_iff : (fillClass s ≠ 3 ∧ fillClass s ≤ 5) ↔ (fillCoded s ∨ s.cur.v.toNat ≤ 5 ∧ s.cur.v ≠ 3) := by
  by_cases coded : fillCoded s
  · rw [fillClass_coded s coded]
    exact iff_of_true (by decide) (.inl coded)
  · have three : s.cur.v = 3 ↔ s.cur.v.toNat = 3 := ⟨fun h => by rw [h]; rfl, fun h => BitVec.eq_of_toNat_eq h⟩
    rw [fillClass_plain s coded, or_iff_right coded, and_comm, Ne, Ne, three]

theorem canopyFill_eq : exec .canopyFill s = if s.cur.k ≥ 2 ^ 32 then .next s
    else if (s.mem.fullKey (fillKey s) ≠ (s.mem.block (2 * s.cur.k)).key || s.mem.beyond s.cur.k || fillClass s = 3 || fillClass s > 5) = true then .next s
    else .next ({ s with mem := (s.mem.fetch 0 s.cur.k (fillKey s) (fillClass s)).2.2.1 }.addRecs (s.mem.fetch 0 s.cur.k (fillKey s) (fillClass s)).2.2.2) := rfl

theorem canopyFill_skips (h : ¬ FillComes s) : exec .canopyFill s = .next s := by
  rw [canopyFill_eq]
  by_cases far : s.cur.k ≥ 2 ^ 32
  · exact if_pos far
  · rw [if_neg far]
    refine if_pos (Decidable.by_contra fun g => h ?_)
    simp only [Bool.or_eq_true, decide_eq_true_eq, not_or, Bool.not_eq_true, ne_eq, Decidable.not_not, Nat.not_lt] at g
    obtain ⟨⟨⟨key, reached⟩, class3⟩, class5⟩ := g
    exact ⟨Nat.lt_of_not_le far, key, reached, (fillClass_iff s).1 ⟨class3, class5⟩⟩

theorem canopyFill_fetches (h : FillComes s) : exec .canopyFill s =
    .next ({ s with mem := (s.mem.fetch 0 s.cur.k (fillKey s) (fillClass s)).2.2.1 }.addRecs (s.mem.fetch 0 s.cur.k (fillKey s) (fillClass s)).2.2.2) := by
  obtain ⟨near, key, reached, class_⟩ := h
  obtain ⟨class3, class5⟩ := (fillClass_iff s).2 class_
  rw [canopyFill_eq, if_neg (Nat.not_le.2 near), if_neg]
  simp only [Bool.or_eq_true, decide_eq_true_eq, not_or, Bool.not_eq_true, ne_eq, Decidable.not_not, Nat.not_lt]
  exact ⟨⟨⟨key, reached⟩, class3⟩, class5⟩

end

/-- Settles O42: drains and releases at their completion, the write-back of a line, and the fill of Canopy. -/
theorem drainsAndCacheLines : Obligations.DrainsAndCacheLines := by
  unfold Obligations.DrainsAndCacheLines
  intro s
  refine ⟨fun w hw => ⟨drain_completes hw, rel_completes hw⟩, fun l at_ found => ⟨l1Writeback_held at_, fun free => ?_⟩, canopyFill_skips s, fun comes => ?_⟩
  · obtain ⟨m, r, wb⟩ := writeBackLine_memRecs s s.cur.core l
    have leaves := writeBackLine_leaves s s.cur.core l
    refine ⟨_, l1Writeback_free at_ found free, ?_⟩
    simp only [State.core_setCore_self]
    refine ⟨⟨rfl, rfl, rfl, rfl, rfl, rfl, rfl, rfl, rfl, rfl, rfl, rfl⟩, trivial, fun d hd => ?_, ?_, rfl, leaves⟩
    · rw [State.core_setCore_other _ _ _ _ hd, wb]
      rfl
    · rw [State.setCore_sched, wb]
  · have class3 := ((fillClass_iff s).2 comes.2.2.2).1
    refine ⟨_, canopyFill_fetches s comes, rfl, rfl, rfl, ⟨rfl, rfl, rfl, rfl, rfl, rfl, rfl⟩, ⟨_, addRecs_hk _ _⟩, fetch_finds (fillKey s) (fillClass s),
      fun cls o coded plain _ => ?_⟩
    obtain rfl : cls = fillClass s := by
      by_cases h : fillCoded s
      · rw [coded h, fillClass_coded s h]
      · rw [plain h, fillClass_plain s h]
    exact lineAt_fetch s.mem s.cur.k (fillKey s) _ o class3

end Sys2Proof.Scope
end

section
/-! Glades and Canopy ways (R88 to R91, R103): a line pinned, freed, and a way retired. -/

namespace Sys2Proof.Scope

open Sys2Proof Sys2Proof.Machine

/-! ### Pins (R88, R90) -/

/-- A set of sixteen ways that admits a pin has a victim: not all its usable ways are pinned. -/
theorem admits_victim {c : CSet} {limit : Nat} (sixteen : c.ways.length = 16) (admits : c.admits limit = true) : c.victim ≠ none := by
  intro none
  obtain ⟨valid, kept⟩ := victim_none none
  have pins : ∀ x ∈ c.ways, decide (x ≠ Way.retired) = true → x.pinned = true := by
    intro x hx usable
    obtain ⟨j, lt, rfl⟩ := List.getElem_of_mem hx
    have notInvalid := valid j lt
    have stays := kept j (sixteen ▸ lt)
    rw [List.getD_eq_getElem _ _ lt] at notInvalid stays
    generalize c.ways[j] = x at usable notInvalid stays ⊢
    rcases x with _ | _ | l
    · exact absurd rfl notInvalid
    · exact absurd rfl (of_decide_eq_true usable)
    · simpa [Way.evictable, Way.pinned] using stays
  have count : c.usable ≤ c.pinned := by
    rw [CSet.usable, CSet.pinned, ← List.countP_eq_length_filter, ← List.countP_eq_length_filter]
    exact List.countP_mono_left pins
  rw [CSet.admits, Bool.and_eq_true, decide_eq_true_eq, decide_eq_true_eq] at admits
  omega

/-- Memory beside Canopy and the stacks. -/
theorem placeLine_frame (m : Mem) (l : CLine) : (m.placeLine l).1.ext = m.ext ∧ (m.placeLine l).1.keys = m.keys := by
  unfold Mem.placeLine
  simp only
  split
  · exact ⟨rfl, rfl⟩
  · split
    · next v _ => exact ⟨(writeBack_frame m v).ext, (writeBack_frame m v).keys⟩
    · exact ⟨rfl, rfl⟩

/-- The set of a line placed, where it has a victim: the line stands in the victim's way. -/
theorem placeLine_some {m : Mem} {l : CLine} {w : Nat} (h : (m.set (setOf l.line)).victim = some w) : ∃ m' : Mem, m'.canopy = m.canopy ∧
    (m.placeLine l).1 = m'.putSet (setOf l.line) (CSet.touch { m.set (setOf l.line) with ways := List.set (m.set (setOf l.line)).ways w (.held l) } w) := by
  simp only [Mem.placeLine, h]
  split
  · next v _ =>
    have same := (writeBack_frame m v).canopy
    exact ⟨(m.writeBack v).1, same, by rw [set_congr same]⟩
  · exact ⟨m, rfl, rfl⟩

/-- A Glade line as its allocation leaves it. -/
def newGlade (a : Nat) : CLine := ⟨14, a, 0, 0, false, 0, 0, 0, false⟩

/-- A Glade line placed in a set that admits it is held there. -/
theorem placeLine_glade {m : Mem} {a limit : Nat} (sixteen : (m.set (setOf a)).ways.length = 16) (new : m.gladeLine a = false)
    (admits : (m.set (setOf a)).admits limit = true) :
    ∃ w, HeldAt (m.placeLine (newGlade a)).1 14 a 0 w (newGlade a) := by
  obtain ⟨w, victim⟩ := Option.ne_none_iff_exists'.1 (admits_victim sixteen admits)
  obtain ⟨m', same, placed⟩ := placeLine_some (l := (newGlade a)) victim
  have absent : (m.set (setOf a)).find 14 a = none := Option.not_isSome_iff_eq_none.1 (Bool.eq_false_iff.1 new)
  rw [placed]
  refine ⟨w, HeldAt.putSet m' _ 0 w (newGlade a) ?_ ?_ ?_ rfl (.inl rfl)⟩ <;> simp only [set_congr same]
  · rfl
  · exact (victim_some victim).1
  · exact fun j _ => (find_none_iff _ _ _).1 absent j

theorem leBytes_zero (n : Nat) : leBytes n 0 = List.replicate n 0 := by
  induction n with
  | zero => rfl
  | succ n ih => 
    rw [leBytes, Nat.zero_div, ih, List.replicate_succ]
    rfl

/-- R90: a Glade line reads as zero once pinned. -/
theorem readAt_newGlade {m : Mem} {a w : Nat} (h : HeldAt m 14 a 0 w (newGlade a)) :
    (m.readAt 14 0 0 (a * 128) 128).bytes = List.replicate 128 0 := by
  rw [readAt_line (.inr ⟨rfl, h.gladeLine rfl⟩), h.fetch, CLine.bytes, newGlade, BitVec.ofNat_eq_ofNat, BitVec.toNat_zero, leBytes_zero]

/-- R103: a way retired stays so when a line is placed. -/
theorem placeLine_retired {m : Mem} (l : CLine) {n w : Nat} (h : (m.set n).ways.getD w .invalid = .retired) :
    ((m.placeLine l).1.set n).ways.getD w .invalid = .retired := by
  rcases victim : (m.set (setOf l.line)).victim with _ | v
  · have none : (m.placeLine l).1 = m := by simp only [Mem.placeLine, victim]
    rw [none]
    exact h
  · obtain ⟨m', same, placed⟩ := placeLine_some victim
    rw [placed, set_putSet]
    split
    · next here =>
      rw [here] at h
      obtain ⟨lt, taken⟩ := victim_some victim
      have other : w ≠ v := by
        rintro rfl
        rcases taken with ⟨invalid, -⟩ | ⟨-, x, held, -⟩
        · exact Way.noConfusion (h.symm.trans invalid)
        · exact Way.noConfusion (h.symm.trans held)
      rw [touch_ways, getD_set_ways _ _ _ _ lt, if_neg other]
      exact h
    · rw [set_congr same]
      exact h

theorem freeGlade_frame (m : Mem) (a : Nat) : (m.freeGlade a).hbm = m.hbm ∧ (m.freeGlade a).ext = m.ext := by
  unfold Mem.freeGlade
  simp only
  split <;> exact ⟨rfl, rfl⟩

end Sys2Proof.Scope
end

section
/-! Commands of the mailbox (R414, R415): the transport, Glades and Canopy ways, debug, microprogram words, translations, keys and the quote. -/

namespace Sys2Proof.Scope

open Sys2Proof Sys2Proof.Machine

/-! ### Transport (R410, R414) -/

theorem exec_mbstatRead (s : State) : exec .mbstatRead s = execMbstatRead s := rfl

theorem exec_attest (s : State) : exec .attest s = execAttest s := rfl
theorem exec_glalloc (s : State) : exec .glalloc s = execGlalloc s := rfl
theorem exec_glfree (s : State) : exec .glfree s = execGlfree s := rfl
theorem exec_cwret (s : State) : exec .cwret s = execCwret s := rfl
theorem exec_dbgctl (s : State) : exec .dbgctl s = execDbgctl s := rfl
theorem exec_dbggo (s : State) : exec .dbggo s = execDbggo s := rfl
theorem exec_dbgrd (s : State) : exec .dbgrd s = execDbgrd s := rfl
theorem exec_mpwrite (s : State) : exec .mpwrite s = execMpwrite s := rfl
theorem exec_hostTlbinv (s : State) : exec .hostTlbinv s = execHostTlbinv s := rfl
theorem exec_coreswap (s : State) : exec .coreswap s = execCoreswap s := rfl
theorem exec_macret (s : State) : exec .macret s = execMacret s := rfl
theorem exec_hbmsvc (s : State) : exec .hbmsvc s = execHbmsvc s := rfl
theorem exec_fwstage (s : State) : exec .fwstage s = execFwstage s := rfl
theorem exec_fwswitch (s : State) : exec .fwswitch s = execFwswitch s := rfl
theorem exec_keyload (s : State) : exec .keyload s = execKeyload s := rfl
theorem exec_keyunld (s : State) : exec .keyunld s = execKeyunld s := rfl

/-- Each step of the mailbox runs the command with its opcode. -/
theorem mailboxStep_runs : ∀ p ∈ mailboxSteps, ∃ f, ∀ s, exec p.1 s = s.mbRun p.2 f := by
  simp only [mailboxSteps, List.cons_append, List.nil_append, List.forall_mem_cons, List.not_mem_nil, false_implies, implies_true, and_true]
  exact ⟨⟨_, exec_attest⟩, ⟨_, exec_glalloc⟩, ⟨_, exec_glfree⟩, ⟨_, exec_cwret⟩, ⟨_, exec_dbgctl⟩, ⟨_, exec_dbggo⟩, ⟨_, exec_dbgrd⟩,
    ⟨_, exec_mpwrite⟩, ⟨_, exec_hostTlbinv⟩, ⟨_, exec_coreswap⟩, ⟨_, exec_macret⟩, ⟨_, exec_hbmsvc⟩, ⟨_, exec_lanert⟩,
    ⟨_, exec_fwstage⟩, ⟨_, exec_fwswitch⟩, ⟨_, exec_keyload⟩, ⟨_, exec_keyunld⟩⟩

theorem mbRefuses_unready {h : Hsk} {op : Nat} (unready : h.ready = false) (other : op ≠ 1) : h.mbRefuses op = some 0xFE :=
  if_pos (by simp [unready, other])

theorem mbRefuses_unknown {h : Hsk} {op : Nat} (ready : h.ready = true) (unknown : op ∉ mailboxOps) : h.mbRefuses op = some 0xFF := by
  rw [Hsk.mbRefuses, if_neg (by simp [ready]), if_pos (by simpa using unknown)]

section
variable {s : State} (op : Nat) (f : W64 → W64 → State → MbAnswer × State)

theorem mbRun_idle (h : s.hk.mbCmd = none) : s.mbRun op f = .next s := by rw [State.mbRun, h]

variable {c : MbCmd} (running : s.hk.mbCmd = some c)
include running

theorem mbRun_refuses {st : Nat} (h : s.hk.mbRefuses (bits (c.words.getD 0 0) 0 8) = some st) :
    AnswersWith (s.mbRun op f) s (bits (c.words.getD 0 0) 0 8) st 0 0 := by
  simp only [State.mbRun, running, h]
  exact mbDone_answers s _ ⟨st, 0, 0⟩

theorem mbRun_other (h : s.hk.mbRefuses (bits (c.words.getD 0 0) 0 8) = none) (other : bits (c.words.getD 0 0) 0 8 ≠ op) : s.mbRun op f = .next s := by
  simp only [State.mbRun, running, h]
  exact if_pos other

end

/-- The answer of a step, from what performing its command gives. -/
theorem step_answers {s u : State} {i : Instr} {op st : Nat} {f : W64 → W64 → State → MbAnswer × State} {a b w1 w2 : W64} (hi : exec i s = s.mbRun op f)
    (h : s.mbRuns op a b) (hf : f a b s = (⟨st, w1, w2⟩, u)) : AnswersWith (exec i s) u op st w1 w2 := by
  rw [hi]
  exact mbRun_answers s u op f a b ⟨st, w1, w2⟩ h hf

/-! ### The quote (R426) -/

/-- What is read within a run of bytes just written. -/
theorem rdBytes_wrBytes_within (m : Memory) (l : List Byte) (o n : Nat) (h : o + n ≤ l.length) : rdBytes (wrBytes m 0 l) o n = (l.drop o).take n := by
  refine List.ext_getElem (by simp; omega) fun i hi _ => ?_
  have lt : o + i < l.length := by
    rw [rdBytes_length] at hi
    omega
  rw [List.getElem_take, List.getElem_drop, ← mrd_wrBytes_self m 0 (o + i) l lt, Nat.zero_add]
  simp only [rdBytes, List.getElem_map, List.getElem_range]

theorem leNat_leBytes_mod (n v : Nat) : leNat (leBytes n v) = v % 256 ^ n := by
  induction n generalizing v with
  | zero => rw [Nat.pow_zero, Nat.mod_one]; rfl
  | succ n ih =>
    rw [leBytes, leNat, ih, Nat.pow_succ', Nat.mod_mul, BitVec.toNat_ofNat]

/-- The first bytes of a quote: its version, its length, its number, and the first 32 bytes of the data area. -/
theorem quote_starts (h : Hsk) : ∃ rest, h.quote = leBytes 4 1 ++ (leBytes 4 h.quoteLen ++ (leBytes 8 (h.quotes + 1) ++ (rdBytes h.mbData 0 32 ++ rest))) := by
  simp only [Hsk.quote, Hsk.quoteHead, List.append_assoc]
  exact ⟨_, rfl⟩

theorem attest_answers (s : State) (a b : W64) (h : s.mbRuns 0x01 a b) :
    ∃ d, AnswersWith (exec .attest s) { s with hk := { s.hk with mbData := d, quotes := s.hk.quotes + 1 } } 0x01 0
        (BitVec.ofNat 64 (if s.hk.record.pqReq then 0x240 + 3309 else 0x240)) 0 ∧
      rdNat d 0 4 = 1 ∧ rdNat d 8 8 = (s.hk.quotes + 1) % 2 ^ 64 ∧ rdBytes d 16 32 = rdBytes s.hk.mbData 0 32 := by
  obtain ⟨rest, starts⟩ := quote_starts s.hk
  have read := fun o n (le : o + n ≤ 48) => rdBytes_wrBytes_within s.hk.mbData s.hk.quote o n (by
    rw [starts]
    simp only [List.length_append, leBytes_length, rdBytes_length]
    omega)
  refine ⟨wrBytes s.hk.mbData 0 s.hk.quote, step_answers (exec_attest s) h rfl, ?_, ?_, ?_⟩
  · rw [rdNat, read 0 4 (by decide), starts]
    rfl
  · rw [rdNat, read 8 8 (by decide), starts]
    exact leNat_leBytes_mod 8 _
  · rw [read 16 32 (by decide), starts]
    exact List.take_left' (rdBytes_length ..)

/-! ### Glades and Canopy ways (R88 to R91, R103) -/

theorem gladeRangeBad_iff (a b : Nat) : gladeRangeBad a b = true ↔ a % 128 ≠ 0 ∨ b = 0 ∨ b % 128 ≠ 0 ∨ 0x7FC00000 < a + b := by
  simp only [gladeRangeBad, Bool.or_eq_true, decide_eq_true_eq, or_assoc, gt_iff_lt]

/-- One line allocated: refused where it is allocated or its set admits no pin, else placed. -/
theorem allocGlades_one (m : Mem) (limit a : Nat) : m.allocGlades limit a 1 =
    if m.gladeLine a then ((2, a), m, []) else if !(m.set (setOf a)).admits limit then ((1, a), m, [])
    else ((0, 0), (m.placeLine (newGlade a)).1, (m.placeLine (newGlade a)).2 ++ []) := rfl

section
variable {s : State} {a b : W64}

theorem glalloc_badRange (h : s.mbRuns 0x10 a b) (bad : gladeRangeBad a.toNat b.toNat = true) : AnswersWith (exec .glalloc s) s 0x10 3 a 0 :=
  step_answers (exec_glalloc s) h (if_pos bad)

theorem glfree_badRange (h : s.mbRuns 0x11 a b) (bad : gladeRangeBad a.toNat b.toNat = true) : AnswersWith (exec .glfree s) s 0x11 3 a 0 :=
  step_answers (exec_glfree s) h (if_pos bad)

variable (good : gladeRangeBad a.toNat b.toNat ≠ true)
include good

/-- The range's first line starts at its address. -/
theorem glade_start : a.toNat / 128 * 128 = a.toNat := by
  have aligned : a.toNat % 128 = 0 := by
    by_contra h
    exact good ((gladeRangeBad_iff ..).2 (.inl h))
  omega

theorem glade_address : BitVec.ofNat 64 (a.toNat / 128 * 128) = a := by
  rw [glade_start good, BitVec.ofNat_toNat, BitVec.setWidth_eq]

variable (one : b.toNat = 128)
include one

/-- GLALLOC of one line that fails names the line's address. -/
theorem glalloc_fails (h : s.mbRuns 0x10 a b) {st : Nat} (failed : st ≠ 0)
    (alloc : s.mem.allocGlades s.hk.pinlim.toNat (a.toNat / 128) 1 = ((st, a.toNat / 128), s.mem, [])) : AnswersWith (exec .glalloc s) s 0x10 st a 0 := by
  refine step_answers (exec_glalloc s) h ((if_neg good).trans ?_)
  rw [one, alloc]
  exact (if_neg failed).trans (congrArg (fun w => ((⟨st, w, 0⟩ : MbAnswer), s)) (glade_address good))

theorem glalloc_performs (h : s.mbRuns 0x10 a b) {n : Nat} {m : Mem} {rs : List ErrRec}
    (alloc : s.mem.allocGlades s.hk.pinlim.toNat (a.toNat / 128) 1 = ((0, n), m, rs)) :
    AnswersWith (exec .glalloc s) ({ s with mem := m }.addRecs rs) 0x10 0 0 1 := by
  refine step_answers (exec_glalloc s) h ((if_neg good).trans ?_)
  rw [one, alloc]
  exact if_pos rfl

/-- GLALLOC of one line that is admitted pins it (R90). -/
theorem glalloc_pins (h : s.mbRuns 0x10 a b) (sixteen : (s.mem.set (setOf (a.toNat / 128))).ways.length = 16)
    (new : s.mem.gladeLine (a.toNat / 128) = false) (admits : (s.mem.set (setOf (a.toNat / 128))).admits s.hk.pinlim.toNat = true) :
    ∃ m l, AnswersWith (exec .glalloc s) { s with mem := m, hk := { s.hk with recs := l } } 0x10 0 0 1 ∧
      m.gladeLine (a.toNat / 128) = true ∧ m.ext = s.mem.ext ∧ (m.readAt 14 0 0 a.toNat 128).bytes = List.replicate 128 0 := by
  have alloc : s.mem.allocGlades s.hk.pinlim.toNat (a.toNat / 128) 1 =
      ((0, 0), (s.mem.placeLine (newGlade (a.toNat / 128))).1, (s.mem.placeLine (newGlade (a.toNat / 128))).2 ++ []) := by
    rw [allocGlades_one, if_neg (Bool.eq_false_iff.1 new), admits]
    rfl
  obtain ⟨w, held⟩ := placeLine_glade sixteen new admits
  have zero := readAt_newGlade held
  rw [glade_start good] at zero
  have performs := glalloc_performs good one h alloc
  exact ⟨_, _, performs, held.gladeLine rfl, (placeLine_frame ..).1, zero⟩

/-- GLFREE of one line (R91): refused where it is not allocated, else its way is given up. -/
theorem glfree_one (h : s.mbRuns 0x11 a b) :
    (s.mem.gladeLine (a.toNat / 128) = false → AnswersWith (exec .glfree s) s 0x11 2 a 0) ∧
    (s.mem.gladeLine (a.toNat / 128) = true → AnswersWith (exec .glfree s) { s with mem := s.mem.freeGlade (a.toNat / 128) } 0x11 0 0 1) := by
  have single : (List.range (b.toNat / 128)).map (fun i => a.toNat / 128 + i) = [a.toNat / 128] := by rw [one]; rfl
  refine ⟨fun absent => step_answers (exec_glfree s) h ((if_neg good).trans ?_), fun held => step_answers (exec_glfree s) h ((if_neg good).trans ?_)⟩
  · simp only [single, List.find?_cons, absent, glade_address good, Bool.not_false]
  · simp only [single, List.find?_cons, held, List.find?_nil, Bool.not_true, List.foldl_cons, List.foldl_nil]
    rw [one]
    rfl

end

/-- The way of a set that CWRET names retired. -/
def retireWay (m : Mem) (n w : Nat) : Mem := m.putSet n { m.set n with ways := List.set (m.set n).ways w .retired }

theorem retireWay_retired (m : Mem) (n w : Nat) (lt : w < (m.set n).ways.length) : ((retireWay m n w).set n).ways.getD w .invalid = .retired := by
  rw [retireWay, set_putSet_self, getD_set_ways _ _ _ _ lt, if_pos rfl]

section
variable {s : State} {a b : W64} (h : s.mbRuns 0x12 a b)
include h

theorem cwret_retired (retired : (s.mem.set (bits a 0 20)).ways.getD (bits a 20 4) .invalid = .retired) : AnswersWith (exec .cwret s) s 0x12 2 0 0 :=
  step_answers (exec_cwret s) h (if_pos retired)

variable (kept : (s.mem.set (bits a 0 20)).ways.getD (bits a 20 4) .invalid ≠ .retired)
include kept

theorem cwret_full (full : (s.mem.set (bits a 0 20)).usable - 2 ≤ (s.mem.set (bits a 0 20)).pinned) : AnswersWith (exec .cwret s) s 0x12 1 0 0 :=
  step_answers (exec_cwret s) h ((if_neg kept).trans (if_pos full))

/-- R103: CWRET moves or writes back what the way holds, and retires it. -/
theorem cwret_retires (sixteen : (s.mem.set (bits a 0 20)).ways.length = 16)
    (room : (s.mem.set (bits a 0 20)).pinned < (s.mem.set (bits a 0 20)).usable - 2) :
    ∃ m l, AnswersWith (exec .cwret s) { s with mem := m, hk := { s.hk with recs := l } } 0x12 0 0 0 ∧
      (m.set (bits a 0 20)).ways.getD (bits a 20 4) .invalid = .retired := by
  have lt : bits a 20 4 < (s.mem.set (bits a 0 20)).ways.length := sixteen ▸ Nat.mod_lt _ (by decide)
  have performs := fun u hu => step_answers (u := u) (st := 0) (w1 := 0) (w2 := 0) (exec_cwret s) h ((if_neg kept).trans ((if_neg (Nat.not_le.2 room)).trans hu))
  rcases way : (s.mem.set (bits a 0 20)).ways.getD (bits a 20 4) .invalid with _ | _ | l
  · refine ⟨retireWay s.mem (bits a 0 20) (bits a 20 4), s.hk.recs, performs _ ?_, retireWay_retired _ _ _ lt⟩
    rw [way]
    rfl
  · exact absurd way kept
  · by_cases glade : l.home = 14
    · have moved := placeLine_retired l (retireWay_retired s.mem _ _ lt)
      refine ⟨_, _, performs ({ s with mem := ((retireWay s.mem (bits a 0 20) (bits a 20 4)).placeLine l).1 }.addRecs
        ((retireWay s.mem (bits a 0 20) (bits a 20 4)).placeLine l).2) ?_, moved⟩
      rw [way]
      exact if_pos glade
    · have same := set_congr (writeBack_frame s.mem l).canopy (n := bits a 0 20)
      refine ⟨_, _, performs ({ s with mem := retireWay (s.mem.writeBack l).1 (bits a 0 20) (bits a 20 4) }.addRecs (s.mem.writeBack l).2) ?_,
        retireWay_retired _ _ _ (same ▸ lt)⟩
      rw [way]
      exact if_neg glade

end

/-! ### Debug (R409) -/

section
variable {s : State} {a b : W64} {c : CoreId} (named : s.pairCore (coreId (bits a 0 6)) = c)
include named

theorem dbgctl_answers (h : s.mbRuns 0x20 a b) :
    if s.outOfService c = true then AnswersWith (exec .dbgctl s) s 0x20 1 0 0
    else AnswersWith (exec .dbgctl s) (s.setCore c { s.core c with
      mode := { (s.core c).mode with dbgEn := a.getLsbD 8, dbgStep := a.getLsbD 9, dbgHalt := a.getLsbD 10 && !(s.core c).mode.stopped } }) 0x20 0 0 0 := by
  subst named
  split
  · next out => exact step_answers (exec_dbgctl s) h (if_pos out)
  · next out => exact step_answers (exec_dbgctl s) h (if_neg out)

theorem dbggo_answers (h : s.mbRuns 0x21 a b) :
    if s.outOfService c = true then AnswersWith (exec .dbggo s) s 0x21 1 0 0
    else if (s.core c).mode.stopped = false then AnswersWith (exec .dbggo s) s 0x21 2 0 0
    else AnswersWith (exec .dbggo s) (s.setCore c { s.core c with mode := { (s.core c).mode with stopped := false } }) 0x21 0 0 0 := by
  subst named
  split
  · next out => exact step_answers (exec_dbggo s) h (if_pos out)
  · next out =>
    split
    · next runs => exact step_answers (exec_dbggo s) h ((if_neg out).trans (if_pos (by rw [runs]; rfl)))
    · next stopped => exact step_answers (exec_dbggo s) h ((if_neg out).trans (if_neg (by simpa using stopped)))

theorem dbgrd_refuses (h : s.mbRuns 0x22 a b) :
    (s.outOfService c = true → AnswersWith (exec .dbgrd s) s 0x22 1 0 0) ∧
    (¬ s.outOfService c = true → (s.core c).mode.stopped = false → AnswersWith (exec .dbgrd s) s 0x22 2 0 0) := by
  subst named
  exact ⟨fun out => step_answers (exec_dbgrd s) h (if_pos out),
    fun out runs => step_answers (exec_dbgrd s) h ((if_neg out).trans (if_pos (by rw [runs]; rfl)))⟩

/-- DBGRD of a stopped core answers the value of what it names, and a free one where it names nothing. -/
theorem dbgrd_reads (h : s.mbRuns 0x22 a b) (out : ¬ s.outOfService c = true) (stopped : ¬ (s.core c).mode.stopped = false) :
    (∀ v, dbgValue s c (bits b 12 4) (bits b 0 12) = some v → AnswersWith (exec .dbgrd s) s 0x22 0 v 0) ∧
    (dbgValue s c (bits b 12 4) (bits b 0 12) = none →
      AnswersWith (exec .dbgrd s) { s with freeCtr := s.freeCtr + 1 } 0x22 0 (Config.word s.freeCtr) 0) := by
  subst named
  have running : ¬ (!(s.core (s.pairCore (coreId (bits a 0 6)))).mode.stopped) = true := by simpa using stopped
  exact ⟨fun v value => step_answers (exec_dbgrd s) h ((if_neg out).trans ((if_neg running).trans (by rw [value]))),
    fun none => step_answers (exec_dbgrd s) h ((if_neg out).trans ((if_neg running).trans (by rw [none]; rfl)))⟩

end

theorem dbgValue_x (s : State) (c : CoreId) (x : BitVec 6) : dbgValue s c 0 x.toNat = some ((s.core c).regs.getX x) := by
  rw [dbgValue, if_pos x.isLt, BitVec.ofNat_toNat, BitVec.setWidth_eq]

theorem dbgValue_p (s : State) (c : CoreId) (x : Fin 96) : dbgValue s c 1 x.val = some (if (s.core c).regs.getP x then 1 else 0) := dif_pos x.isLt

theorem dbgValue_unnamed (s : State) (c : CoreId) (sp i : Nat) (h : 5 ≤ sp) : dbgValue s c sp i = none := by
  match sp, h with
  | _ + 5, _ => rfl

/-! ### Microprogram words -/

section
variable {s : State} {a b : W64} {n c : CoreId} (names : coreId (bits a 16 6) = n) (named : s.pairCore n = c) (h : s.mbRuns 0x30 a b)
include names named h

theorem mpwrite_refuses (out : s.outOfService n = true ∨ s.outOfService c = true) : AnswersWith (exec .mpwrite s) s 0x30 2 0 0 := by
  subst names named
  exact step_answers (exec_mpwrite s) h (if_pos (Bool.or_eq_true_iff.2 out))

variable (out : ¬ (s.outOfService n = true ∨ s.outOfService c = true))
include out

theorem mpwrite_pinned (pinned : (s.core c).eng.cim.pinned (bits a 0 12) = true) : AnswersWith (exec .mpwrite s) s 0x30 1 0 0 := by
  subst names named
  exact step_answers (exec_mpwrite s) h ((if_neg (mt Bool.or_eq_true_iff.1 out)).trans (if_pos pinned))

theorem mpwrite_writes (free : (s.core c).eng.cim.pinned (bits a 0 12) = false) :
    AnswersWith (exec .mpwrite s) (s.setCore c { s.core c with eng.cim.store := mwr 0 (s.core c).eng.cim.store (bits a 0 12) b }) 0x30 0 0 0 := by
  subst names named
  exact step_answers (exec_mpwrite s) h ((if_neg (mt Bool.or_eq_true_iff.1 out)).trans (if_neg (Bool.eq_false_iff.1 free)))

end

/-! ### Translations -/

/-- The word of a host's invalidation (R337): its domain, and the bit that names every address. -/
def hostInvWord (a l : W64) : W64 := BitVec.ofNat 64 (bits a 56 8 + if l = BitVec.allOnes 64 then 2 ^ 11 else 0)

/-- The fields of the invalidation that the command stands for. -/
theorem hostInvWord_fields (a l : W64) :
    (hostInvWord a l).getLsbD 10 = false ∧ (hostInvWord a l).extractLsb' 0 8 = a.extractLsb' 56 8 ∧
      ((hostInvWord a l).getLsbD 11 = true ↔ l = BitVec.allOnes 64) := by
  have domain : (a.extractLsb' 56 8).toNat < 256 := BitVec.isLt _
  rw [← Bool.not_eq_true, ← bits_one_iff, ← bits_one_iff, ← BitVec.toNat_inj, hostInvWord, show bits a 56 8 = (a.extractLsb' 56 8).toNat from rfl]
  generalize (a.extractLsb' 56 8).toNat = d at domain
  by_cases all : l = BitVec.allOnes 64
  · simp only [all, if_true, iff_true, BitVec.extractLsb'_toNat, bits, BitVec.toNat_ofNat, Nat.shiftRight_eq_div_pow]
    omega
  · simp only [all, if_false, iff_false, BitVec.extractLsb'_toNat, bits, BitVec.toNat_ofNat, Nat.shiftRight_eq_div_pow]
    omega

/-- The address of a host's invalidation, its domain taken off. -/
theorem hostInv_address (a : W64) : (a &&& 0xFFFFFFFFFFFFFF).extractLsb' 16 40 = a.extractLsb' 16 40 := by
  have mask : (a &&& 0xFFFFFFFFFFFFFF).toNat = a.toNat % 2 ^ 56 := (BitVec.toNat_and ..).trans (Nat.and_two_pow_sub_one_eq_mod a.toNat 56)
  refine BitVec.eq_of_toNat_eq ?_
  rw [BitVec.extractLsb'_toNat, BitVec.extractLsb'_toNat, mask, Nat.shiftRight_eq_div_pow, Nat.shiftRight_eq_div_pow]
  omega

/-- What a host's invalidation drops. -/
theorem hostInv_hit (a l : W64) (e : TlbEnt) : tlbHit (a &&& 0xFFFFFFFFFFFFFF) l (hostInvWord a l) e ↔
    e.domain = (a.extractLsb' 56 8).toNat ∧ (l = BitVec.allOnes 64 ∨
      (l ≠ 0 ∧ e.va < (a.extractLsb' 16 40).toNat * 65536 + l.toNat ∧ (a.extractLsb' 16 40).toNat * 65536 < e.va + leafSpan e.level)) := by
  obtain ⟨one, domain, all⟩ := hostInvWord_fields a l
  rw [tlbHit, one, domain, all, hostInv_address, or_iff_right Bool.false_ne_true]

/-- A host's invalidation reaches the TLB of every core and of every grove. -/
theorem hostInv_drops (s : State) (a l : W64) :
    let u := s.tlbInvalidate 0 3 (a &&& 0xFFFFFFFFFFFFFF) l (hostInvWord a l)
    let hit := tlbHit (a &&& 0xFFFFFFFFFFFFFF) l (hostInvWord a l)
    (∀ d e, e ∈ (u.core d).ms.tlb ↔ e ∈ (s.core d).ms.tlb ∧ ¬ hit e) ∧ ∀ (g : Fin 8) e, e ∈ u.mem.groveTlb.get g ↔ e ∈ s.mem.groveTlb.get g ∧ ¬ hit e := by
  obtain ⟨cores, groves, -⟩ := tlbInvalidate_drops s 0 (a &&& 0xFFFFFFFFFFFFFF) l (hostInvWord a l) 3
  have device : 2 ≤ 3 := by decide
  exact ⟨fun d e => (cores d e).trans (and_congr_right' (not_congr (and_iff_right (.inl device)))),
    fun g e => (groves g e).trans (and_congr_right' (not_congr (and_iff_right (.inl device))))⟩

theorem hostTlbinv_answers {s : State} {a b : W64} (h : s.mbRuns 0x31 a b) :
    AnswersWith (exec .hostTlbinv s) (s.tlbInvalidate 0 3 (a &&& 0xFFFFFFFFFFFFFF) b (hostInvWord a b)) 0x31 0 0 0 :=
  step_answers (exec_hostTlbinv s) h rfl

/-! ### Keys (R416) -/

theorem keyLoaded_iff (m : Mem) (id : Nat) : (id = 0 || m.keyLoaded id) = true ↔ id = 0 ∨ mrd 0 m.keys id ≠ 0 := by
  simp only [Mem.keyLoaded, Bool.or_eq_true, decide_eq_true_eq]
  tauto

theorem keyAbsent_iff (m : Mem) (id : Nat) : (id = 0 || !m.keyLoaded id) = true ↔ id = 0 ∨ mrd 0 m.keys id = 0 := by
  simp only [Mem.keyLoaded, Bool.or_eq_true, decide_eq_true_eq, Bool.not_eq_true', Bool.or_eq_false_iff, decide_eq_false_iff_not, not_not]
  tauto

section
variable {s : State} {a b : W64} (h : s.mbRuns 0x38 a b)
include h

theorem keyload_loaded (loaded : bits a 0 8 = 0 ∨ mrd 0 s.mem.keys (bits a 0 8) ≠ 0) : AnswersWith (exec .keyload s) s 0x38 1 0 0 :=
  step_answers (exec_keyload s) h (if_pos ((keyLoaded_iff ..).2 loaded))

variable (new : ¬ (bits a 0 8 = 0 ∨ mrd 0 s.mem.keys (bits a 0 8) ≠ 0))
include new

theorem keyload_undecrypted (none : Config.decryptKeyBlock (rdBytes s.hk.mbData 0 384) = none) : AnswersWith (exec .keyload s) s 0x38 3 0 0 := by
  refine step_answers (exec_keyload s) h ((if_neg (mt (keyLoaded_iff ..).1 new)).trans ?_)
  rw [none]

variable {l : List Byte} (block : Config.decryptKeyBlock (rdBytes s.hk.mbData 0 384) = some l)
include block

theorem keyload_malformed (bad : l.length ≠ 72 ∨ (l.getD 64 0).toNat ≠ bits a 0 8) : AnswersWith (exec .keyload s) s 0x38 3 0 0 := by
  refine step_answers (exec_keyload s) h ((if_neg (mt (keyLoaded_iff ..).1 new)).trans ?_)
  rw [block]
  exact if_pos (by simpa using bad)

theorem keyload_loads (length : l.length = 72) (key : (l.getD 64 0).toNat = bits a 0 8) :
    AnswersWith (exec .keyload s) { s with mem := { s.mem with keys := mwr 0 s.mem.keys (bits a 0 8) (leNat (l.take 64) + 1) } } 0x38 0 0 0 := by
  refine step_answers (exec_keyload s) h ((if_neg (mt (keyLoaded_iff ..).1 new)).trans ?_)
  rw [block]
  exact if_neg (by simpa [length] using key)

end

/-- The lines of a key dropped leave the keys and the memory beyond the package. -/
theorem dropKey_frame (m : Mem) (id : Nat) : (m.dropKey id).1.ext = m.ext ∧ (m.dropKey id).1.keys = m.keys := by
  refine List.foldlRecOn (motive := fun r : Mem × List ErrRec => r.1.ext = m.ext ∧ r.1.keys = m.keys) _ _ ⟨rfl, rfl⟩ fun r hr e _ => ?_
  refine List.foldlRecOn (motive := fun r : Mem × List ErrRec => r.1.ext = m.ext ∧ r.1.keys = m.keys) _ _ hr fun r hr w _ => ?_
  split
  · next l _ =>
    split
    · exact ⟨(writeBack_frame r.1 l).ext.trans hr.1, (writeBack_frame r.1 l).keys.trans hr.2⟩
    · exact hr
  · exact hr

section
variable {s : State} {a b : W64} (h : s.mbRuns 0x39 a b)
include h

theorem keyunld_absent (absent : bits a 0 8 = 0 ∨ mrd 0 s.mem.keys (bits a 0 8) = 0) : AnswersWith (exec .keyunld s) s 0x39 2 0 0 :=
  step_answers (exec_keyunld s) h (if_pos ((keyAbsent_iff ..).2 absent))

theorem keyunld_unloads (loaded : ¬ (bits a 0 8 = 0 ∨ mrd 0 s.mem.keys (bits a 0 8) = 0)) :
    ∃ m l, AnswersWith (exec .keyunld s) { s with mem := m, hk := { s.hk with recs := l } } 0x39 0 0 0 ∧ mrd 0 m.keys (bits a 0 8) = 0 ∧
      (∀ j, j ≠ bits a 0 8 → mrd 0 m.keys j = mrd 0 s.mem.keys j) ∧ m.ext = s.mem.ext := by
  obtain ⟨ext, keys⟩ := dropKey_frame s.mem (bits a 0 8)
  have performs : AnswersWith (exec .keyunld s)
      ({ s with mem := { (s.mem.dropKey (bits a 0 8)).1 with keys := mwr 0 (s.mem.dropKey (bits a 0 8)).1.keys (bits a 0 8) 0 } }.addRecs
        (s.mem.dropKey (bits a 0 8)).2) 0x39 0 0 0 := step_answers (exec_keyunld s) h (if_neg (mt (keyAbsent_iff ..).1 loaded))
  generalize (s.mem.dropKey (bits a 0 8)).1 = m at ext keys performs
  refine ⟨{ m with keys := mwr 0 m.keys (bits a 0 8) 0 }, _, performs, mrd_mwr_self 0 m.keys (bits a 0 8) 0, fun j hj => ?_, ext⟩
  rw [← keys]
  exact mrd_mwr_other 0 0 m.keys (bits a 0 8) j 0 hj

end

/-! ### The obligation -/

/-- A step of the mailbox while another command is sampled, or none, or one that is refused (R410, R414). -/
theorem mailboxStep_transport (s : State) (p : Instr × Nat) (hp : p ∈ mailboxSteps) : (s.hk.mbCmd = none → exec p.1 s = .next s) ∧
    ∀ c, s.hk.mbCmd = some c →
      let op := bits (c.words.getD 0 0) 0 8
      (s.hk.ready = false → op ≠ 1 → AnswersWith (exec p.1 s) s op 0xFE 0 0) ∧
      (s.hk.ready = true → op ∉ mailboxOps → AnswersWith (exec p.1 s) s op 0xFF 0 0) ∧
      ((s.hk.ready = true ∨ op = 1) → op ∈ mailboxOps → op ≠ p.2 → exec p.1 s = .next s) := by
  obtain ⟨f, runs⟩ := mailboxStep_runs p hp
  rw [runs s]
  exact ⟨mbRun_idle p.2 f, fun c running => ⟨fun unready other => mbRun_refuses p.2 f running (mbRefuses_unready unready other),
    fun ready unknown => mbRun_refuses p.2 f running (mbRefuses_unknown ready unknown),
    fun ready known other => mbRun_other p.2 f running (mbRefuses_none s.hk _ ready known) other⟩⟩

/-- The debug commands (R409). -/
theorem debug_answers (s : State) (op : Nat) (a b : W64) (h : s.mbRuns op a b) :
    let c := s.pairCore (coreId (bits a 0 6))
    let k := s.core c
    (op = 0x20 → if s.outOfService c = true then AnswersWith (exec .dbgctl s) s op 1 0 0 else AnswersWith (exec .dbgctl s)
      (s.setCore c { k with mode := { k.mode with dbgEn := a.getLsbD 8, dbgStep := a.getLsbD 9, dbgHalt := a.getLsbD 10 && !k.mode.stopped } }) op 0 0 0) ∧
    (op = 0x21 → if s.outOfService c = true then AnswersWith (exec .dbggo s) s op 1 0 0
      else if k.mode.stopped = false then AnswersWith (exec .dbggo s) s op 2 0 0
      else AnswersWith (exec .dbggo s) (s.setCore c { k with mode := { k.mode with stopped := false } }) op 0 0 0) ∧
    (op = 0x22 → if s.outOfService c = true then AnswersWith (exec .dbgrd s) s op 1 0 0
      else if k.mode.stopped = false then AnswersWith (exec .dbgrd s) s op 2 0 0
      else
        (∀ x : BitVec 6, bits b 12 4 = 0 → bits b 0 12 = x.toNat → AnswersWith (exec .dbgrd s) s op 0 (k.regs.getX x) 0) ∧
        (∀ x : Fin 96, bits b 12 4 = 1 → bits b 0 12 = x.val → AnswersWith (exec .dbgrd s) s op 0 (if k.regs.getP x then 1 else 0) 0) ∧
        (bits b 12 4 = 2 → AnswersWith (exec .dbgrd s) s op 0
          ((k.vAt (k.vRow (BitVec.ofNat 6 (bits b 0 12 / 64)))).data.extractLsb' (64 * (bits b 0 12 % 64)) 64) 0) ∧
        (5 ≤ bits b 12 4 → ∃ v, AnswersWith (exec .dbgrd s) { s with freeCtr := s.freeCtr + 1 } op 0 v 0)) := by
  intro c k
  refine ⟨?_, ?_, ?_⟩ <;> rintro rfl
  · exact dbgctl_answers rfl h
  · exact dbggo_answers rfl h
  · obtain ⟨absent, runs⟩ := dbgrd_refuses (c := c) rfl h
    split
    · next out => exact absent out
    · next out =>
      split
      · next running => exact runs out running
      · next stopped =>
        obtain ⟨value, free⟩ := dbgrd_reads (c := c) rfl h out stopped
        exact ⟨fun x sp i => value _ (by rw [sp, i, dbgValue_x]), fun x sp i => value _ (by rw [sp, i, dbgValue_p]),
          fun sp => value _ (by rw [sp]; rfl), fun sp => ⟨_, free (dbgValue_unnamed s c _ _ sp)⟩⟩

/-- Settles O56: each command runs through `State.mbRun`, so each clause is what the function of its opcode gives. -/
theorem mailboxCommandsAnswer : Obligations.MailboxCommandsAnswer := by
  unfold Obligations.MailboxCommandsAnswer
  intro s
  refine ⟨exec_mbstatRead s, mailboxStep_transport s, attest_answers s, fun a b _ => ?_, fun a b h sixteen => ?_, debug_answers s, fun a b h => ?_,
    fun a b h => ?_, fun a b h => ?_, fun a b h => ⟨keyunld_absent h, fun id loaded => keyunld_unloads h (not_or.2 ⟨id, loaded⟩)⟩⟩
  · have bad := gladeRangeBad_iff a.toNat b.toNat
    refine ⟨fun h x => glalloc_badRange h (bad.2 x), fun h x => glfree_badRange h (bad.2 x), fun good one sixteen => ?_⟩
    have good := mt bad.1 good
    refine ⟨fun h held => glalloc_fails good one h (by decide) ?_, fun h new full => glalloc_fails good one h (by decide) ?_,
      fun h => glalloc_pins good one h sixteen, fun h => (glfree_one good one h).1,
      fun h held => ⟨_, (glfree_one good one h).2 held, freeGlade_frame ..⟩⟩
    · rw [allocGlades_one, if_pos held]
    · rw [allocGlades_one, if_neg (Bool.eq_false_iff.1 new), full]
      rfl
  · exact ⟨cwret_retired h, cwret_full h, fun kept => cwret_retires h kept sixteen⟩
  · exact ⟨mpwrite_refuses rfl rfl h, mpwrite_pinned rfl rfl h, mpwrite_writes rfl rfl h⟩
  · obtain ⟨cores, groves⟩ := hostInv_drops s a b
    exact ⟨_, hostTlbinv_answers h, rfl, rfl, rfl, fun d e => (cores d e).trans (and_congr_right' (not_congr (hostInv_hit a b e))),
      fun g e => (groves g e).trans (and_congr_right' (not_congr (hostInv_hit a b e)))⟩
  · refine ⟨keyload_loaded h, fun id new => ?_⟩
    have new := not_or.2 ⟨id, not_not.2 new⟩
    refine ⟨keyload_undecrypted h new, fun l => keyload_malformed h new, fun l block length key =>
      ⟨_, keyload_loads h new block length key, ?_, fun j hj => mrd_mwr_other 0 0 s.mem.keys _ j _ hj⟩⟩
    exact (mrd_mwr_self 0 s.mem.keys _ _).trans_ne (Nat.succ_ne_zero _)

end Sys2Proof.Scope
end

section
/-! Signals at their points in the commit order (R113, R309 to R318, R340, R375). -/

namespace Sys2Proof.Scope

open Sys2Proof Sys2Proof.Machine

/-! ### Tokens that end, and waits (R122, R402) -/

theorem token_endToken (k : Core) (ok : Bool) {t u : Nat} (ht : t < 32) (hu : u < 32) : (k.endToken t ok).token u = k.tokensAfter (some t) ok u := by
  simp only [Core.endToken, Core.tokensAfter, Option.some.injEq]
  by_cases pending : k.token t = 1
  · rw [if_pos pending, token_setToken k t u _ ht hu]
    by_cases same : u = t
    · simp only [same, pending, and_self, if_true]
    · rw [if_neg same, if_neg fun h => same h.1.symm]
  · rw [if_neg pending, if_neg]
    rintro ⟨rfl, h⟩
    exact pending h

/-- A core whose engine ends a token, where it was given one. -/
def endsToken (k : Core) (tok : Option Nat) (ok : Bool) : Core := tok.elim k fun t => k.endToken t ok

theorem endsToken_eq (k : Core) (tok : Option Nat) (ok : Bool) : ∃ ts, endsToken k tok ok = { k with eng.tokens := ts } := by
  cases tok with
  | none => exact ⟨_, rfl⟩
  | some t =>
    rw [endsToken, Option.elim_some, Core.endToken]
    split
    · exact ⟨_, rfl⟩
    · exact ⟨_, rfl⟩

theorem token_endsToken (k : Core) (tok : Option Nat) (ok : Bool) (lt : ∀ t, tok = some t → t < 32) {u : Nat} (hu : u < 32) :
    (endsToken k tok ok).token u = k.tokensAfter tok ok u := by
  cases tok with
  | none => rfl
  | some t => exact token_endToken k ok (lt t rfl) hu

/-- The state of a wait entry (R122). -/
theorem waitState_pending (k : Core) (t : Nat) : k.waitState t = 1 ↔ t < 32 ∧ k.token t = 1 := by
  rw [Core.waitState]
  split
  · omega
  · next h => rw [← BitVec.toNat_inj, and_iff_right (by omega)]; rfl

theorem waitState_failed (k : Core) (t : Nat) : k.waitState t = 3 ↔ 32 ≤ t ∨ k.token t = 3 := by
  rw [Core.waitState]
  split
  · next h => exact iff_of_true rfl (.inl h)
  · next h => rw [← BitVec.toNat_inj, or_iff_right h]; rfl

theorem waits_iff (k : Core) (l : List Nat) : (l.any fun t => decide (k.waitState t = 1)) = true ↔ k.waits l := by
  simp only [List.any_eq_true, decide_eq_true_eq, waitState_pending, Core.waits]

theorem waitFailed_iff (k : Core) (l : List Nat) : (l.any fun t => decide (k.waitState t = 3)) = true ↔ k.waitFailed l := by
  simp only [List.any_eq_true, decide_eq_true_eq, waitState_failed, Core.waitFailed]

/-! ### A signal at its point -/

theorem exec_signalPerform (s : State) : exec .signalPerform s = execSignalPerform s := rfl

/-- A free signal, atomics and handle operations apart, is performed and leaves the commit order. -/
theorem signalPerform_performs {s : State} {w : Comm} {g : Signal} (free : (s.core s.cur.core).freeItem s.cur.k w) (what : w.what = .signal g)
    (plain : g.plain = true) : exec .signalPerform s = .next ((s.dropComm s.cur.core s.cur.k).performSignal s.cur.core w g) := by
  simp only [exec_signalPerform, execSignalPerform, freeItem_at free, what, plain, signalReady_of_freeItem free, Bool.and_self, if_true]

theorem task_dropComm (s : State) (c d : CoreId) (i : Nat) : ((s.dropComm c i).core d).task = (s.core d).task := by
  rw [State.dropComm, core_modCore]
  split <;> rfl

theorem domain_dropComm (s : State) (c d : CoreId) (i : Nat) : ((s.dropComm c i).core d).domain = (s.core d).domain := by
  rw [Core.domain, task_dropComm, Core.domain]

/-! ### Flags and groups (R309, R310) -/

theorem mem_maskCores (m : W64) (d : CoreId) : d ∈ maskCores m ↔ m.getLsbD d.val = true := by simp [maskCores]

/-- One flag written on the cores of a list. -/
theorem core_foldl_setFlag (f : Fin 16) (v : W32) (d : CoreId) (l : List CoreId) (s : State) :
    (l.foldl (fun s t => s.setFlag t f v) s).core d =
      if d ∈ l then { s.core d with eng.flags := (s.core d).eng.flags.set f v } else s.core d := by
  induction l generalizing s with
  | nil => rfl
  | cons t l ih =>
    rw [List.foldl_cons, ih, State.setFlag, core_modCore]
    by_cases here : d = t <;> by_cases later : d ∈ l <;> simp [here, later, Vector.set_set]

theorem SameDevice.refl (s : State) : SameDevice s s := ⟨rfl, rfl, rfl, rfl, rfl⟩

/-- Flags written touch nothing beside the cores. -/
theorem foldl_setFlag_device (f : Fin 16) (v : W32) (l : List CoreId) (s : State) : SameDevice s (l.foldl (fun s t => s.setFlag t f v) s) :=
  List.foldlRecOn l _ (SameDevice.refl s) fun _ h _ _ => ⟨h.mem, h.sched, h.sysCopies, h.queues, h.hk⟩

theorem groupKey_dropComm (s : State) (c : CoreId) (i : Nat) (g : BitVec 3) : (s.dropComm c i).groupKey c g = s.groupKey c g := by
  rw [State.groupKey, task_dropComm, State.groupKey]

/-- A group mask changed by a signal that has left the commit order. -/
theorem setGroup_dropComm (s : State) (c : CoreId) (i : Nat) (g : BitVec 3) (b : Bool) :
    ∃ t, (s.dropComm c i).setGroup c g b = t ∧ t.cores = (s.dropComm c i).cores ∧ t.mem = s.mem ∧ t.hk = s.hk ∧
      t.sched = { s.sched with groups := t.sched.groups } ∧
      ∀ n, mrd 0 t.sched.groups n = if n = s.groupKey c g
        then (if b then mrd 0 s.sched.groups n ||| (1 <<< c.val : W64) else mrd 0 s.sched.groups n &&& ~~~(1 <<< c.val : W64))
        else mrd 0 s.sched.groups n := by
  refine ⟨_, rfl, rfl, rfl, rfl, rfl, fun n => ?_⟩
  rw [← groupKey_dropComm s c i g]
  refine (mrd_mwr_if ..).trans ?_
  split
  · next h => rw [h]; rfl
  · rfl

theorem setCore_core (s : State) (c : CoreId) : s.setCore c (s.core c) = s := by
  have same : s.cores.set c.val (s.cores.get c) = s.cores := Vector.set_getElem_self c.isLt
  rw [State.setCore, State.core, same]

/-! ### Launches and collectives (R318, R375) -/

theorem addLaunch_eq (x : Sched) (r : LaunchReq) : x.addLaunch r =
    if x.launches.length < 64 ∧ x.waiting = [] then { x with launches := x.launches ++ [r] } else { x with waiting := x.waiting ++ [r] } := by
  simp only [Sched.addLaunch, Bool.and_eq_true, decide_eq_true_eq, List.isEmpty_iff]

/-- A collective whose participants are all of the gang of its core joins the waiting ones. -/
theorem startColl_joins {s : State} {r : CollReq}
    (together : ∀ q : CoreId, r.mask.getLsbD q.val = true → (s.core q).task.map Task.gang = (s.core r.core).task.map Task.gang) :
    s.startColl r = { s with sched := { s.sched with colls := s.sched.colls ++ [r] } } := by
  refine if_neg ?_
  simp only [List.any_eq_true, mem_maskCores, decide_eq_true_eq]
  rintro ⟨q, hq, apart⟩
  exact apart (together q hq)

/-- A collective with a participant of another gang, or of none, ends its token as failed. -/
theorem startColl_fails {s : State} {r : CollReq} (new : r ∉ s.sched.colls)
    (apart : ¬ ∀ q : CoreId, r.mask.getLsbD q.val = true → (s.core q).task.map Task.gang = (s.core r.core).task.map Task.gang) :
    s.startColl r = s.modCore r.core fun k => endsToken k r.token false := by
  have erased : (s.sched.colls ++ [r]).erase r = s.sched.colls := by
    rw [List.erase_append_right _ new, List.erase_cons_head, List.append_nil]
  refine (if_pos ?_).trans ?_
  · push Not at apart
    obtain ⟨q, hq, other⟩ := apart
    exact List.any_eq_true.2 ⟨q, (mem_maskCores ..).2 hq, decide_eq_true other⟩
  · unfold State.endColl
    cases r.token with
    | none =>
      simp only [erased]
      exact (setCore_core s r.core).symm
    | some t =>
      simp only [State.modCore_sched, erased]
      rfl

/-! ### What each signal does -/

section
variable {s : State} {w : Comm} (free : (s.core s.cur.core).freeItem s.cur.k w)
include free

theorem signalPerform_fset {m : W64} {f : Fin 16} {v : W32} (what : w.what = .signal (.fset m f v)) :
    ∃ t, exec .signalPerform s = .next t ∧ SameDevice s t ∧ ∀ d, t.core d =
      if m.getLsbD d.val then { (s.dropComm s.cur.core s.cur.k).core d with
        eng.flags := ((s.dropComm s.cur.core s.cur.k).core d).eng.flags.set f v } else (s.dropComm s.cur.core s.cur.k).core d := by
  obtain ⟨mem, sched, sysCopies, queues, hk⟩ := foldl_setFlag_device f v (maskCores m) (s.dropComm s.cur.core s.cur.k)
  refine ⟨_, signalPerform_performs free what rfl, ⟨mem, sched, sysCopies, queues, hk⟩, fun d => ?_⟩
  refine (core_foldl_setFlag f v d _ _).trans ?_
  simp only [mem_maskCores]

/-- A copy trigger adds its copy, with word 6 from its own operand (R315). -/
theorem signalPerform_cpy {im : BitVec 512} {x p : W64} (what : w.what = .signal (.cpy im x p)) :
    ∃ e : CopyEnt, exec .signalPerform s =
        .next ((s.dropComm s.cur.core s.cur.k).modCore s.cur.core fun y => { y with eng.copies := y.eng.copies ++ [e] }) ∧
      (∀ j, j < 8 → e.words[j]? = some (if j = 6 then x else im.extractLsb' (64 * j) 64)) ∧ e.core = some s.cur.core ∧
      e.domain = (s.core s.cur.core).domain ∧ e.waits = w.waits ∧ e.token = produceToken p ∧ e.queue = none ∧ e.caf = none := by
  refine ⟨_, signalPerform_performs free what rfl, fun j hj => ?_, rfl, domain_dropComm .., rfl, rfl, rfl, rfl⟩
  rw [List.getElem?_map, List.getElem?_range hj]
  rfl

/-- A near-memory command joins the reads of its stream or the return-free ones (R312). -/
theorem signalPerform_nmCmd {n : Fin 4} {r : Row} {segs : List Seg} (what : w.what = .signal (.nmCmd n r segs)) :
    let does := fun f => exec .signalPerform s = .next ((s.dropComm s.cur.core s.cur.k).modCore s.cur.core f)
    (nmOpOf r = 1 → does fun z => { z with eng.nm := z.eng.nm.set n { z.eng.nm.get n with cmds := (z.eng.nm.get n).cmds ++ [(w.id, r, segs)] } }) ∧
    (nmOpOf r ≠ 1 → does fun z => { z with eng.nrfCmds := z.eng.nrfCmds ++ [(w.id, n.val, r, segs)] }) := by
  have performs := signalPerform_performs free what rfl
  refine ⟨fun one => ?_, fun other => ?_⟩
  · simpa only [State.performSignal, one, if_true] using performs
  · simpa only [State.performSignal, other, if_false] using performs

/-- The request that a collective trigger stands for (R316). -/
def requestOf (c : CoreId) (w : Comm) (kind : Nat) (a d m p : W64) : CollReq :=
  { core := c, kind := kind, a := a, c := d, mask := m, waits := w.waits, token := produceToken p }

/-- A collective joins the waiting ones, or fails at once where a participant is not of its gang (R318). -/
theorem signalPerform_coll {kind : Nat} {a d m x p : W64} (what : w.what = .signal (.coll kind a d m x p)) :
    let k := s.core s.cur.core
    let u := s.dropComm s.cur.core s.cur.k
    let r := requestOf s.cur.core w kind a d m p
    let together := ∀ q : CoreId, m.getLsbD q.val = true → (s.core q).task.map Task.gang = k.task.map Task.gang
    (together → exec .signalPerform s = .next { u with sched := { s.sched with colls := s.sched.colls ++ [r] } }) ∧
    (¬ together → r ∉ s.sched.colls → ∃ l, exec .signalPerform s = .next (u.setCore s.cur.core l) ∧
      ∀ t, t < 32 → l.token t = k.tokensAfter (produceToken p) false t) := by
  intro k u r together
  have performs : exec .signalPerform s = .next (u.startColl r) := signalPerform_performs free what rfl
  have gangs : (∀ q : CoreId, r.mask.getLsbD q.val = true → (u.core q).task.map Task.gang = (u.core r.core).task.map Task.gang) ↔ together := by
    simp only [u, task_dropComm]
    exact Iff.rfl
  refine ⟨fun all => ?_, fun apart new => ⟨endsToken (u.core s.cur.core) (produceToken p) false, ?_, fun t ht => ?_⟩⟩
  · rw [performs, startColl_joins (gangs.2 all)]
    rfl
  · rw [performs, startColl_fails (s := u) new (mt gangs.1 apart)]
    rfl
  · rw [token_endsToken _ _ _ (fun t => produceToken_lt p t) ht]
    have tokens : (u.core s.cur.core).token = k.token := by simp only [u, dropComm_eq, State.core_setCore_self]; rfl
    rw [Core.tokensAfter, tokens, Core.tokensAfter]

/-- A launch joins the queue of 64 entries, or waits behind it (R375). -/
theorem signalPerform_launch {b : W64} (what : w.what = .signal (.launch b)) :
    let r : LaunchReq := { v := b, core := some s.cur.core, pend := w.id, domain := (s.core s.cur.core).domain }
    exec .signalPerform s = .next { s.dropComm s.cur.core s.cur.k with sched :=
      if s.sched.launches.length < 64 ∧ s.sched.waiting = [] then { s.sched with launches := s.sched.launches ++ [r] }
      else { s.sched with waiting := s.sched.waiting ++ [r] } } := by
  intro r
  rw [signalPerform_performs free what rfl, ← addLaunch_eq, State.performSignal, domain_dropComm]
  rfl

end

end Sys2Proof.Scope
end

section
/-! Microprogram loads (R268, R337). -/

namespace Sys2Proof.Scope

open Sys2Proof Sys2Proof.Machine

theorem exec_mploadComplete (s : State) : exec .mploadComplete s = execMploadComplete s := rfl

/-! ### The words of a load -/

theorem transX_memRecs (s : State) (dom : Nat) (k : AccKind) (va n : Nat) : MemRecs s (s.transX dom k va n).2 := by
  unfold State.transX
  refine List.foldlRecOn (motive := fun (acc : TransRes × State) => MemRecs s acc.2) _ _ (MemRecs.refl s) fun acc h p _ => ?_
  have piece := h.trans (transPieceX_memRecs acc.2 dom k p.1 p.2)
  split
  · generalize acc.2.transPieceX dom k p.1 p.2 = q at piece ⊢
    obtain ⟨r, t⟩ := q
    cases r <;> exact piece
  · exact h

theorem mpWord_memRecs (s : State) (dom va : Nat) : MemRecs s (s.mpWord dom va).2 := by
  have trans := transX_memRecs s dom .load va 8
  unfold State.mpWord
  generalize s.transX dom .load va 8 = q at trans ⊢
  obtain ⟨r, t⟩ := q
  cases r with
  | ok segs =>
    dsimp only
    split <;> exact trans.trans (MemRecs.putMem t _ _)
  | fault c d a => exact trans
  | miss => exact trans

theorem mpTake_memRecs (s : State) (dom : Nat) (got : Option W64) (va : Nat) : MemRecs s (s.mpTake dom got va).2 := by
  cases got with
  | some w => exact MemRecs.refl s
  | none => exact mpWord_memRecs s dom va

/-- The frame of the words of a load: beside memory, records and the store of its core, with what the load has done of it, nothing changes. -/
structure LoadFrame (c : CoreId) (s t : State) : Prop where
  sched : t.sched = s.sched
  others : SameOthers c s t
  core : ∃ store done got, t.core c = { s.core c with eng.cim.store := store, eng.cim.mpDone := done, eng.cim.mpGot := got }

theorem LoadFrame.refl (c : CoreId) (s : State) : LoadFrame c s s := ⟨rfl, fun _ _ => rfl, _, _, _, rfl⟩

theorem LoadFrame.trans {c : CoreId} {s t u : State} (h : LoadFrame c s t) (h' : LoadFrame c t u) : LoadFrame c s u := by
  obtain ⟨store, done, got, core⟩ := h.core
  obtain ⟨store', done', got', core'⟩ := h'.core
  exact ⟨h'.sched.trans h.sched, fun d hd => (h'.others d hd).trans (h.others d hd), store', done', got', by rw [core', core]⟩

theorem LoadFrame.of_memRecs {c : CoreId} {s t : State} (h : MemRecs s t) : LoadFrame c s t := by
  obtain ⟨m, l, rfl⟩ := h
  exact ⟨rfl, fun _ _ => rfl, _, _, _, rfl⟩

theorem LoadFrame.modCim {c : CoreId} {s : State} {f : Cim → Cim} (hf : ∀ x, ∃ store done got, f x = { x with store := store, mpDone := done, mpGot := got }) :
    LoadFrame c s (s.modCim c f) := by
  obtain ⟨store, done, got, hx⟩ := hf (s.core c).eng.cim
  refine ⟨rfl, fun d hd => State.core_modCore_other _ _ _ _ hd, store, done, got, ?_⟩
  rw [State.modCim, State.core_modCore_self, hx]

theorem mpWords_frame (c : CoreId) (dom : Nat) (skip : Nat → Bool) (got : Nat → Option W64) (va first i n : Nat) (s : State) :
    LoadFrame c s (s.mpWords c dom skip got va first i n).2 := by
  induction n generalizing i s with
  | zero => exact LoadFrame.refl c s
  | succ n ih =>
    rw [State.mpWords]
    split
    · exact ih _ s
    · have word := mpTake_memRecs s dom (got i) (va + 8 * i)
      generalize s.mpTake dom (got i) (va + 8 * i) = q at word ⊢
      obtain ⟨r, t⟩ := q
      cases r with
      | error e => exact LoadFrame.of_memRecs word
      | ok w => exact ((LoadFrame.of_memRecs word).trans (LoadFrame.modCim fun x => ⟨_, _, _, rfl⟩)).trans (ih _ _)

theorem mpEarly_frame (s : State) (c : CoreId) (dom va first tok i : Nat) : LoadFrame c s (s.mpEarly c dom va first tok i) := by
  unfold State.mpEarly
  dsimp only
  split
  · exact LoadFrame.refl c s
  · have word := mpTake_memRecs s dom ((s.core c).eng.cim.mpFetched tok i) (va + 8 * i)
    generalize s.mpTake dom ((s.core c).eng.cim.mpFetched tok i) (va + 8 * i) = q at word ⊢
    obtain ⟨r, t⟩ := q
    cases r with
    | error e => exact LoadFrame.of_memRecs word
    | ok w =>
      refine (LoadFrame.of_memRecs word).trans (LoadFrame.modCim fun x => ?_)
      split <;> exact ⟨_, _, _, rfl⟩

/-! ### The end of a load -/

/-- What a load that ends forgets of its words. -/
def forgetLoad (tok : Option Nat) (x : Cim) : Cim :=
  { x with mpDone := x.mpDone.filter fun e => decide (e.1 ≠ tok.getD 32), mpGot := x.mpGot.filter fun e => decide (e.1 ≠ tok.getD 32) }

/-- A load ends: it leaves its core without what it had of its words, and its token done or failed. -/
def endLoad (s : State) (c : CoreId) (tok : Option Nat) (ok : Bool) : State :=
  s.modCore c fun k => endsToken { k with eng.cim := forgetLoad tok k.eng.cim } tok ok

theorem endLoad_some (s : State) (c : CoreId) (t : Nat) (ok : Bool) :
    endLoad s c (some t) ok = (s.modCim c (forgetLoad (some t))).modCore c fun k => k.endToken t ok := by
  rw [State.modCim, modCore_modCore]
  rfl

theorem endLoad_frame (s : State) (c : CoreId) (tok : Option Nat) (ok : Bool) :
    (endLoad s c tok ok).mem = s.mem ∧ (endLoad s c tok ok).sched = s.sched ∧ SameOthers c s (endLoad s c tok ok) ∧
      ∃ ts, (endLoad s c tok ok).core c = { s.core c with eng.cim := forgetLoad tok (s.core c).eng.cim, eng.tokens := ts } := by
  refine ⟨rfl, rfl, fun d hd => State.core_modCore_other _ _ _ _ hd, ?_⟩
  rw [endLoad, State.core_modCore_self]
  exact endsToken_eq ..

theorem endLoad_token (s : State) (c : CoreId) (tok : Option Nat) (ok : Bool) (lt : ∀ t, tok = some t → t < 32) {u : Nat} (hu : u < 32) :
    ((endLoad s c tok ok).core c).token u = (s.core c).tokensAfter tok ok u := by
  rw [endLoad, State.core_modCore_self]
  exact token_endsToken _ tok ok lt hu

/-- The code of a failure, where there is one, in the status of the engine. -/
def noteLoad (s : State) (c : CoreId) (code : Option Byte) : State := code.elim s fun e => s.modCim c fun x => { x with mlc := e }

theorem noteLoad_frame (s : State) (c : CoreId) (code : Option Byte) :
    (noteLoad s c code).mem = s.mem ∧ (noteLoad s c code).sched = s.sched ∧ SameOthers c s (noteLoad s c code) ∧
      (noteLoad s c code).core c = { s.core c with eng.cim.mlc := code.getD (s.core c).eng.cim.mlc } := by
  cases code with
  | none => exact ⟨rfl, rfl, fun _ _ => rfl, rfl⟩
  | some e =>
    rw [noteLoad, Option.elim_some, State.modCim]
    exact ⟨rfl, rfl, fun d hd => State.core_modCore_other _ _ _ _ hd, State.core_modCore_self ..⟩

section
variable {s : State} {a d : W64} {waits : List Nat} {tok : Option Nat}
  (load : (s.core s.cur.core).eng.cim.mpload[s.cur.k]? = some (a, d, waits, tok))
include load

theorem mploadComplete_waits (waiting : (s.core s.cur.core).waits waits) : exec .mploadComplete s = .next s := by
  simp only [exec_mploadComplete, execMploadComplete, load, (waits_iff ..).2 waiting, if_true]

/-- With the flag a load stays, or one word of it goes ahead (R337). -/
theorem mploadComplete_ahead (flag : s.cur.flag = true) : ∃ t, exec .mploadComplete s = .next t ∧ LoadFrame s.cur.core s t ∧
    ((s.core s.cur.core).waits waits ∨ (s.core s.cur.core).waitFailed waits → t = s) := by
  by_cases waiting : (s.core s.cur.core).waits waits
  · exact ⟨s, mploadComplete_waits load waiting, LoadFrame.refl _ s, fun _ => rfl⟩
  · have step := exec_mploadComplete s
    simp only [execMploadComplete, load, if_neg (mt (waits_iff ..).1 waiting), flag, if_true] at step
    refine ⟨_, step, ?_, fun held => ?_⟩
    · split
      · exact LoadFrame.refl _ s
      · exact mpEarly_frame ..
    · exact if_pos (Bool.or_eq_true_iff.2 (.inl ((waitFailed_iff ..).2 (held.resolve_left waiting))))

variable (whole : s.cur.flag = false) (ready : ¬ (s.core s.cur.core).waits waits)
include whole ready

theorem mploadComplete_fails (failed : (s.core s.cur.core).waitFailed waits) : exec .mploadComplete s =
    .next (endLoad (s.setCore s.cur.core { s.core s.cur.core with eng.cim.mpload := (s.core s.cur.core).eng.cim.mpload.eraseIdx s.cur.k })
      s.cur.core tok false) := by
  simp only [exec_mploadComplete, execMploadComplete, load, if_neg (mt (waits_iff ..).1 ready), whole, (waitFailed_iff ..).2 failed, Bool.false_eq_true,
    if_false, if_true]
  cases tok with
  | none => rfl
  | some t => rw [endLoad_some]; rfl

theorem mploadComplete_reads (met : ¬ (s.core s.cur.core).waitFailed waits) :
    let c := s.cur.core
    let k := s.core c
    let v := s.setCore c { k with eng.cim.mpload := k.eng.cim.mpload.eraseIdx s.cur.k }
    let r := v.mpWords c k.domain (k.eng.cim.mpWrote (tok.getD 32)) (k.eng.cim.mpFetched (tok.getD 32)) a.toNat (bits d 0 12) 0 (bits d 16 12 + 1)
    exec .mploadComplete s = .next (endLoad (noteLoad r.2 c r.1) c tok r.1.isNone) := by
  intro c k v r
  simp only [exec_mploadComplete, execMploadComplete, load, if_neg (mt (waits_iff ..).1 ready), whole, if_neg (mt (waitFailed_iff ..).1 met),
    Bool.false_eq_true, if_false]
  cases tok with
  | none => split <;> next heq => rw [show r = _ from heq]; rfl
  | some n => split <;> next heq => rw [show r = _ from heq, endLoad_some]; rfl

/-- A load that fails at its waits leaves only its core, without it and what it had of its words. -/
theorem mploadComplete_drops (lt : ∀ t, tok = some t → t < 32) (failed : (s.core s.cur.core).waitFailed waits) :
    let c := s.cur.core
    let k := s.core c
    let v := s.setCore c { k with eng.cim.mpload := k.eng.cim.mpload.eraseIdx s.cur.k }
    ∃ l, exec .mploadComplete s = .next (s.setCore c l) ∧ (∀ u, u < 32 → ((s.setCore c l).core c).token u = k.tokensAfter tok false u) ∧
      l.eng.cim = forgetLoad tok (v.core c).eng.cim ∧ l.regs = k.regs ∧ l.loc = k.loc := by
  intro c k v
  have ends := mploadComplete_fails load whole ready failed
  rw [endLoad, modCore_setCore] at ends
  refine ⟨_, ends, fun u hu => ?_, ?_⟩
  · rw [State.core_setCore_self]
    exact token_endsToken _ tok false lt hu
  · obtain ⟨ts, eq⟩ := endsToken_eq { k with eng.cim := forgetLoad tok { k.eng.cim with mpload := k.eng.cim.mpload.eraseIdx s.cur.k } } tok false
    rw [State.core_setCore_self]
    exact eq ▸ ⟨rfl, rfl, rfl⟩

/-- A load whose waits have ended reads its words, ends, and leaves the code of a failure (R268). -/
theorem mploadComplete_ends (lt : ∀ t, tok = some t → t < 32) (met : ¬ (s.core s.cur.core).waitFailed waits) :
    let c := s.cur.core
    let k := s.core c
    let v := s.setCore c { k with eng.cim.mpload := k.eng.cim.mpload.eraseIdx s.cur.k }
    let r := v.mpWords c k.domain (k.eng.cim.mpWrote (tok.getD 32)) (k.eng.cim.mpFetched (tok.getD 32)) a.toNat (bits d 0 12) 0 (bits d 16 12 + 1)
    ∃ t, exec .mploadComplete s = .next t ∧ (∀ u, u < 32 → (t.core c).token u = k.tokensAfter tok r.1.isNone u) ∧ t.mem = r.2.mem ∧
      t.sched = s.sched ∧ SameOthers c s t ∧ (t.core c).regs = k.regs ∧ (t.core c).loc = k.loc ∧
      (t.core c).eng.cim.store = (r.2.core c).eng.cim.store ∧ (t.core c).eng.cim.mlc = r.1.getD k.eng.cim.mlc := by
  intro c k v r
  obtain ⟨sched, others, store, done, got, core⟩ : LoadFrame c v r.2 := mpWords_frame ..
  obtain ⟨noteMem, noteSched, noteOthers, noteCore⟩ := noteLoad_frame r.2 c r.1
  obtain ⟨endMem, endSched, endOthers, ts, endCore⟩ := endLoad_frame (noteLoad r.2 c r.1) c tok r.1.isNone
  refine ⟨_, mploadComplete_reads load whole ready met, fun u hu => ?_, endMem.trans noteMem, (endSched.trans noteSched).trans sched, fun q hq => ?_, ?_⟩
  · rw [endLoad_token _ _ _ _ lt hu, noteCore, core, State.core_setCore_self]
    rfl
  · rw [endOthers q hq, noteOthers q hq, others q hq]
    exact State.core_setCore_other _ _ _ _ hq
  · rw [endCore, noteCore, core, State.core_setCore_self]
    exact ⟨rfl, rfl, rfl, rfl⟩

end

/-- Settles O45: a free signal is performed as `State.performSignal` has it, and a load by what its waits and its words give. -/
theorem signalsPerformInOrder : Obligations.SignalsPerformInOrder := by
  unfold Obligations.SignalsPerformInOrder
  intro s c k i u
  refine ⟨fun w free => ?_, ?_, ?_⟩
  · refine ⟨fun t f v what => signalPerform_performs free what rfl, fun m f v what => signalPerform_fset free what, fun g what => ?_, fun g what => ?_,
      fun im x p what => signalPerform_cpy free what, fun ent p x y mps what => signalPerform_performs free what rfl,
      fun b x y mps what => signalPerform_performs free what rfl, fun n r segs what => signalPerform_nmCmd free what,
      fun p what => signalPerform_performs free what rfl, fun kind a d m x p what => signalPerform_coll free what,
      fun b what => signalPerform_launch free what, fun a d x p what => signalPerform_performs free what rfl⟩
    · obtain ⟨t, performs, frame⟩ := setGroup_dropComm s c i g true
      exact ⟨t, (signalPerform_performs free what rfl).trans (congrArg _ performs), frame⟩
    · obtain ⟨t, performs, frame⟩ := setGroup_dropComm s c i g false
      exact ⟨t, (signalPerform_performs free what rfl).trans (congrArg _ performs), frame⟩
  · rintro ⟨a, d, waits, tok⟩ flag load
    obtain ⟨t, ahead, ⟨sched, others, store, done, got, core⟩, held⟩ := mploadComplete_ahead load flag
    refine ⟨t, ahead, others, sched, ?_, ?_, ?_, ?_, held⟩
    all_goals rw [core]
  · intro a d waits tok whole load lt
    exact ⟨mploadComplete_waits load, fun ready failed => mploadComplete_drops load whole ready lt failed,
      fun ready met => mploadComplete_ends load whole ready lt met⟩

end Sys2Proof.Scope
end

section
/-! The refutation of O46. The clause on a refused descriptor asks for a bad half wherever the 64 bytes of the descriptor are not the core's
own scratch, in every state. It lacks the premise that the offset of the fill fits a 64-bit address, as that of every `mld` does: the check of
R53 sees the offset as a 64-bit word, so that an offset of 2^64 passes as 0. -/

namespace Sys2Proof.Scope

open Sys2Proof Sys2Proof.Machine

theorem exec_grinderFill (s : State) : exec .grinderFill s = execGrinderFill s := rfl

/-- Word 0 of a descriptor of KIND 2, as a bank word read ahead: its bytes, none of them bad (R356, R369). -/
def kindTwoWord : Bool × List (Byte × Bool) := (false, (leBytes 8 (2 ^ 61)).map fun b => (b, false))

/-- A fill whose descriptor is at offset 2^64, with word 0 read ahead. -/
def farFill : Fill := { macr := 0, cfg := {}, group := 1, descOff := 2 ^ 64, domain := 0, got := [(2 ^ 64 / 8, some kindTwoWord)] }

/-- The machine after reset, with that fill as the only one of core 0. -/
def farFillState : State := State.reset.setCore 0 { Core.reset with eng.cim.fills := [farFill] }

theorem farFillState_core : farFillState.core farFillState.cur.core = { Core.reset with eng.cim.fills := [farFill] } :=
  State.core_setCore_self State.reset 0 _

/-- The descriptor lies beyond scratch. -/
theorem farFill_outside (k : Core) (c : CoreId) : ¬ k.scratchOk c 0 farFill.descOff 64 := fun ok => absurd ok.1 (by decide)

/-- The fill reads its descriptor and writes the zero half of R360, as it would from offset 0. -/
theorem grinderFill_farFill : ∃ t, exec .grinderFill farFillState = .next t ∧ ((mrd {} (t.core 0).eng.cim.macros farFill.macr).half 1).bad = false :=
  ⟨_, exec_grinderFill farFillState, by decide +kernel⟩

/-- Refutes O46: a fill whose descriptor is said to be at offset 2^64 is not refused, so that its half is not bad. -/
theorem not_engineWorkStartsAndEnds : ¬ Obligations.EngineWorkStartsAndEnds := by
  unfold Obligations.EngineWorkStartsAndEnds
  intro h
  obtain ⟨-, -, -, fills⟩ := h farFillState
  obtain ⟨t, ends, -, -, -, -, -, -, -, whole⟩ := fills farFill [] (by rw [farFillState_core])
  obtain ⟨-, refused, -⟩ := whole rfl (by rw [farFillState_core]; rfl)
  obtain ⟨bad, -⟩ := refused fun ok => farFill_outside _ _ ok.2
  obtain ⟨u, ends', good⟩ := grinderFill_farFill
  cases ends.symm.trans ends'
  exact absurd (good.symm.trans bad) (by decide)

end Sys2Proof.Scope
end

section
/-! Copies that stay within the scratch of their core (R31, R53, R55, R74): what they may change, their checks, and the bytes they read and write. -/

namespace Sys2Proof.Scope

open Sys2Proof Sys2Proof.Machine

/-! ### What such a copy may change -/

/-- Whether a core is absent depends on the envelope, the protection mode and the modes of cores (R31, R401). -/
theorem absent_congr {s t : State} (envelope : t.hk.envelope = s.hk.envelope) (prot : t.hk.protActive = s.hk.protActive)
    (mode : ∀ d, (t.core d).mode = (s.core d).mode) (c : CoreId) : t.absent c = s.absent c := by
  simp only [State.absent, State.quarantined, State.lockstep, mode, envelope, prot]

/-- Beside the counter of free values, all that may differ is the local store of core c and the records on their way to a bank. -/
structure LocOnly (c : CoreId) (s t : State) : Prop where
  core : ∃ l, t.core c = { s.core c with loc := l }
  others : SameOthers c s t
  mem : t.mem = s.mem
  sched : t.sched = s.sched
  hk : ∃ recs, t.hk = { s.hk with recs := recs }

namespace LocOnly
variable {c : CoreId} {s t u : State}

theorem of_cores (cores : t.cores = s.cores) (mem : t.mem = s.mem) (sched : t.sched = s.sched) (hk : ∃ recs, t.hk = { s.hk with recs := recs }) :
    LocOnly c s t :=
  have core : ∀ d, t.core d = s.core d := fun d => by rw [State.core, cores]; rfl
  ⟨⟨_, core c⟩, fun d _ => core d, mem, sched, hk⟩

theorem refl (c : CoreId) (s : State) : LocOnly c s s := of_cores rfl rfl rfl ⟨_, rfl⟩
theorem addRecs (s : State) (l : List ErrRec) : LocOnly c s (s.addRecs l) := of_cores rfl rfl rfl ⟨_, rfl⟩
theorem bumpCopy (s : State) (n : Nat) : LocOnly c s (s.bumpCopy n) := of_cores rfl rfl rfl ⟨_, rfl⟩

theorem setLoc (s : State) (l : Local) : LocOnly c s (s.setCore c { s.core c with loc := l }) :=
  ⟨⟨l, State.core_setCore_self s c _⟩, fun d hd => State.core_setCore_other s c d _ hd, rfl, rfl, _, rfl⟩

theorem trans (h : LocOnly c s t) (h' : LocOnly c t u) : LocOnly c s u := by
  obtain ⟨l, core⟩ := h.core
  obtain ⟨l', core'⟩ := h'.core
  obtain ⟨recs, hk⟩ := h.hk
  obtain ⟨recs', hk'⟩ := h'.hk
  exact ⟨⟨l', by rw [core', core]⟩, fun d hd => (h'.others d hd).trans (h.others d hd), h'.mem.trans h.mem, h'.sched.trans h.sched, recs', by rw [hk', hk]⟩

theorem mode (h : LocOnly c s t) (d : CoreId) : (t.core d).mode = (s.core d).mode := by
  by_cases hd : d = c
  · obtain ⟨l, e⟩ := h.core
    rw [hd, e]
  · rw [h.others d hd]

theorem granule (h : LocOnly c s t) : (t.core c).granule = (s.core c).granule := by
  obtain ⟨l, e⟩ := h.core
  rw [e]
  rfl

theorem absent (h : LocOnly c s t) (d : CoreId) : t.absent d = s.absent d := by
  obtain ⟨recs, hk⟩ := h.hk
  exact absent_congr (by rw [hk]) (by rw [hk]) h.mode d

end LocOnly

/-! ### Scratch of the own core (R53, R74) -/

/-- A core that exists and has no granule in a buffer. -/
structure OwnsAll (s : State) (c : CoreId) : Prop where
  free : ∀ g, (s.core c).granule g = 0
  present : s.absent c = false

theorem OwnsAll.of_locOnly {c : CoreId} {s t : State} (owns : OwnsAll s c) (h : LocOnly c s t) : OwnsAll t c :=
  ⟨fun g => h.granule ▸ owns.free g, (h.absent c).trans owns.present⟩

theorem ownRefuses_free {k : Core} (free : ∀ g, k.granule g = 0) (c : CoreId) (kind off n : Nat) : ownRefuses c k (some c) kind off n = none := by
  refine List.findSome?_eq_none_iff.2 fun p _ => ?_
  simp [granuleOk, free]

/-- The address in scratch space of an offset of a core (R31). -/
def scratchAt (c : CoreId) (o : Nat) : Nat := c.val * 2 ^ 23 + o

theorem engScratch_own {s : State} {c : CoreId} (owns : OwnsAll s c) (kind : Nat) {o n : Nat} (room : o + n ≤ 0x400000) :
    s.engScratch (some c) kind (scratchAt c o : Nat) n = .ok (c, o) := by
  have hc := c.isLt
  have off : scratchAt c o % 2 ^ 23 = o := by unfold scratchAt; omega
  have home : coreId (scratchAt c o / 2 ^ 23) = c := Fin.ext (by simp only [coreId, scratchAt]; omega)
  have inSpace : ¬ 2 ^ 29 ≤ scratchAt c o := by unfold scratchAt; omega
  have passes : ¬ (decide ((scratchAt c o : Int) < 0) || decide (scratchAt c o ≥ 2 ^ 29) || decide (o + n > 0x400000) || s.absent c) = true := by
    simp only [owns.present, Bool.or_false, Bool.or_eq_true, decide_eq_true_eq]
    omega
  simp only [State.engScratch, Int.toNat_natCast, off, home, if_neg passes, ownRefuses_free owns.free]

theorem copyPiece_own {s : State} {c : CoreId} (owns : OwnsAll s c) (dom : Nat) (kind : AccKind) (base : Int) {o n : Nat}
    (room : o + n ≤ 0x400000) : s.copyPiece (some c) dom kind ⟨true, base⟩ (scratchAt c o : Nat) n = (.ok (.bank c o, n), s) := by
  simp only [State.copyPiece, engScratch_own owns _ room, if_true]

/-! ### Bytes of a bank read and written by an engine (R55, R145) -/

theorem mem_bankPieces (fuel a n q : Nat) (h : n < fuel) :
    q ∈ (pieces 8 fuel a n).map (fun p => p.1 / 8) ↔ 0 < n ∧ a / 8 ≤ q ∧ 8 * q < a + n := by
  induction fuel generalizing a n with
  | zero => omega
  | succ fuel ih =>
    unfold pieces
    split
    · next h0 =>
      simp only [List.map_nil, List.not_mem_nil, false_iff]
      omega
    · next h0 =>
      rw [List.map_cons, List.mem_cons, ih _ _ (by omega)]
      omega

theorem mem_bankWords (a n q : Nat) : q ∈ bankWords a n ↔ 0 < n ∧ a / 8 ≤ q ∧ 8 * q < a + n := mem_bankPieces _ _ _ _ (Nat.lt_succ_self n)

theorem bankRead_locOnly (s : State) (c : CoreId) (a n : Nat) : LocOnly c s (s.bankRead c a n).2 :=
  ((LocOnly.setLoc s _).trans (LocOnly.addRecs _ _)).trans (LocOnly.addRecs _ _)

/-- Reading a bank repairs codes; its bytes and its bad words stay. -/
theorem bankRead_keeps (s : State) (c : CoreId) (a n : Nat) :
    ((s.bankRead c a n).2.core c).scratchByte = (s.core c).scratchByte ∧ ((s.bankRead c a n).2.core c).loc.badWords = (s.core c).loc.badWords := by
  have core : (s.bankRead c a n).2.core c = ((s.core c).scrubScratch c a n).2.1 := State.core_setCore_self s c _
  rw [core]
  exact ⟨rfl, rfl⟩

/-- Bytes of scratch as an engine delivers them where none of their words is bad. -/
def goodBytes (k : Core) (a n : Nat) : List (Byte × Bool) := (List.range n).map fun i => (k.scratchByte (a + i), false)

theorem goodBytes_length (k : Core) (a n : Nat) : (goodBytes k a n).length = n := by simp [goodBytes]

theorem goodBytes_unmarked {k : Core} {a n : Nat} : ∀ x ∈ goodBytes k a n, x.2 = false := by simp [goodBytes]

theorem bankRead_good {s : State} {c : CoreId} {a n : Nat} (good : ∀ x ∈ bankWords a n, x ∉ (s.core c).loc.badWords) :
    (s.bankRead c a n).1 = goodBytes (s.core c) a n := by
  have none : (bankWords a n).filter (fun x => (s.core c).loc.badWords.contains x) = [] :=
    List.filter_eq_nil_iff.2 fun x hx => by simpa using good x hx
  simp only [State.bankRead, Core.scrubScratch, none]
  rfl

/-- What unmarked bytes written to offset o of the scratch of core c leave. -/
structure BankWrite (c : CoreId) (s t : State) (o : Nat) (bs : List Byte) : Prop where
  frame : LocOnly c s t
  bytes : ∀ x, (t.core c).scratchByte x = if o ≤ x ∧ x < o + bs.length then bs.getD (x - o) 0 else (s.core c).scratchByte x
  bad : ∀ w ∈ (t.core c).loc.badWords, w ∈ (s.core c).loc.badWords

theorem storeLocal_locOnly (s : State) (c : CoreId) (o : Nat) (bs : List Byte) (p : Bool) (h : o < 0x400000) :
    LocOnly c s (s.modCore c fun k => k.storeLocal o bs p) := by
  simp only [State.modCore, storeLocal_inScratch _ _ _ _ h]
  exact LocOnly.setLoc s _

theorem storeLocal_bankWrite (s : State) (c : CoreId) (o : Nat) (bs : List Byte) (h : o < 0x400000) (room : o + bs.length ≤ 0x400000) :
    BankWrite c s (s.modCore c fun k => k.storeLocal o bs false) o bs := by
  refine ⟨storeLocal_locOnly s c o bs false h, fun x => ?_, fun w hw => ?_⟩
  · rw [State.core_modCore_self]
    exact storeLocal_scratchByte _ _ _ _ room x
  · rw [State.core_modCore_self, mem_storeLocal_badWords _ _ _ _ room] at hw
    simpa using hw.resolve_left (by simp) |>.1

theorem BankWrite.append {c : CoreId} {s t u : State} {o : Nat} {bs bs' : List Byte} (h : BankWrite c s t o bs)
    (h' : BankWrite c t u (o + bs.length) bs') : BankWrite c s u o (bs ++ bs') := by
  refine ⟨h.frame.trans h'.frame, fun x => ?_, fun w hw => h.bad w (h'.bad w hw)⟩
  rw [h'.bytes, h.bytes, List.length_append]
  by_cases first : o ≤ x ∧ x < o + bs.length
  · rw [if_neg (by omega), if_pos first, if_pos (by omega), List.getD_append _ _ _ _ (by omega)]
  · by_cases second : o + bs.length ≤ x ∧ x < o + bs.length + bs'.length
    · rw [if_pos second, if_pos (by omega), List.getD_append_right _ _ _ _ (by omega), Nat.sub_sub]
    · rw [if_neg second, if_neg first, if_neg (by omega)]

theorem BankWrite.nil (c : CoreId) (s : State) (o : Nat) : BankWrite c s s o [] :=
  ⟨LocOnly.refl c s, fun x => by rw [if_neg (by simp only [List.length_nil]; omega)], fun _ hw => hw⟩

/-- One bank word of a write of marked bytes to offset o. -/
def putPart (c : CoreId) (o : Nat) (bs : List (Byte × Bool)) (s : State) (p : Nat × Nat) : State :=
  let b := (bs.drop (p.1 - o)).take p.2
  s.modCore c fun k => k.storeLocal p.1 (b.map Prod.fst) (b.any Prod.snd)

theorem writePieceAt_bank (s : State) (dom : Nat) (c : CoreId) (o : Nat) (bs : List (Byte × Bool)) :
    s.writePieceAt dom (.bank c o) bs = (pieces 8 (bs.length + 1) o bs.length).foldl (putPart c o bs) s := rfl

theorem putPart_bankWrite {c : CoreId} {o : Nat} {bs : List (Byte × Bool)} (good : ∀ x ∈ bs, x.2 = false) (room : o + bs.length ≤ 0x400000)
    (s : State) {i m : Nat} (hi : o ≤ i) (hm : 0 < m) (fits : i + m ≤ o + bs.length) :
    BankWrite c s (putPart c o bs s (i, m)) i (((bs.drop (i - o)).take m).map Prod.fst) := by
  have unmarked : ((bs.drop (i - o)).take m).any Prod.snd = false :=
    List.any_eq_false.2 fun x hx => by simpa using good x (List.mem_of_mem_drop (List.mem_of_mem_take hx))
  have length : (((bs.drop (i - o)).take m).map Prod.fst).length = m := by simp; omega
  unfold putPart
  simp only [unmarked]
  exact storeLocal_bankWrite s c i _ (by omega) (by omega)

theorem putParts_bankWrite {c : CoreId} {o : Nat} {bs : List (Byte × Bool)} (good : ∀ x ∈ bs, x.2 = false) (room : o + bs.length ≤ 0x400000)
    (fuel i n : Nat) (s : State) (h : n < fuel) (hi : o ≤ i) (end_ : i + n = o + bs.length) :
    BankWrite c s ((pieces 8 fuel i n).foldl (putPart c o bs) s) i ((bs.drop (i - o)).map Prod.fst) := by
  induction fuel generalizing i n s with
  | zero => omega
  | succ fuel ih =>
    unfold pieces
    split
    · next h0 =>
      rw [List.drop_eq_nil_of_le (by omega)]
      exact BankWrite.nil c s i
    · next h0 =>
      generalize hm : min n (8 - i % 8) = m
      have part := putPart_bankWrite (c := c) good room s hi (m := m) (by omega) (by omega)
      have rest := ih (i + m) (n - m) (putPart c o bs s (i, m)) (by omega) (by omega) (by omega)
      have length : (((bs.drop (i - o)).take m).map Prod.fst).length = m := by simp; omega
      rw [show i + m - o = (i - o) + m by omega, ← List.drop_drop] at rest
      have both := part.append (by rw [length]; exact rest)
      rwa [← List.map_append, List.take_append_drop] at both

theorem writePieceAt_good {c : CoreId} {o : Nat} {bs : List (Byte × Bool)} (good : ∀ x ∈ bs, x.2 = false) (room : o + bs.length ≤ 0x400000)
    (s : State) (dom : Nat) : BankWrite c s (s.writePieceAt dom (.bank c o) bs) o (bs.map Prod.fst) := by
  have whole := putParts_bankWrite (c := c) good room (bs.length + 1) o bs.length s (Nat.lt_succ_self _) (Nat.le_refl o) rfl
  rwa [Nat.sub_self, List.drop_zero] at whole

end Sys2Proof.Scope
end

section
/-! A row copied within the scratch of its core, piece by piece (R134, R136, R143 to R146). -/

namespace Sys2Proof.Scope

open Sys2Proof Sys2Proof.Machine

/-! ### Bytes that a packet cannot itself have written (R136) -/

theorem mixOld_same (ctr i : Nat) (l : List (Byte × Bool)) : mixOld ctr i l l = l := by
  apply List.ext_getElem
  · simp [mixOld]
  · intro j _ _
    simp [mixOld]

theorem chainUp_far {d : Nat} (free : Nat → Bool) {bs : List (Byte × Bool)} (far : bs.length ≤ d) : chainUp d free bs = bs := by
  have own : ∀ p ∈ bs.zip (List.range bs.length), (d ≤ p.2 && free p.2) = false := fun p hp => by
    have lt : p.2 < bs.length := List.mem_range.1 (List.of_mem_zip (a := p.1) (b := p.2) hp).2
    rw [decide_eq_false (by omega), Bool.false_and]
  have appends : ∀ (l : List ((Byte × Bool) × Nat)) (acc : List (Byte × Bool)), (∀ p ∈ l, (d ≤ p.2 && free p.2) = false) →
      l.foldl (fun acc p => acc ++ [if d ≤ p.2 && free p.2 then acc.getD (p.2 - d) p.1 else p.1]) acc = acc ++ l.map Prod.fst := by
    intro l
    induction l with
    | nil => simp
    | cons p l ih =>
      intro acc h
      rw [List.foldl_cons, ih _ fun q hq => h q (List.mem_cons_of_mem _ hq), h p List.mem_cons_self]
      simp
  rw [chainUp, appends _ _ own, List.nil_append, List.map_fst_zip (by simp)]

theorem chained_far (c : CoreId) {a b : Nat} (free : Nat → Bool) {bs : List (Byte × Bool)} (apart : a + bs.length ≤ b ∨ b + bs.length ≤ a) :
    chained (.bank c a) (.bank c b) free bs = bs := by
  unfold chained
  simp only [PieceAt.above, if_true]
  split
  · exact chainUp_far free (by omega)
  · split
    · rw [chainUp_far _ (by rw [List.length_reverse]; omega), List.reverse_reverse]
    · rfl

/-! ### The pieces of a row -/

/-- Scratch of a core begins at a multiple of 256. -/
theorem scratchAt_cut (c : CoreId) (o : Nat) : 256 - ((scratchAt c o : Nat) % 256 : Int).toNat = 256 - o % 256 := by
  unfold scratchAt
  omega

/-- A packet of one row of n bytes between offsets a and b of the scratch of core c, with nothing read ahead. -/
structure RowRun (r : CopyRun) (c : CoreId) (a b n : Nat) : Prop where
  who : r.who = some c
  op : r.p.op = 1
  dims : r.p.nz = 1 ∧ r.p.ny = 1 ∧ r.p.nx = n
  plain : r.p.cmp = false
  src : r.src = ⟨true, (scratchAt c a : Nat)⟩
  dst : r.dst = ⟨true, (scratchAt c b : Nat)⟩
  room : a + n ≤ 0x400000 ∧ b + n ≤ 0x400000 ∧ (a + n ≤ b ∨ b + n ≤ a)
  buf : r.buf = []

/-- The length of the piece of a row at linear index i, before `stop`. -/
def rowPiece (a b n i stop : Nat) : Nat := min (stop - i) (min (n - i) (min (256 - (b + i) % 256) (256 - (a + i) % 256)))

theorem rowPiece_pos {a b n i stop : Nat} (h : i < stop) (fits : stop ≤ n) : 0 < rowPiece a b n i stop := by unfold rowPiece; omega
theorem rowPiece_le (a b n i stop : Nat) : rowPiece a b n i stop ≤ stop - i := Nat.min_le_left ..
theorem rowPiece_again (a b n i stop : Nat) : rowPiece a b n i (i + rowPiece a b n i stop) = rowPiece a b n i stop := by unfold rowPiece; omega

section
variable {r : CopyRun} {c : CoreId} {a b n : Nat} (row : RowRun r c a b n)
include row

theorem addr_row (base : Nat) (sz sy : Int) {i : Nat} (h : i < n) : r.p.addr (scratchAt c base : Nat) sz sy i = (scratchAt c (base + i) : Nat) := by
  obtain ⟨nz, ny, nx⟩ := row.dims
  simp only [Packet.addr, ny, nx, show max 1 n = n by omega, Nat.div_one, Nat.mod_one, Nat.div_eq_of_lt h, Nat.mod_eq_of_lt h, scratchAt]
  push_cast
  omega

theorem check_row {s : State} (owns : OwnsAll s c) {i stop : Nat} (h : i < stop) (fits : stop ≤ n) :
    r.check s i stop = .ok ⟨some (.bank c (a + i)), .bank c (b + i), false, rowPiece a b n i stop⟩ s := by
  obtain ⟨nz, ny, nx⟩ := row.dims
  obtain ⟨roomA, roomB, -⟩ := row.room
  have hasSrc : r.p.hasSrc = true := by rw [Packet.hasSrc, row.op]; rfl
  have srcAddr : r.srcAddr i = (scratchAt c (a + i) : Nat) := by rw [CopyRun.srcAddr, row.src]; exact addr_row row _ _ _ (by omega)
  have dstAddr : r.dstAddr i = (scratchAt c (b + i) : Nat) := by rw [CopyRun.dstAddr, row.dst]; exact addr_row row _ _ _ (by omega)
  have length : min (stop - i) (min (n - i % n) (min (256 - (b + i) % 256) (256 - (a + i) % 256))) = rowPiece a b n i stop := by
    rw [Nat.mod_eq_of_lt (by omega)]; rfl
  have le := rowPiece_le a b n i stop
  have readable := copyPiece_own owns r.dom .copySrc (scratchAt c a : Nat) (o := a + i) (n := rowPiece a b n i stop) (by omega)
  have writable := copyPiece_own owns r.dom .copyDst (scratchAt c b : Nat) (o := b + i) (n := rowPiece a b n i stop) (by omega)
  simp only [CopyRun.check, hasSrc, srcAddr, dstAddr, scratchAt_cut, nx, length, row.who, row.src, row.dst, readable, writable, row.plain, if_true]
  rfl
end

/-! ### One piece moved -/

/-- The bytes of a row at the linear indexes of `done` have moved, and nothing else has. -/
structure RowMoved (c : CoreId) (a b : Nat) (done : Nat → Prop) (s t : State) : Prop where
  frame : LocOnly c s t
  moved : ∀ j, done j → (t.core c).scratchByte (b + j) = (s.core c).scratchByte (a + j)
  kept : ∀ x, (∀ j, done j → x ≠ b + j) → (t.core c).scratchByte x = (s.core c).scratchByte x
  bad : ∀ w ∈ (t.core c).loc.badWords, w ∈ (s.core c).loc.badWords

theorem RowMoved.start {c : CoreId} {s t : State} (a b : Nat) (frame : LocOnly c s t) (core : t.core c = s.core c) :
    RowMoved c a b (fun _ => False) s t :=
  ⟨frame, fun _ h => h.elim, fun x _ => by rw [core], fun w hw => by rwa [core] at hw⟩

theorem RowMoved.read {c : CoreId} {a b : Nat} {done : Nat → Prop} {s t : State} (h : RowMoved c a b done s t) (x n : Nat) :
    RowMoved c a b done s (t.bankRead c x n).2 := by
  obtain ⟨bytes, bad⟩ := bankRead_keeps t c x n
  refine ⟨h.frame.trans (bankRead_locOnly t c x n), ?_, ?_, ?_⟩
  · rw [bytes]; exact h.moved
  · rw [bytes]; exact h.kept
  · rw [bad]; exact h.bad

/-- The bytes of the source at linear indexes i to i + m - 1 written where they belong. -/
theorem RowMoved.write {c : CoreId} {a b : Nat} {done : Nat → Prop} {s t u : State} (h : RowMoved c a b done s t) {i m : Nat}
    (w : BankWrite c t u (b + i) ((goodBytes (s.core c) (a + i) m).map Prod.fst)) :
    RowMoved c a b (fun j => done j ∨ i ≤ j ∧ j < i + m) s u := by
  have length : ((goodBytes (s.core c) (a + i) m).map Prod.fst).length = m := by rw [List.length_map, goodBytes_length]
  have bytes := w.bytes
  rw [length] at bytes
  refine ⟨h.frame.trans w.frame, fun j hj => ?_, fun x hx => ?_, fun q hq => h.bad q (w.bad q hq)⟩
  · rw [bytes]
    by_cases new : i ≤ j ∧ j < i + m
    · have at_ : j - i < (List.range m).length := by rw [List.length_range]; omega
      rw [if_pos (by omega), show b + j - (b + i) = j - i by omega, goodBytes, List.map_map, List.getD_eq_getElem _ _ (by simpa using at_)]
      simp only [List.getElem_map, List.getElem_range, Function.comp_apply]
      congr 1
      omega
    · rw [if_neg (by omega)]
      exact h.moved j (hj.resolve_right new)
  · rw [bytes, if_neg]
    · exact h.kept x fun j hj => hx j (.inl hj)
    · intro into
      exact hx (x - b) (.inr (by omega)) (by omega)

section
variable {r : CopyRun} {c : CoreId} {a b n : Nat} (row : RowRun r c a b n)
include row

/-- A part of a row delivers the bytes of the source as they were before the packet (R136). -/
theorem sourceBytes_row {t : State} {i m : Nat} (dst : PieceAt) (good : ∀ x ∈ bankWords (a + i) m, x ∉ (t.core c).loc.badWords)
    (whole : ∀ x ∈ bankWords (a + i) m, x ∉ (r.start.core c).loc.badWords)
    (same : ∀ j, j < m → (t.core c).scratchByte (a + i + j) = (r.start.core c).scratchByte (a + i + j)) :
    r.sourceBytes t i ⟨some (.bank c (a + i)), dst, false, m⟩ = (⟨goodBytes (r.start.core c) (a + i) m, false⟩, (t.bankRead c (a + i) m).2) := by
  have now : (t.bankRead c (a + i) m).1 = goodBytes (r.start.core c) (a + i) m := by
    rw [bankRead_good good]
    exact List.map_congr_left fun j hj => by rw [same j (List.mem_range.1 hj)]
  have old := bankRead_good whole
  have readAhead : ∀ j, mrd (none : Option (Byte × Bool × Bool)) r.buf j = none := fun j => by rw [row.buf]; rfl
  simp only [CopyRun.sourceBytes, State.readPieceAt, now, old, PieceAt.isEtben, Bool.false_eq_true, if_false, mixOld_same, readAhead, Option.map_none,
    Option.getD_none]
  rw [List.map_fst_zip (by rw [goodBytes_length, List.length_range])]

end

/-- A piece of a row as its checks cut it: checked again, it is the same. -/
structure IsRowPiece (a b n : Nat) (q : Nat × Nat) : Prop where
  pos : 0 < q.2
  fits : q.1 + q.2 ≤ n
  again : rowPiece a b n q.1 (q.1 + q.2) = q.2

/-- Where every index is wanted, a piece is one run. -/
theorem wantedRuns_all {want : Nat → Bool} (all : ∀ j, want j = true) (i : Nat) {n : Nat} (pos : 0 < n) : wantedRuns want i n = [(i, n)] := by
  induction n, pos using Nat.le_induction with
  | base => simp [wantedRuns, all]
  | succ n _ ih =>
    unfold wantedRuns at ih ⊢
    rw [List.range_succ, List.foldl_append, List.reverse_eq_iff.1 ih]
    simp [all]

/-- The linear indexes that some pieces hold. -/
def holds (l : List (Nat × Nat)) (j : Nat) : Prop := ∃ q ∈ l, q.1 ≤ j ∧ j < q.1 + q.2

/-- Where the checks of a row stand: none has failed, and its pieces hold every index before `stop`. -/
structure RowChecked (a b n : Nat) (s : State) (k : Checked) : Prop where
  status : k.status = 0
  state : k.state = s
  stop : k.stop ≤ n
  pieces : ∀ q ∈ k.pieces, IsRowPiece a b n q
  cover : ∀ j, j < k.stop → holds k.pieces j

section
variable {r : CopyRun} {c : CoreId} {a b n : Nat} (row : RowRun r c a b n)
include row

theorem checks_row {s : State} (owns : OwnsAll s c) (fuel : Nat) {k : Checked} (h : RowChecked a b n s k) (enough : n - k.stop ≤ fuel) :
    RowChecked a b n s (r.checks n fuel k) ∧ (r.checks n fuel k).stop = n := by
  induction fuel generalizing k with
  | zero => exact ⟨h, Nat.le_antisymm h.stop (Nat.le_of_sub_eq_zero (Nat.le_zero.1 enough))⟩
  | succ fuel ih =>
    unfold CopyRun.checks
    split
    · next done => exact ⟨h, Nat.le_antisymm h.stop done⟩
    · next more =>
      have pos := rowPiece_pos (a := a) (b := b) (Nat.lt_of_not_le more) (Nat.le_refl n)
      have le := rowPiece_le a b n k.stop n
      have next : k.stop + max 1 (rowPiece a b n k.stop n) = k.stop + rowPiece a b n k.stop n := by rw [Nat.max_eq_right pos]
      rw [h.state, check_row row owns (Nat.lt_of_not_le more) (Nat.le_refl n)]
      refine ih ⟨h.status, rfl, ?_, fun q hq => ?_, fun j hj => ?_⟩ ?_
      · simp only [next]
        omega
      · rcases List.mem_append.1 hq with old | new
        · exact h.pieces q old
        · rw [List.mem_singleton.1 new]
          exact ⟨pos, by simp only; omega, rowPiece_again ..⟩
      · simp only [next] at hj
        by_cases old : j < k.stop
        · obtain ⟨q, hq, at_⟩ := h.cover j old
          exact ⟨q, List.mem_append_left _ hq, at_⟩
        · exact ⟨_, List.mem_append_right _ (List.mem_singleton.2 rfl), by simp only; omega, hj⟩
      · simp only [next]
        omega

section
variable (whole : ∀ x ∈ bankWords a n, x ∉ (r.start.core c).loc.badWords)
include whole

theorem move_row {done : Nat → Prop} {t : State} (h : RowMoved c a b done r.start t) (within : ∀ j, done j → j < n) {i m : Nat} (fits : i + m ≤ n) :
    ∃ u, r.move t i ⟨some (.bank c (a + i)), .bank c (b + i), false, m⟩ [(0, m)] = .done false u ∧
      RowMoved c a b (fun j => done j ∨ i ≤ j ∧ j < i + m) r.start u := by
  obtain ⟨roomA, roomB, apart⟩ := row.room
  have good : ∀ x ∈ bankWords (a + i) m, x ∉ (r.start.core c).loc.badWords := fun x hx => whole x (by
    rw [mem_bankWords] at hx ⊢
    omega)
  have source := sourceBytes_row row (t := t) (.bank c (b + i)) (fun x hx hb => good x hx (h.bad x hb)) good
    fun j hj => h.kept _ fun j' hj' => by have := within j' hj'; omega
  have far (free : Nat → Bool) : chained (.bank c (a + i)) (.bank c (b + i)) free (goodBytes (r.start.core c) (a + i) m) = _ :=
    chained_far c free (by rw [goodBytes_length]; omega)
  have unmarked : (goodBytes (r.start.core c) (a + i) m).any Prod.snd = false := List.any_eq_false.2 fun x hx => by simpa using goodBytes_unmarked x hx
  refine ⟨_, ?_, (h.read (a + i) m).write (writePieceAt_good (dom := r.dom) goodBytes_unmarked (by rw [goodBytes_length]; omega) _)⟩
  simp only [CopyRun.move, CopyAt.plain, CopyRun.movePlain, CopyAt.sub, PieceAt.sub, PieceAt.isEtben, Option.any_some, Option.map_some, Nat.add_zero,
    Bool.not_false, Bool.and_self, if_true, List.foldl_cons, List.foldl_nil, source, far, unmarked, Bool.or_false]

variable (owns : OwnsAll r.start c)
include owns

theorem perform_rowPiece {want : Nat → Bool} (all : ∀ j, want j = true) {done : Nat → Prop} {m : Moved} (met : m.failed = none)
    (h : RowMoved c a b done r.start m.state) (within : ∀ j, done j → j < n) {q : Nat × Nat} (piece : IsRowPiece a b n q) :
    ∃ u, r.perform want [q] m = { m with state := u } ∧ RowMoved c a b (fun j => done j ∨ q.1 ≤ j ∧ j < q.1 + q.2) r.start u := by
  obtain ⟨i, l⟩ := q
  obtain ⟨pos, fits, again⟩ := piece
  simp only at pos fits again ⊢
  obtain ⟨u, moves, moved⟩ := move_row row whole h within fits
  refine ⟨u, ?_, moved⟩
  have check := check_row row (owns.of_locOnly h.frame) (i := i) (stop := i + l) (by omega) fits
  rw [again] at check
  simp only [CopyRun.perform, List.foldl_cons, List.foldl_nil, wantedRuns_all all i pos, met, Option.isSome_none, List.isEmpty_cons, Bool.or_self,
    Bool.false_eq_true, if_false, check, List.filterMap_cons, List.filterMap_nil, if_pos (show i < i + l by omega), Nat.sub_self,
    Nat.add_sub_cancel_left, Nat.min_self, moves, ge_iff_le, Nat.le_refl, if_true, Bool.or_false]

theorem perform_row {want : Nat → Bool} (all : ∀ j, want j = true) (l : List (Nat × Nat)) {done : Nat → Prop} {m : Moved} (met : m.failed = none)
    (h : RowMoved c a b done r.start m.state) (within : ∀ j, done j → j < n) (pieces : ∀ q ∈ l, IsRowPiece a b n q) :
    ∃ u, r.perform want l m = { m with state := u } ∧ RowMoved c a b (fun j => done j ∨ holds l j) r.start u := by
  induction l generalizing done m with
  | nil =>
    refine ⟨m.state, rfl, ?_⟩
    have none : ∀ j, ¬ holds [] j := fun j hj => by obtain ⟨q, hq, -⟩ := hj; exact absurd hq List.not_mem_nil
    simpa only [none, or_false] using h
  | cons q l ih =>
    have piece := pieces q List.mem_cons_self
    obtain ⟨u, first, moved⟩ := perform_rowPiece row whole owns all met h within piece
    obtain ⟨v, rest, moved'⟩ := ih (m := { m with state := u }) met moved
      (fun j hj => hj.elim (within j) fun at_ => Nat.lt_of_lt_of_le at_.2 piece.fits) fun p hp => pieces p (List.mem_cons_of_mem _ hp)
    refine ⟨v, ?_, ?_⟩
    · rw [show r.perform want (q :: l) m = r.perform want l (r.perform want [q] m) from rfl, first, rest]
    · have split : ∀ j, ((done j ∨ q.1 ≤ j ∧ j < q.1 + q.2) ∨ holds l j) ↔ (done j ∨ holds (q :: l) j) := fun j => by
        simp only [holds, List.mem_cons, exists_eq_or_imp, or_assoc]
      simpa only [split] using moved'

end
end

/-! ### A row copied whole (R144, R146) -/

theorem scratchAt_lt (c : CoreId) {o : Nat} (h : o < 2 ^ 23) : scratchAt c o < 2 ^ 29 := by
  have hc := c.isLt
  unfold scratchAt
  omega

/-- A tagged address of scratch (R32). -/
theorem tagged_ofNat {x : Nat} (h : x < 2 ^ 29) : tagged (BitVec.ofNat 64 (2 ^ 60 + x)) = some (true, x) := by
  have field : ∀ lo n, bits (BitVec.ofNat 64 (2 ^ 60 + x)) lo n = (2 ^ 60 + x) / 2 ^ lo % 2 ^ n := fun lo n => by
    rw [bits, BitVec.toNat_ofNat, Nat.mod_eq_of_lt (show 2 ^ 60 + x < 2 ^ 64 by omega), Nat.shiftRight_eq_div_pow]
  have space : (2 ^ 60 + x) / 2 ^ 60 % 2 ^ 4 = 1 := by omega
  have zero : (2 ^ 60 + x) / 2 ^ 29 % 2 ^ 31 = 0 := by omega
  have place : (2 ^ 60 + x) / 2 ^ 0 % 2 ^ 29 = x := by omega
  simp only [tagged, field, space, zero, place, if_true]

theorem wordOf_scratch (c : CoreId) (o : Nat) : wordOf [(60, 1), (23, c.val), (0, o)] = BitVec.ofNat 64 (2 ^ 60 + scratchAt c o) := by
  have fields : wordOf [(60, 1), (23, c.val), (0, o)] = BitVec.ofNat 64 (1 * 2 ^ 60 + (c.val * 2 ^ 23 + (o * 2 ^ 0 + 0))) := by
    simp only [wordOf_cons, wordOf_nil, BitVec.ofNat_add]
  rw [fields, Nat.one_mul, Nat.pow_zero, Nat.mul_one, Nat.add_zero, scratchAt]

theorem tagged_scratch (c : CoreId) {o : Nat} (h : o < 2 ^ 23) : tagged (wordOf [(60, 1), (23, c.val), (0, o)]) = some (true, scratchAt c o) := by
  rw [wordOf_scratch, tagged_ofNat (scratchAt_lt c h)]

section
variable {e : CopyEnt} {c : CoreId} {a b n : Nat} (row : RowCopy e c a b n)
include row

theorem copyRun_rowCopy (s : State) (pos : 0 < n) : ∃ r, s.copyRun e = some (r, n) ∧ RowRun r c a b n ∧ r.start = s := by
  obtain ⟨nz, ny, nx⟩ := row.dims
  obtain ⟨core, queue, caf, early, ord⟩ := row.owner
  obtain ⟨record, cmp, exp⟩ := row.plain
  obtain ⟨roomA, roomB, apart⟩ := row.room
  have hasSrc : (Packet.ofWords e.words).hasSrc = true := by rw [Packet.hasSrc, row.op]; rfl
  have src : sideOf (Packet.ofWords e.words).src = ⟨true, (scratchAt c a : Nat)⟩ := by rw [sideOf, row.src, tagged_scratch c (by omega)]
  have dst : sideOf (Packet.ofWords e.words).dst = ⟨true, (scratchAt c b : Nat)⟩ := by rw [sideOf, row.dst, tagged_scratch c (by omega)]
  have some_ : ¬ ((Packet.ofWords e.words).op = 4 || decide (n = 0)) = true := by
    rw [row.op]
    simp only [Bool.or_eq_true, decide_eq_true_eq]
    omega
  have notCarafe : ¬ (Packet.ofWords e.words).op = 3 := by rw [row.op]; decide
  simp only [State.copyRun, nz, ny, nx, Nat.one_mul, if_neg some_, core, caf, hasSrc, src, dst, if_neg notCarafe, if_true]
  exact ⟨_, rfl, ⟨rfl, row.op, row.dims, cmp, rfl, rfl, row.room, row.whole.2⟩, rfl⟩

theorem runCopy_rowCopy {s : State} (owns : OwnsAll s c) (whole : ∀ x ∈ bankWords a n, x ∉ (s.core c).loc.badWords) :
    ∃ st u, s.runCopy e = (st, 0, n, u) ∧ (st = 0 || st = 4) = true ∧ RowMoved c a b (· < n) s u := by
  obtain ⟨nz, ny, nx⟩ := row.dims
  by_cases empty : n = 0
  · have none : s.copyRun e = none := by
      simp [State.copyRun, nx, empty]
    refine ⟨0, s, ?_, rfl, ?_⟩
    · rw [State.runCopy, none, empty]
    · simpa only [empty, Nat.not_lt_zero] using RowMoved.start a b (LocOnly.refl c s) rfl
  · obtain ⟨r, run, rowRun, start⟩ := copyRun_rowCopy row s (Nat.pos_of_ne_zero empty)
    subst start
    have bump := LocOnly.bumpCopy (c := c) r.start n
    obtain ⟨checked, ends⟩ := checks_row rowRun (owns.of_locOnly bump) n (k := ⟨[], true, 0, 0, 0, r.start.bumpCopy n⟩)
      ⟨rfl, rfl, Nat.zero_le n, fun q hq => absurd hq List.not_mem_nil, fun j h => absurd h (Nat.not_lt_zero j)⟩ (Nat.sub_le ..)
    generalize hk : r.checks n n ⟨[], true, 0, 0, 0, r.start.bumpCopy n⟩ = k at checked ends
    generalize hl : (if (k.plain && decide (pickOf r.ctr n 2 = 1)) = true then k.pieces.reverse else k.pieces) = l
    have order : ∀ q, q ∈ l ↔ q ∈ k.pieces := fun q => by
      rw [← hl]
      split
      · exact List.mem_reverse
      · rfl
    obtain ⟨u, moves, moved⟩ := perform_row rowRun whole owns (want := fun i => !e.moved.contains i) (fun j => by rw [row.whole.1]; rfl) l
      (m := ⟨e.met, none, r.start.bumpCopy n⟩) rfl (RowMoved.start a b bump rfl) (fun _ h => h.elim) fun q hq => checked.pieces q ((order q).1 hq)
    refine ⟨if e.met then 4 else 0, u, ?_, by cases e.met <;> rfl, ?_⟩
    · simp only [State.runCopy, run, hk, checked.status, hl, moves]
      rfl
    · have all : ∀ j, (False ∨ holds l j) ↔ j < n := fun j => by
        simp only [false_or, holds, order]
        refine ⟨fun h => ?_, fun h => checked.cover j (ends.symm ▸ h)⟩
        obtain ⟨q, hq, at_⟩ := h
        exact Nat.lt_of_lt_of_le at_.2 (checked.pieces q hq).fits
      simpa only [all] using moved

end

end Sys2Proof.Scope
end

section
/-! Carafe slots, and the packets of a queue at their turn (R137 to R142, R155). -/

namespace Sys2Proof.Scope

open Sys2Proof Sys2Proof.Machine

/-! ### Carafe slots (R155) -/

theorem exec_carafeSlotAssign (s : State) : exec .carafeSlotAssign s = execCarafeSlotAssign s := rfl

/-- The test by which a Carafe finds the packet that waits for its slot. -/
def waitsSlotB (j : Nat) (e : CopyEnt) : Bool :=
  e.caf.isNone && e.early.isNone && (Packet.ofWords e.words).op = 3 && (Packet.ofWords e.words).caf = j

theorem waitsSlotB_iff (e : CopyEnt) (j : Nat) : waitsSlotB j e = true ↔ e.waitsSlot j := by
  simp only [waitsSlotB, CopyEnt.waitsSlot, Bool.and_eq_true, Option.isNone_iff_eq_none, decide_eq_true_eq, and_assoc]

theorem findIdx_first {l : List CopyEnt} {j n : Nat} {e : CopyEnt} (at_ : l[n]? = some e) (waits : e.waitsSlot j)
    (first : ∀ m d, m < n → l[m]? = some d → ¬ d.waitsSlot j) : l.findIdx? (waitsSlotB j) = some n := by
  obtain ⟨lt, rfl⟩ := List.getElem?_eq_some_iff.1 at_
  refine List.findIdx?_eq_some_iff_getElem.2 ⟨lt, (waitsSlotB_iff ..).2 waits, fun m hm => ?_⟩
  rw [waitsSlotB_iff]
  exact first m _ hm (List.getElem?_eq_getElem _)

section
variable {s : State} {j : Fin 16} {n : Nat} {e : CopyEnt} (turn : s.cur.k = j.val) (at_ : (s.core s.cur.core).eng.copies[n]? = some e)
  (waits : e.waitsSlot j.val) (first : ∀ m d, m < n → (s.core s.cur.core).eng.copies[m]? = some d → ¬ d.waitsSlot j.val)
include turn at_ waits first

/-- The oldest packet that waits for a Carafe, at the turn of the Carafe. -/
theorem carafeSlotAssign_eq :
    let k := s.core s.cur.core
    let f := k.eng.carafes.get j
    exec .carafeSlotAssign s = .next (s.setCore s.cur.core (if (!f.act || f.nasgn + f.nfill + f.nheld ≥ f.n) = true then k else { k with
      eng.copies := k.eng.copies.modify n fun (d : CopyEnt) => { d with caf := some (j.val, f.f) }
      eng.carafes := k.eng.carafes.set j { f with
        f := (f.f + 1) % (if f.n = 0 then 1 else f.n), nasgn := f.nasgn + 1, slots := mwr {} f.slots f.f {} } })) := by
  intro k f
  have same : s.cur.k % 16 = j.val := by rw [turn, Nat.mod_eq_of_lt j.isLt]
  have found := findIdx_first at_ waits first
  unfold waitsSlotB at found
  simp only [exec_carafeSlotAssign, execCarafeSlotAssign, same, Fin.eta, State.modCore, found]
  rfl

theorem carafeSlotAssign_assigns (act : ((s.core s.cur.core).eng.carafes.get j).act = true)
    (room : let f := (s.core s.cur.core).eng.carafes.get j; f.nasgn + f.nfill + f.nheld < f.n) :
    let k := s.core s.cur.core
    let f := k.eng.carafes.get j
    exec .carafeSlotAssign s = .next (s.setCore s.cur.core { k with
      eng.copies := k.eng.copies.modify n fun (d : CopyEnt) => { d with caf := some (j.val, f.f) }
      eng.carafes := k.eng.carafes.set j { f with f := (f.f + 1) % f.n, nasgn := f.nasgn + 1, slots := mwr {} f.slots f.f {} } }) := by
  intro k f
  have free : ¬ (!f.act || decide (f.nasgn + f.nfill + f.nheld ≥ f.n)) = true := by
    rw [act]
    simpa using room
  have some_ : f.n ≠ 0 := Nat.ne_of_gt (Nat.lt_of_le_of_lt (Nat.zero_le _) room)
  rw [carafeSlotAssign_eq turn at_ waits first, if_neg free, if_neg some_]

theorem carafeSlotAssign_waits
    (none : let f := (s.core s.cur.core).eng.carafes.get j; f.act = false ∨ f.n ≤ f.nasgn + f.nfill + f.nheld) :
    exec .carafeSlotAssign s = .next (s.setCore s.cur.core (s.core s.cur.core)) := by
  rw [carafeSlotAssign_eq turn at_ waits first, if_pos]
  simpa using none

end

/-! ### Packets of a queue at their turn (R138, R140) -/

theorem exec_copyPacketAccept (s : State) : exec .copyPacketAccept s = execCopyPacketAccept s := rfl

theorem mem_queueRec (l : List ErrRec) (r : ErrRec) : r ∈ queueRec l r := List.mem_append_right _ List.mem_cons_self

theorem MemRecs.queues {s t : State} (h : MemRecs s t) : t.queues = s.queues := by obtain ⟨m, l, rfl⟩ := h; rfl

/-- The entries of an engine depend on the cores and the system engines. -/
theorem copyEnts_congr {s t : State} (cores : t.cores = s.cores) (sys : t.sysCopies = s.sysCopies) (i : Nat) : t.copyEnts i = s.copyEnts i := by
  simp only [State.copyEnts, State.core, cores, sys]

theorem MemRecs.copyEnts {s t : State} (h : MemRecs s t) (i : Nat) : t.copyEnts i = s.copyEnts i := by obtain ⟨m, l, rfl⟩ := h; rfl

theorem copyEnts_putCopyEnts (s : State) {g i : Nat} (hg : g < 72) (hi : i < 72) (l : List CopyEnt) :
    (s.putCopyEnts g l).copyEnts i = if i = g then l else s.copyEnts i := by
  by_cases coreG : g < 64 <;> by_cases coreI : i < 64
  · simp only [State.putCopyEnts, dif_pos coreG, State.copyEnts, dif_pos coreI, core_modCore, Fin.mk.injEq]
    split <;> rfl
  · simp only [State.putCopyEnts, dif_pos coreG, State.copyEnts, dif_neg coreI, if_neg (show i ≠ g by omega)]
    rfl
  · simp only [State.putCopyEnts, dif_neg coreG, State.copyEnts, dif_pos coreI, if_neg (show i ≠ g by omega)]
    rfl
  · have apart : (g - 64) % 8 = (i - 64) % 8 ↔ i = g := by omega
    simp only [State.putCopyEnts, dif_neg coreG, State.copyEnts, dif_neg coreI, Vector.get_eq_getElem, Vector.getElem_set, apart]

theorem putCopyEnts_frame (s : State) (g : Nat) (l : List CopyEnt) :
    (s.putCopyEnts g l).sched = s.sched ∧ (s.putCopyEnts g l).mem = s.mem ∧ (s.putCopyEnts g l).queues = s.queues := by
  unfold State.putCopyEnts
  split <;> exact ⟨rfl, rfl, rfl⟩

theorem ringSegs_memRecs (s : State) (r : QueueRow) (off n : Nat) : MemRecs s (s.ringSegs r off n).2 := by
  have trans := transX_memRecs s r.domain .copyDst (r.base + off) n
  unfold State.ringSegs
  generalize s.transX r.domain .copyDst (r.base + off) n = x at trans ⊢
  obtain ⟨res, t⟩ := x
  cases res <;> exact trans

theorem queueRow_bind {x : Sched} {q : Nat} {r : QueueRow} (h : x.queueRow q = some r) : r.bind < 72 := by
  unfold Sched.queueRow at h
  simp only at h
  split at h
  · exact absurd h (by simp)
  · next usable =>
    obtain rfl := Option.some.inj h
    simp only [Bool.or_eq_true, decide_eq_true_eq] at usable ⊢
    omega

/-! ### The slot of the expected packet (R140) -/

/-- The offset of the slot E mod N in its ring (R138). -/
def slotOffset (r : QueueRow) (x : CopyQueue) : Nat := 0x80 + 64 * (x.expected % r.n)

/-- The words of a slot, and the state after they were read. -/
def slotWords (s : State) (segs : List Seg) : List W64 :=
  (List.range 8).map fun i => BitVec.ofNat 64 (leNat (((s.mem.readSegs segs).bytes.drop (8 * i)).take 8))

def slotRead (s : State) (r : QueueRow) (segs : List Seg) : State :=
  { s with mem := (s.mem.readSegs segs).mem }.addRecs (inDomain r.domain (s.mem.readSegs segs).recs)

theorem slotRead_memRecs (s : State) (r : QueueRow) (segs : List Seg) : MemRecs s (slotRead s r segs) := MemRecs.putMem s _ _

section
variable {s : State} {r : QueueRow} {x : CopyQueue}

theorem readSlotOf_unmapped (unmapped : (s.ringSegs r (slotOffset r x) 64).1 = none) :
    s.readSlotOf r x = .fault (s.ringSegs r (slotOffset r x) 64).2 := by
  unfold slotOffset at *
  unfold State.readSlotOf
  generalize s.ringSegs r (0x80 + 64 * (x.expected % r.n)) 64 = y at unmapped ⊢
  obtain ⟨segs, t⟩ := y
  obtain rfl : segs = none := unmapped
  rfl

variable {segs : List Seg} {s1 : State} (mapped : s.ringSegs r (slotOffset r x) 64 = (some segs, s1))
include mapped

theorem readSlotOf_bad (bad : (s1.mem.readSegs segs).bad = true) : s.readSlotOf r x = .fault (slotRead s1 r segs) := by
  unfold slotOffset at mapped
  simp only [State.readSlotOf, mapped, bad, if_true]
  rfl

variable (good : (s1.mem.readSegs segs).bad = false)
include good

theorem readSlotOf_other (other : (Packet.ofWords (slotWords s1 segs)).tag ≠ x.expected % 2 ^ 32) :
    s.readSlotOf r x = .empty (slotRead s1 r segs) := by
  unfold slotOffset at mapped
  unfold slotWords at other
  simp only [State.readSlotOf, mapped, good, Bool.false_eq_true, if_false, if_pos other]
  rfl

variable (tag : (Packet.ofWords (slotWords s1 segs)).tag = x.expected % 2 ^ 32)
include tag

theorem readSlotOf_noIndex (unmapped : ((slotRead s1 r segs).ringSegs r 8 8).1 = none) :
    s.readSlotOf r x = .fault ((slotRead s1 r segs).ringSegs r 8 8).2 := by
  unfold slotOffset at mapped
  unfold slotWords at tag
  unfold slotRead at unmapped ⊢
  simp only [State.readSlotOf, mapped, good, Bool.false_eq_true, if_false, if_neg (not_not.2 tag)]
  split
  · next found => exact absurd (unmapped.symm.trans (congrArg Prod.fst found)) (by simp)
  · next missed => rw [missed]

theorem readSlotOf_packet {index : List Seg} {s2 : State} (found : (slotRead s1 r segs).ringSegs r 8 8 = (some index, s2)) :
    s.readSlotOf r x = .packet (slotWords s1 segs) index s2 := by
  unfold slotOffset at mapped
  unfold slotWords at tag
  unfold slotRead at found
  simp only [State.readSlotOf, mapped, good, Bool.false_eq_true, if_false, if_neg (not_not.2 tag), found]
  rfl

end

/-! ### The queue at its turn -/

theorem queueHas_of_nextQueue {s : State} {g q : Nat} (h : s.nextQueue g = some q) : s.queueHas g q = true := by
  rcases Option.or_eq_some_iff.1 h with first | ⟨-, first⟩
  · exact (List.mem_filter.1 (List.mem_of_find?_eq_some first)).2
  · exact (List.mem_filter.1 (List.mem_of_head? first)).2

/-- The advance of a queue in the table of expected indexes. -/
def advance (q E : Nat) (y : Nat × CopyQueue) : Nat × CopyQueue := if y.1 = q then (q, ⟨E⟩) else y

theorem lookup_advance (m : SMap CopyQueue) (q E p : Nat) :
    (m.map (advance q E)).lookup p = if p = q then (m.lookup q).map fun _ => ⟨E⟩ else m.lookup p := by
  induction m with
  | nil => simp
  | cons y m ih =>
    obtain ⟨k, v⟩ := y
    by_cases here : k = q
    · by_cases asked : p = q
      · simp [advance, here, asked]
      · have apart : (p == q) = false := by simpa using asked
        simp [advance, here, List.lookup_cons, ih, asked, apart]
    · have apart : (q == k) = false := by simpa using fun h : q = k => here h.symm
      simp only [List.map_cons, advance, if_neg here, List.lookup_cons, ih, apart]
      by_cases asked : p = q
      · simp only [asked, apart, if_true]
      · simp only [asked, if_false]

/-- What a faulting ring leaves: an idle queue, and a record that names it and the packet it expected (R138, R407). -/
structure RingFaulted (s t : State) (q : Nat) (r : QueueRow) (x : CopyQueue) : Prop where
  sched : t.sched = s.sched
  idle : t.queues.lookup q = none
  others : ∀ p, p ≠ q → t.queues.lookup p = s.queues.lookup p
  copyEnts : ∀ g, t.copyEnts g = s.copyEnts g
  record : ∃ e ∈ t.hk.recs, e.event = 0x07 ∧ e.unit = 10 ∧ e.addr = BitVec.ofNat 64 (x.expected % 2 ^ 32 * 2 ^ 32 + q) ∧ e.domain = r.domain

theorem ringFault_faulted {s t : State} (h : MemRecs s t) (q : Nat) (r : QueueRow) (x : CopyQueue) :
    RingFaulted s (t.ringFault q r x.expected) q r x := by
  have left : ((t.queues.filter fun e => decide (e.1 ≠ q)) : SMap CopyQueue) = t.queues.filter fun e => e.1 != q :=
    List.filter_congr fun e _ => by simp [bne, beq_eq_decide]
  have queues : (t.ringFault q r x.expected).queues = t.queues.filter fun e => e.1 != q := left
  refine ⟨h.sched, ?_, fun p hp => ?_, fun g => h.copyEnts g, ⟨_, mem_queueRec _ _, rfl, rfl, rfl, rfl⟩⟩
  · rw [queues, lookup_filter_self]
  · rw [queues, lookup_filter_other _ _ _ hp, h.queues]

/-- What a packet that enters its engine leaves (R140). -/
structure PacketEnters (s u t : State) (q : Nat) (r : QueueRow) (x : CopyQueue) (ws : List W64) (index : List Seg) : Prop where
  sched : t.sched = s.sched
  mem : t.mem = (u.mem.writeSegs index (leBytes 8 ((x.expected + 1) % 2 ^ 64)) false).1
  queue : t.queues.lookup q = some ⟨(x.expected + 1) % 2 ^ 64⟩
  others : ∀ p, p ≠ q → t.queues.lookup p = s.queues.lookup p
  entry : ∃ e, t.copyEnts r.bind = s.copyEnts r.bind ++ [e] ∧ e.words = ws ∧ e.queue = some q ∧ e.domain = r.domain ∧
    ∀ g, g < 72 → g ≠ r.bind → t.copyEnts g = s.copyEnts g

/-- The state in which a packet enters its engine: its index written, its queue advanced and served (R140). -/
def indexWritten (u : State) (q : Nat) (r : QueueRow) (x : CopyQueue) (index : List Seg) : State :=
  let w := u.mem.writeSegs index (leBytes 8 ((x.expected + 1) % 2 ^ 64)) false
  { u with mem := w.1, queues := u.queues.map (advance q ((x.expected + 1) % 2 ^ 64)), served := mwr 0 u.served r.bind (q + 1) }.addRecs
    (inDomain r.domain w.2)

theorem copyEnts_indexWritten (u : State) (q : Nat) (r : QueueRow) (x : CopyQueue) (index : List Seg) (g : Nat) :
    (indexWritten u q r x index).copyEnts g = u.copyEnts g := copyEnts_congr rfl rfl g

section
variable {s : State} {r : QueueRow} {x : CopyQueue} (row : s.sched.queueRow s.cur.k = some r) (queue : s.queues.lookup s.cur.k = some x)
include row queue

theorem packetAccept_idle (idle : s.engineFree r.bind = false ∨ s.nextQueue r.bind ≠ some s.cur.k) : exec .copyPacketAccept s = .next s := by
  simp only [exec_copyPacketAccept, execCopyPacketAccept, row, queue]
  rw [if_pos]
  simpa using idle

variable (turn : s.nextQueue r.bind = some s.cur.k)
include turn

theorem readSlotOf_served (u : State) : s.readSlotOf r x ≠ .empty u := fun empty => by
  have has := queueHas_of_nextQueue turn
  simp [State.queueHas, row, queue, empty] at has

variable (free : s.engineFree r.bind = true)
include free

theorem packetAccept_fault {u : State} (slot : s.readSlotOf r x = .fault u) (h : MemRecs s u) :
    ∃ t, exec .copyPacketAccept s = .next t ∧ RingFaulted s t s.cur.k r x := by
  refine ⟨_, ?_, ringFault_faulted h s.cur.k r x⟩
  simp [exec_copyPacketAccept, execCopyPacketAccept, row, queue, free, turn, slot]

theorem packetAccept_enters {u : State} {ws : List W64} {index : List Seg} (slot : s.readSlotOf r x = .packet ws index u) (h : MemRecs s u) :
    ∃ t, exec .copyPacketAccept s = .next t ∧ PacketEnters s u t s.cur.k r x ws index := by
  have bind := queueRow_bind row
  obtain ⟨e, runs, words, from_, domain⟩ : ∃ e : CopyEnt, exec .copyPacketAccept s = .next (((indexWritten u s.cur.k r x index).putCopyEnts r.bind
      ((indexWritten u s.cur.k r x index).copyEnts r.bind ++ [e])).bump) ∧ e.words = ws ∧ e.queue = some s.cur.k ∧ e.domain = r.domain := by
    have serves : ¬ (!s.engineFree r.bind || decide (s.nextQueue r.bind ≠ some s.cur.k)) = true := by simp [free, turn]
    simp only [exec_copyPacketAccept, execCopyPacketAccept, row, queue, if_neg serves, slot]
    exact ⟨_, rfl, rfl, rfl, rfl⟩
  rw [copyEnts_indexWritten, h.copyEnts] at runs
  obtain ⟨sched, mem, queues⟩ := putCopyEnts_frame (indexWritten u s.cur.k r x index) r.bind (s.copyEnts r.bind ++ [e])
  have lookups := lookup_advance u.queues s.cur.k ((x.expected + 1) % 2 ^ 64)
  have entries := fun g (hg : g < 72) => copyEnts_putCopyEnts (indexWritten u s.cur.k r x index) bind hg (s.copyEnts r.bind ++ [e])
  refine ⟨_, runs, sched.trans h.sched, mem, ?_, fun p hp => ?_, e, ?_, words, from_, domain, fun g hg other => ?_⟩
  · refine (congrArg (List.lookup s.cur.k) queues).trans ((lookups s.cur.k).trans ?_)
    rw [if_pos rfl, h.queues, queue]
    rfl
  · refine (congrArg (List.lookup p) queues).trans ((lookups p).trans ?_)
    rw [if_neg hp, h.queues]
  · exact (entries r.bind bind).trans (if_pos rfl)
  · exact (entries g hg).trans ((if_neg other).trans ((copyEnts_indexWritten ..).trans (h.copyEnts g)))

/-- A queue at its turn whose ring access faults (R138). -/
theorem packetAccept_unmapped (unmapped : (s.ringSegs r (slotOffset r x) 64).1 = none) :
    ∃ t, exec .copyPacketAccept s = .next t ∧ RingFaulted s t s.cur.k r x :=
  packetAccept_fault row queue turn free (readSlotOf_unmapped unmapped) (ringSegs_memRecs ..)

/-- A queue at its turn whose slot can be read: its packet is the expected one and enters, or the ring faults. -/
theorem packetAccept_slot {segs : List Seg} {s1 : State} (mapped : s.ringSegs r (slotOffset r x) 64 = (some segs, s1)) :
    let u := slotRead s1 r segs
    let bad := (s1.mem.readSegs segs).bad
    ∃ t, exec .copyPacketAccept s = .next t ∧ t.sched = s.sched ∧
      ((bad = true ∨ (u.ringSegs r 8 8).1 = none) → RingFaulted s t s.cur.k r x) ∧
      (∀ g u', bad = false → u.ringSegs r 8 8 = (some g, u') → (Packet.ofWords (slotWords s1 segs)).tag = x.expected % 2 ^ 32 ∧
        PacketEnters s u' t s.cur.k r x (slotWords s1 segs) g) := by
  intro u bad
  have slotFrame : MemRecs s u := (show MemRecs s s1 by simpa only [mapped] using ringSegs_memRecs s r (slotOffset r x) 64).trans (slotRead_memRecs ..)
  have indexFrame : MemRecs s (u.ringSegs r 8 8).2 := slotFrame.trans (ringSegs_memRecs ..)
  cases hb : bad with
  | true =>
    obtain ⟨t, runs, faulted⟩ := packetAccept_fault row queue turn free (readSlotOf_bad mapped hb) slotFrame
    exact ⟨t, runs, faulted.sched, fun _ => faulted, fun _ _ good => absurd good (by decide)⟩
  | false =>
    have tag : (Packet.ofWords (slotWords s1 segs)).tag = x.expected % 2 ^ 32 := not_not.1 fun other =>
      readSlotOf_served row queue turn _ (readSlotOf_other mapped hb other)
    rcases hi : u.ringSegs r 8 8 with ⟨_ | index, u'⟩
    · obtain ⟨t, runs, faulted⟩ := packetAccept_fault row queue turn free (readSlotOf_noIndex mapped hb tag (congrArg Prod.fst hi)) indexFrame
      exact ⟨t, runs, faulted.sched, fun _ => faulted, fun _ _ _ found => absurd (congrArg Prod.fst found) (by simp)⟩
    · rw [hi] at indexFrame
      obtain ⟨t, runs, enters⟩ := packetAccept_enters row queue turn free (readSlotOf_packet mapped hb tag hi) indexFrame
      refine ⟨t, runs, enters.sched, fun fault => ?_, fun g v _ found => ?_⟩
      · exact absurd fault (by simp)
      · obtain ⟨rfl, rfl⟩ : index = g ∧ u' = v := by simpa using found
        exact ⟨tag, enters⟩

end

end Sys2Proof.Scope
end

section
/-! How the entries of a core's copy engine end (R143 to R147), and the settlement of O47. -/

namespace Sys2Proof.Scope

open Sys2Proof Sys2Proof.Machine

theorem exec_copyComplete (s : State) : exec .copyComplete s = execCopyComplete s := rfl

/-! ### The entries of a core's engine -/

theorem copyEnts_core (s : State) (c : CoreId) : s.copyEnts c.val = (s.core c).eng.copies := dif_pos c.isLt

theorem engine_core {a : Stim} (flag : a.flag = false) : Stim.engine a = a.core.val := by
  simp only [Stim.engine, flag, Bool.false_eq_true, if_false]

theorem putCopyEnts_core (s : State) (c : CoreId) (l : List CopyEnt) : s.putCopyEnts c.val l = s.modCore c fun k => { k with eng.copies := l } :=
  dif_pos c.isLt

/-- The state without entry i of the engine of core c. -/
def withoutCopy (s : State) (c : CoreId) (i : Nat) : State := s.setCore c { s.core c with eng.copies := (s.core c).eng.copies.eraseIdx i }

theorem core_withoutCopy (s : State) (c : CoreId) (i : Nat) :
    (withoutCopy s c i).core c = { s.core c with eng.copies := (s.core c).eng.copies.eraseIdx i } := State.core_setCore_self s c _

/-! ### How an entry ends -/

/-- The end of an entry of a core with no Carafe slot and no record (R146). -/
theorem endCopy_plain (s : State) {e : CopyEnt} {c : CoreId} (core : e.core = some c) (caf : e.caf = none)
    (record : (Packet.ofWords e.words).rec_ = 0) (st d : Byte) (n : Nat) :
    s.endCopy e st d n = s.modCore c fun k => endsToken k e.token (st = 0 || st = 4) := by
  simp only [State.endCopy, core, caf, record, if_true]
  cases e.token with
  | none => exact (setCore_core s c).symm
  | some t => rfl

theorem copyReady_early {s : State} {e : CopyEnt} (early : e.early.isSome = true) : s.copyReady e = true := by
  rw [State.copyReady, early, Bool.true_or]

theorem copyReady_waits {s : State} {e : CopyEnt} {c : CoreId} (core : e.core = some c) (early : e.early = none) (waits : (s.core c).waits e.waits) :
    s.copyReady e = false := by
  have pending := (waits_iff (s.core c) e.waits).2 waits
  simp [State.copyReady, core, early, pending]

theorem copyReady_met {s : State} {e : CopyEnt} {c : CoreId} (core : e.core = some c) (met : ¬ (s.core c).waits e.waits)
    (ord : e.ordAfter = []) (op : (Packet.ofWords e.words).op ≠ 3) : s.copyReady e = true := by
  have pending := mt (waits_iff (s.core c) e.waits).1 met
  simp [State.copyReady, core, ord, op, pending]

theorem copyResult_early {s : State} {e : CopyEnt} {st d : Byte} {n : Nat} (early : e.early = some (st, d, n)) : s.copyResult e = (st, d, n, s) := by
  rw [State.copyResult, early]

theorem copyResult_dep {s : State} {e : CopyEnt} {c : CoreId} (core : e.core = some c) (early : e.early = none)
    (failed : (s.core c).waitFailed e.waits) : s.copyResult e = (0x06, 0, 0, s) := by
  simp only [State.copyResult, early, core, (waitFailed_iff ..).2 failed, if_true]

theorem copyResult_runs {s : State} {e : CopyEnt} {c : CoreId} (core : e.core = some c) (early : e.early = none)
    (met : ¬ (s.core c).waitFailed e.waits) : s.copyResult e = s.runCopy e := by
  simp only [State.copyResult, early, core, if_neg (mt (waitFailed_iff ..).1 met)]

/-- The waits of an entry do not see that it left its engine. -/
theorem waitFailed_withoutCopy (s : State) (c : CoreId) (i : Nat) (l : List Nat) : ((withoutCopy s c i).core c).waitFailed l ↔ (s.core c).waitFailed l := by
  rw [core_withoutCopy]
  rfl

theorem OwnsAll.withoutCopy {s : State} {c : CoreId} (owns : OwnsAll s c) (i : Nat) : OwnsAll (withoutCopy s c i) c := by
  have self := core_withoutCopy s c i
  have mode : ∀ d, ((Scope.withoutCopy s c i).core d).mode = (s.core d).mode := fun d => by
    by_cases hd : d = c
    · rw [hd, self]
    · rw [Scope.withoutCopy, State.core_setCore_other _ _ _ _ hd]
  have absent : (Scope.withoutCopy s c i).absent c = s.absent c := absent_congr (s := s) (t := Scope.withoutCopy s c i) rfl rfl mode c
  refine ⟨fun g => ?_, absent.trans owns.present⟩
  rw [self]
  exact owns.free g

section
variable {s : State} {e : CopyEnt} (flag : s.cur.flag = false) (entry : (s.core s.cur.core).eng.copies[s.cur.k]? = some e)
include flag entry

theorem copyComplete_waits (held : s.copyReady e = false) : exec .copyComplete s = .next s := by
  simp only [exec_copyComplete, execCopyComplete, engine_core flag, copyEnts_core, entry, held, Bool.not_false, if_true]

variable (core : e.core = some s.cur.core) (caf : e.caf = none) (record : (Packet.ofWords e.words).rec_ = 0)
  (part : s.cur.v.extractLsb' 62 2 = 0) (ready : s.copyReady e = true)
include core caf record part ready

theorem copyComplete_result {st d : Byte} {n : Nat} {u : State} (result : (withoutCopy s s.cur.core s.cur.k).copyResult e = (st, d, n, u)) :
    exec .copyComplete s = .next (u.modCore s.cur.core fun k => endsToken k e.token (st = 0 || st = 4)) := by
  have whole : bits s.cur.v 62 2 = 0 := congrArg BitVec.toNat part
  have left : s.putCopyEnts s.cur.core.val ((s.core s.cur.core).eng.copies.eraseIdx s.cur.k) = withoutCopy s s.cur.core s.cur.k := putCopyEnts_core ..
  rw [← endCopy_plain u core caf record st d n]
  simp only [exec_copyComplete, execCopyComplete, engine_core flag, copyEnts_core, entry, ready, whole, left, result]
  rfl

/-- An entry that ends without an access leaves its engine, and its token ends. -/
theorem copyComplete_endsToken (lt : ∀ t, e.token = some t → t < 32) {st d : Byte} {n : Nat}
    (result : (withoutCopy s s.cur.core s.cur.k).copyResult e = (st, d, n, withoutCopy s s.cur.core s.cur.k)) :
    let c := s.cur.core
    let k := s.core c
    ∃ l, exec .copyComplete s = .next (s.setCore c l) ∧ l.eng.copies = k.eng.copies.eraseIdx s.cur.k ∧
      (∀ t, t < 32 → l.token t = k.tokensAfter e.token (st = 0 || st = 4) t) ∧ l.loc = k.loc ∧ l.regs = k.regs ∧ l.ms = k.ms := by
  intro c k
  have ends := copyComplete_result flag entry core caf record part ready result
  rw [withoutCopy, modCore_setCore] at ends
  obtain ⟨ts, eq⟩ := endsToken_eq { k with eng.copies := k.eng.copies.eraseIdx s.cur.k } e.token (st = 0 || st = 4)
  refine ⟨_, ends, ?_, fun t ht => token_endsToken _ e.token _ lt ht, ?_⟩
  · rw [eq]
  · rw [eq]
    exact ⟨rfl, rfl, rfl⟩

end

/-- A copy of a row within the scratch of its core moves every byte, and its token ends as done (R144, R146). -/
theorem copyComplete_row {s : State} {e : CopyEnt} (flag : s.cur.flag = false) (entry : (s.core s.cur.core).eng.copies[s.cur.k]? = some e)
    (part : s.cur.v.extractLsb' 62 2 = 0) (lt : ∀ t, e.token = some t → t < 32) {a b n : Nat} (row : RowCopy e s.cur.core a b n)
    (waits : ¬ (s.core s.cur.core).waits e.waits) (met : ¬ (s.core s.cur.core).waitFailed e.waits) (owns : OwnsAll s s.cur.core)
    (whole : ∀ x ∈ bankWords a n, x ∉ (s.core s.cur.core).loc.badWords) :
    let c := s.cur.core
    let k := s.core c
    ∃ t, exec .copyComplete s = .next t ∧ SameOthers c s t ∧ t.mem = s.mem ∧ t.sched = s.sched ∧ (t.core c).regs = k.regs ∧
      (t.core c).eng.copies = k.eng.copies.eraseIdx s.cur.k ∧ (∀ u, u < 32 → (t.core c).token u = k.tokensAfter e.token true u) ∧
      ∀ x, (t.core c).scratchByte x = if b ≤ x ∧ x < b + n then k.scratchByte (a + (x - b)) else k.scratchByte x := by
  intro c k
  obtain ⟨core, queue, caf, early, ord⟩ := row.owner
  have op : (Packet.ofWords e.words).op ≠ 3 := by rw [row.op]; decide
  have self := core_withoutCopy s c s.cur.k
  obtain ⟨st, u, runs, done, moved⟩ := runCopy_rowCopy row (owns.withoutCopy s.cur.k) (by rw [self]; exact whole)
  have ends := copyComplete_result flag entry core caf row.plain.1 part (copyReady_met core waits ord op)
    ((copyResult_runs core early (mt (waitFailed_withoutCopy s c s.cur.k e.waits).1 met)).trans runs)
  rw [done] at ends
  obtain ⟨l, uc⟩ := moved.frame.core
  rw [self] at uc
  obtain ⟨ts, eq⟩ := endsToken_eq (u.core c) e.token true
  have tc := State.core_modCore_self u c fun k => endsToken k e.token true
  refine ⟨_, ends, fun d hd => ?_, moved.frame.mem, moved.frame.sched, ?_, ?_, fun t ht => ?_, fun x => ?_⟩
  · rw [State.core_modCore_other _ _ _ _ hd, moved.frame.others d hd]
    exact State.core_setCore_other _ _ _ _ hd
  · rw [tc, eq, uc]
  · rw [tc, eq, uc]
  · rw [tc, token_endsToken _ _ _ lt ht, uc]
    rfl
  · rw [tc, eq]
    have bytes := moved.moved (x - b)
    have kept := moved.kept x
    rw [self] at bytes kept
    split
    · next h =>
      rw [Nat.add_sub_cancel' h.1] at bytes
      exact bytes (by omega)
    · next h => exact kept fun j hj => by omega

/-! ### O47 -/

/-- Settles O47: a queue at its turn by what its slot shows, a Carafe by its oldest waiting packet, and an entry by how it ends, with a row in
scratch moved piece by piece. -/
theorem copiesRunToTheirEnd : Obligations.CopiesRunToTheirEnd := by
  unfold Obligations.CopiesRunToTheirEnd
  constructor
  · intro s q r x row queue
    refine ⟨packetAccept_idle row queue, ?_⟩
    intro faults free turn
    have faulted : ∀ t, RingFaulted s t q r x → faults t := fun t h => ⟨h.idle, h.others, fun g _ => h.copyEnts g, h.record⟩
    refine ⟨fun unmapped => ?_, fun segs s1 mapped => ?_⟩
    · obtain ⟨t, runs, h⟩ := packetAccept_unmapped row queue turn free unmapped
      exact ⟨t, runs, h.sched, faulted t h⟩
    · obtain ⟨t, runs, sched, fault, packet⟩ := packetAccept_slot row queue turn free mapped
      refine ⟨t, runs, sched, fun h => faulted t (fault h), fun g u' good found => ?_⟩
      obtain ⟨tag, enters⟩ := packet g u' good found
      exact ⟨tag, enters.mem, enters.queue, enters.others, enters.entry⟩
  · intro s c k
    refine ⟨fun j n e turn at_ waits first =>
      ⟨carafeSlotAssign_assigns turn at_ waits first, carafeSlotAssign_waits turn at_ waits first⟩, ?_⟩
    intro e flag entry core caf lt record part ends
    refine ⟨fun st d n early => ?_, fun early waits => ?_, fun early met failed ord op => ?_, fun a b n row met ok present free good => ?_⟩
    · exact copyComplete_endsToken flag entry core caf record part (copyReady_early (by rw [early]; rfl)) lt (copyResult_early early)
    · exact copyComplete_waits flag entry (copyReady_waits core early waits)
    · exact copyComplete_endsToken flag entry core caf record part (copyReady_met core met ord op) lt
        (copyResult_dep core early ((waitFailed_withoutCopy ..).2 failed))
    · exact copyComplete_row flag entry part lt row met ok ⟨free, present⟩ good

end Sys2Proof.Scope
end
